-- ==== Sys2Proof/Word.lean ====
section
/-! DEFINITION. The word types of the KG-6400 and nothing else (spec/02 R42, spec/04 R91). -/

namespace Sys2Proof

/-- A scalar register, a queue entry, a control register (R91). -/
abbrev Word := BitVec 64
/-- One of the 64 lanes of a vector register (R91). -/
abbrev Lane := BitVec 32
/-- A vector register, an operand-file register, a latch (R91). -/
abbrev Vec := BitVec 2048
/-- A predicate register: one bit for each lane (R91). -/
abbrev Mask := BitVec 64
/-- The smallest addressable unit (R2). -/
abbrev Byte := BitVec 8

end Sys2Proof
end

