-- ==== Sys2Proof/Machine/Bits.lean ====
section
/-! DEFINITION. Bit-field, byte-order and list helpers used throughout the model (R2, R7). -/

namespace Sys2Proof.Machine
open Sys2Proof

/-- Bits h down to l of a word as a number, with w = h - l + 1 (R2). -/
def fld {n : Nat} (x : BitVec n) (lo w : Nat) : Nat := (x.toNat / 2 ^ lo) % 2 ^ w

/-- A field of fixed width taken from a word (R2). -/
abbrev fldv {n : Nat} (x : BitVec n) (lo w : Nat) : BitVec w := x.extractLsb' lo w

/-- One bit of a word as a truth value. -/
def bitAt {n : Nat} (x : BitVec n) (i : Nat) : Bool := x.getLsbD i

/-- A truth value as a bit of a word at place `i`. -/
def bitTo (n i : Nat) (b : Bool) : BitVec n := if b then BitVec.ofNat n (2 ^ i) else 0

/-- A number placed in the w-bit field of an n-bit word that starts at bit lo (R7: the low bits are kept). -/
def put (n lo w v : Nat) : BitVec n := BitVec.ofNat n ((v % 2 ^ w) * 2 ^ lo)

/-- Word with the w-bit field at lo replaced. -/
def setFld {n : Nat} (x : BitVec n) (lo w v : Nat) : BitVec n :=
  (x &&& ~~~ (put n lo w (2 ^ w - 1))) ||| put n lo w v

/-- The `k` bytes of a number, lowest address first (R2). -/
def leBytes : Nat → Nat → List Byte
  | 0, _ => []
  | k + 1, v => BitVec.ofNat 8 v :: leBytes k (v / 256)

/-- The number that bytes stand for, lowest address first (R2). -/
def leNat : List Byte → Nat
  | [] => 0
  | b :: bs => b.toNat + 256 * leNat bs

/-- The bytes of a bit vector, lowest address first. -/
def toBytes {n : Nat} (x : BitVec n) : List Byte := leBytes (n / 8) x.toNat

/-- A bit vector from its bytes, lowest address first. -/
def ofBytes (n : Nat) (bs : List Byte) : BitVec n := BitVec.ofNat n (leNat bs)

/-- Sign extension to a word. -/
def sx {n : Nat} (x : BitVec n) : Word := x.signExtend 64

/-- Zero extension to a word. -/
def zx64 {n : Nat} (x : BitVec n) : Word := x.zeroExtend 64

/-- The numbers 0 to n - 1 in order. -/
abbrev upTo (n : Nat) : List Nat := List.range n

/-- Smallest whole number not below a / b. -/
def ceilDiv (a b : Nat) : Nat := (a + b - 1) / b

/-- One 32-bit lane of a vector (R91). -/
def lane (v : Vec) (i : Nat) : Lane := v.extractLsb' (32 * i) 32

/-- A vector from its 64 lanes, lane 0 lowest. -/
def ofLanes (f : Nat → Lane) : Vec :=
  (upTo 64).foldr (fun i acc => (acc <<< 32) ||| (f i).zeroExtend 2048) 0

/-- Lanes chosen by a mask from one vector, the others from another (R48). -/
def mergeLanes (m : Mask) (new old : Vec) : Vec :=
  ofLanes fun i => if m.getLsbD i then lane new i else lane old i

/-- Number of one bits. -/
def popCount {n : Nat} (x : BitVec n) : Nat := ((upTo n).filter fun i => x.getLsbD i).length

/-- The generator states seeded with z (R171). -/
def seedSrs (z : BitVec 32) : Vector (BitVec 32) 64 := Vector.ofFn fun l =>
  let x := z + BitVec.ofNat 32 (l.val * 0x6A09E667)
  if x = 0 then 0x5D2E9A63 else x

/-- Replace element i of a list; out of range, no change. -/
def listSet {α : Type} (l : List α) (i : Nat) (a : α) : List α := l.set i a

end Sys2Proof.Machine
end

