-- ==== Sys2Proof/Machine/Flags.lean ====
section
/-! DEFINITION. Number formats, exact arithmetic, rounding and the sticky flags it sets (spec/06 R153-R182). Bits in,
exact values between, one rounding, bits out. -/

namespace Sys2Proof.Machine
open Sys2Proof

/-! ## Flags (R180) -/

def flagNV : BitVec 7 := 1
def flagOF : BitVec 7 := 2
def flagUF : BitVec 7 := 4
def flagNX : BitVec 7 := 8
def flagZS : BitVec 7 := 16
def flagNS : BitVec 7 := 32
def flagIW : BitVec 7 := 64
/-- A flag when a condition holds. -/
def flagIf (b : Bool) (f : BitVec 7) : BitVec 7 := if b then f else 0

/-! ## Exact values -/

/-- An extended real with a signed zero: NaN, an infinity, or ± m × 2^e. -/
inductive Ext where
  | nan
  | inf (neg : Bool)
  | fin (neg : Bool) (m : Nat) (e : Int)
  deriving DecidableEq, Repr

def Ext.zero : Ext := .fin false 0 0
def Ext.isNan : Ext → Bool
  | .nan => true
  | _ => false
def Ext.isInf : Ext → Bool
  | .inf _ => true
  | _ => false
def Ext.isFin : Ext → Bool
  | .fin _ _ _ => true
  | _ => false
def Ext.isZero : Ext → Bool
  | .fin _ 0 _ => true
  | _ => false
/-- The sign; NaN has none. -/
def Ext.sign : Ext → Bool
  | .nan => false
  | .inf n => n
  | .fin n _ _ => n
def Ext.neg : Ext → Ext
  | .nan => .nan
  | .inf n => .inf (!n)
  | .fin n m e => .fin (!n) m e
def Ext.abs : Ext → Ext
  | .nan => .nan
  | .inf _ => .inf false
  | .fin _ m e => .fin false m e
/-- A value times a power of two. -/
def Ext.scale (k : Int) : Ext → Ext
  | .fin n m e => .fin n m (e + k)
  | x => x

/-- The exact product, and whether it is ∞ × 0, which is NaN with NV (R174). -/
def Ext.mul (a b : Ext) : Ext × Bool :=
  match a, b with
  | .nan, _ => (.nan, false)
  | _, .nan => (.nan, false)
  | .inf n, .inf k => (.inf (n != k), false)
  | .inf n, .fin k m _ => if m = 0 then (.nan, true) else (.inf (n != k), false)
  | .fin k m _, .inf n => if m = 0 then (.nan, true) else (.inf (n != k), false)
  | .fin n m e, .fin k l g => (.fin (n != k) (m * l) (e + g), false)

/-- A finite value as an integer at an exponent not above its own. -/
def atExp (neg : Bool) (m : Nat) (e lo : Int) : Int :=
  let v : Int := (m * 2 ^ (e - lo).toNat : Nat)
  if neg then -v else v

/-- The exact sum of the finite members, as an integer and its exponent. -/
def finSum (l : List Ext) : Int × Int :=
  let lo := l.foldl (fun (a : Int) x => match x with
    | .fin _ m e => if m = 0 then a else min a e
    | _ => a) 100000
  (l.foldl (fun (a : Int) x => match x with
    | .fin n m e => if m = 0 then a else a + atExp n m e lo
    | _ => a) 0, lo)

/-- The exact sum of addends with the special values of R174, and whether +∞ met -∞ (NV), also beside a NaN. `rdn` says
that an exact zero sum is -0 whatever the addends' signs (R177). -/
def Ext.sum (rdn : Bool) (l : List Ext) : Ext × Bool :=
  let pos := l.any fun x => x.isInf && !x.sign
  let neg := l.any fun x => x.isInf && x.sign
  if l.any Ext.isNan then (.nan, pos && neg)
  else
    if pos && neg then (.nan, true)
    else if pos then (.inf false, false)
    else if neg then (.inf true, false)
    else
      let (v, lo) := finSum l
      if v = 0 then (.fin (rdn || l.all Ext.sign) 0 0, false)
      else (.fin (v < 0) v.natAbs lo, false)

/-- Order of two values that are not NaN, -0 below +0 (R177, R257, R275): a ≤ b. -/
def Ext.le (a b : Ext) : Bool :=
  match a, b with
  | .nan, _ => false
  | _, .nan => false
  | .inf n, y => n || y == .inf false
  | _, .inf k => !k
  | .fin n m e, .fin k l g =>
    if m = 0 ∧ l = 0 then n || !k
    else
      let lo := min e g
      atExp n m e lo ≤ atExp k l g lo
/-- Order by value, the zeros equal; NaN is not ordered. -/
def Ext.lt (a b : Ext) : Bool :=
  match a, b with
  | .nan, _ => false
  | _, .nan => false
  | .fin _ m _, .fin _ l _ => if m = 0 ∧ l = 0 then false else a.le b && !b.le a
  | _, _ => a.le b && !b.le a
/-- Equality by value, the zeros equal; NaN equals nothing. -/
def Ext.eqv (a b : Ext) : Bool := !a.isNan && !b.isNan && !a.lt b && !b.lt a

/-! ## Formats (R154, R156, R157) -/

/-- What the top of a floating format's code space holds. -/
inductive Top where
  /-- Infinities and NaNs at the all-ones exponent. -/
  | ieee
  /-- One NaN, the all-ones code of each sign. -/
  | oneNan
  | none
  deriving DecidableEq, Repr

/-- An element format: floating with M mantissa bits and a bias, or an integer. -/
inductive Fmt where
  | flt (w mb bias : Nat) (sgn : Bool) (top : Top)
  | int (w : Nat)
  | nat (w : Nat)
  deriving DecidableEq, Repr

def fp64 : Fmt := .flt 64 52 1023 true .ieee
def fp32 : Fmt := .flt 32 23 127 true .ieee
def fp16 : Fmt := .flt 16 10 15 true .ieee
def bf16 : Fmt := .flt 16 7 127 true .ieee
def e4m3 : Fmt := .flt 8 3 7 true .oneNan
def e5m2 : Fmt := .flt 8 2 15 true .ieee
def e3m2 : Fmt := .flt 6 2 3 true .none
def e2m3 : Fmt := .flt 6 3 1 true .none
def e2m1 : Fmt := .flt 4 1 1 true .none
def ue5m3 : Fmt := .flt 8 3 15 false .oneNan

/-- Bits of a format's code. -/
def Fmt.width : Fmt → Nat
  | .flt w _ _ _ _ => w
  | .int w => w
  | .nat w => w
def Fmt.isInt : Fmt → Bool
  | .flt _ _ _ _ _ => false
  | _ => true
def Fmt.hasNan : Fmt → Bool
  | .flt _ _ _ _ t => t != .none
  | _ => false
def Fmt.hasInf : Fmt → Bool
  | .flt _ _ _ _ t => t == .ieee
  | _ => false
/-- Exponent of the smallest normal; integers have none and round at 2^0 (R164). -/
def Fmt.emin : Fmt → Int
  | .flt _ _ b _ _ => 1 - (b : Int)
  | _ => 0
def Fmt.mbits : Fmt → Nat
  | .flt _ mb _ _ _ => mb
  | _ => 0
/-- Bits of the exponent field. -/
def Fmt.ebits : Fmt → Nat
  | .flt w mb _ s _ => w - mb - (if s then 1 else 0)
  | _ => 0
/-- lim(fmt, sign) as m × 2^e (R164). -/
def Fmt.lim (F : Fmt) (neg : Bool) : Nat × Int :=
  match F with
  | .flt _ mb b _ t =>
    let emax : Int := 2 ^ F.ebits - 1 - (b : Int)
    match t with
    | .ieee => (2 ^ (mb + 1) - 1, emax - 1 - (mb : Int))
    | .oneNan => (2 ^ (mb + 1) - 2, emax - (mb : Int))
    | .none => (2 ^ (mb + 1) - 1, emax - (mb : Int))
  | .int w => (if neg then 2 ^ (w - 1) else 2 ^ (w - 1) - 1, 0)
  | .nat w => (if neg then 0 else 2 ^ w - 1, 0)
/-- Code of the default NaN (R156). -/
def Fmt.nanCode : Fmt → Nat
  | .flt w mb _ s t => match t with
    | .ieee => 2 ^ (w - 1) - 2 ^ (mb - 1)
    | .oneNan => if s then 2 ^ (w - 1) - 1 else 2 ^ w - 1
    | .none => 0
  | _ => 0

/-- The value of a code (R154, R157). -/
def Fmt.dec (F : Fmt) (c : Nat) : Ext :=
  match F with
  | .flt w mb b s t =>
    let neg := s && (c / 2 ^ (w - 1)) % 2 == 1
    let e := (c / 2 ^ mb) % 2 ^ F.ebits
    let m := c % 2 ^ mb
    let ones := e == 2 ^ F.ebits - 1
    if t == .ieee && ones then (if m = 0 then .inf neg else .nan)
    else if t == .oneNan && ones && m == 2 ^ mb - 1 then .nan
    else if e = 0 then .fin neg m (1 - (b : Int) - mb)
    else .fin neg (2 ^ mb + m) ((e : Int) - b - mb)
  | .int w =>
    let v := c % 2 ^ w
    if 2 ^ (w - 1) ≤ v then .fin true (2 ^ w - v) 0 else .fin false v 0
  | .nat w => .fin false (c % 2 ^ w) 0

/-- A number times 2^k, a negative k dividing. -/
def shiftBy (m : Nat) (k : Int) : Nat := if 0 ≤ k then m * 2 ^ k.toNat else m / 2 ^ (-k).toNat

/-- The code of a value that the format holds, of an infinity or of a NaN (R167). -/
def Fmt.enc (F : Fmt) (y : Ext) : Nat :=
  match F with
  | .flt w mb b s _ =>
    let sb (n : Bool) := if s && n then 2 ^ (w - 1) else 0
    let mag (m : Nat) (e : Int) : Nat :=
      if m = 0 then 0
      else
        let l : Int := Nat.log2 m + e
        if l < F.emin then shiftBy m (e - (F.emin - mb))
        else ((l + b).toNat - 1) * 2 ^ mb + shiftBy m (e - (l - mb))
    match y with
    | .nan => F.nanCode
    | .inf n =>
      if F.hasInf then sb n + (2 ^ F.ebits - 1) * 2 ^ mb
      else if F.hasNan then F.nanCode
      else sb n + mag (F.lim n).1 (F.lim n).2
    | .fin n m e => sb n + mag m e
  | .int w => match y with
    | .fin n m e => let v := shiftBy m e; if n then (2 ^ w - v) % 2 ^ w else v
    | _ => 0
  | .nat _ => match y with
    | .fin _ m e => shiftBy m e
    | _ => 0

/-! ## Rounding (R163-R168) -/

/-- How round ended: the value, f > 0, whether it reached ovf. -/
structure Rounded where
  y : Ext
  inexact : Bool
  ovf : Bool

/-- Rounding modes (R163): 0 RNE, 1 RTZ, 2 RDN, 3 RUP, 4 SR. The truncated n and the fraction rem / den decide. -/
def roundUp (mode rnd : Nat) (neg : Bool) (n rem den : Nat) : Bool :=
  match mode with
  | 0 => den < 2 * rem || (2 * rem == den && n % 2 == 1)
  | 1 => false
  | 2 => 0 < rem && neg
  | 3 => 0 < rem && !neg
  | _ => 2 ^ 32 ≤ rem * 2 ^ 32 / den + rnd

/-- ovf (R164). -/
def overflowed (F : Fmt) (mode : Nat) (neg : Bool) : Ext :=
  if F.isInt || mode == 1 || (mode == 2 && !neg) || (mode == 3 && neg) then .fin neg (F.lim neg).1 (F.lim neg).2
  else .inf neg

/-- m × 2^q is above lim. -/
def aboveLim (F : Fmt) (neg : Bool) (m : Nat) (q : Int) : Bool :=
  let (l, e) := F.lim neg
  let lo := min q e
  l * 2 ^ (e - lo).toNat < m * 2 ^ (q - lo).toNat

/-- The last steps of R164, from the grid exponent q, n and f = rem / den. -/
def roundCore (F : Fmt) (mode rnd : Nat) (neg : Bool) (q : Int) (n rem den : Nat) : Rounded :=
  let n := if roundUp mode rnd neg n rem den then n + 1 else n
  if aboveLim F neg n q then { y := overflowed F mode neg, inexact := 0 < rem, ovf := true }
  else { y := .fin neg n q, inexact := 0 < rem, ovf := false }

/-- Grid exponent of R164 for a value of exponent floor(log2 |x|) = l. -/
def gridExp (F : Fmt) (l : Int) : Int := if F.isInt then 0 else max l F.emin - F.mbits

/-- round(x, fmt, mode) with the generator's draw (R164). -/
def roundX (F : Fmt) (mode rnd : Nat) (x : Ext) : Rounded :=
  match x with
  | .fin neg m e =>
    if m = 0 then { y := x, inexact := false, ovf := false }
    else
      let q := gridExp F (Nat.log2 m + e)
      if q ≤ e then roundCore F mode rnd neg q (m * 2 ^ (e - q).toNat) 0 1
      else
        let d := 2 ^ (q - e).toNat
        roundCore F mode rnd neg q (m / d) (m % d) d
  | _ => { y := x, inexact := false, ovf := false }

/-- sat(x, fmt) of a rounded value (R165). -/
def satX (F : Fmt) (y : Ext) : Ext :=
  match y with
  | .inf n => .fin n (F.lim n).1 (F.lim n).2
  | y => y

/-- x is not zero and below the smallest normal (R168). -/
def tiny (F : Fmt) (x : Ext) : Bool :=
  match x with
  | .fin _ m e => m ≠ 0 && !F.isInt && (Nat.log2 m + e : Int) < F.emin
  | _ => false

/-- Code and flags of a rounded value (R166-R168). -/
def finishConv (F : Fmt) (sat : Bool) (x : Ext) (r : Rounded) : Nat × BitVec 7 :=
  let s := sat || F.isInt
  let y := if s then satX F r.y else r.y
  let stays := match y with
    | .inf _ => F.hasInf
    | _ => false
  (F.enc y,
   flagIf ((x.isNan && !F.hasNan) || (F.isInt && !x.isFin)) flagNV |||
   flagIf ((x.isFin && r.ovf) || (x.isInf && !stays)) flagOF |||
   flagIf (tiny F x && r.inexact) flagUF |||
   flagIf (x.isFin && (r.inexact || r.ovf)) flagNX)

/-- A conversion of x into a format (R166, R168). -/
def convert (F : Fmt) (mode rnd : Nat) (sat : Bool) (x : Ext) : Nat × BitVec 7 := finishConv F sat x (roundX F mode rnd x)

/-! ## Square root -/

/-- floor(sqrt n), from the bits above. -/
def isqrtGo (n : Nat) : Nat → Nat → Nat
  | 0, r => r
  | k + 1, r =>
    let c := r + 2 ^ k
    isqrtGo n k (if c * c ≤ n then c else r)
def isqrt (n : Nat) : Nat := isqrtGo n (Nat.log2 n / 2 + 1) 0

/-- The square root of a positive value, rounded once. -/
def roundSqrt (F : Fmt) (mode rnd m : Nat) (e : Int) : Rounded :=
  let l : Int := (Nat.log2 m + e) / 2
  let q := gridExp F l
  let k := e - 2 * q + 64
  let num := shiftBy m k
  let exact := 0 ≤ k || m % 2 ^ (-k).toNat == 0
  let r := isqrt num
  let fr := r % 2 ^ 32
  let rest := if exact && r * r == num then 0 else 1
  roundCore F mode rnd false q (r / 2 ^ 32) (2 * fr + rest) (2 ^ 33)

/-! ## The stochastic generator (R170) -/

/-- One step of a generator state. -/
def srNext (x : BitVec 32) : BitVec 32 :=
  let x := x ^^^ (x <<< 13)
  let x := x ^^^ (x >>> 17)
  x ^^^ (x <<< 5)

/-! ## Operations on FP32 and other codes (R177) -/

/-- An exact result rounded into a format, with the flags of its own invalid operation. -/
def deliver (F : Fmt) (mode rnd : Nat) (sat : Bool) (x : Ext × Bool) : Nat × BitVec 7 :=
  let (c, f) := convert F mode rnd sat x.1
  (c, f ||| flagIf x.2 flagNV)

/-- a × b + c rounded once. -/
def fmaX (rdn : Bool) (a b c : Ext) : Ext × Bool :=
  let (p, nv) := a.mul b
  let (s, nv2) := Ext.sum rdn [p, c]
  (s, nv || nv2)

/-- The lesser, NaN if either is NaN (R257, R275). -/
def minX (a b : Ext) : Ext := if a.isNan || b.isNan then .nan else if a.le b then a else b
/-- The greater, NaN if either is NaN. -/
def maxX (a b : Ext) : Ext := if a.isNan || b.isNan then .nan else if a.le b then b else a

end Sys2Proof.Machine
end

