-- ==== Sys2Proof/Machine/Formats.lean ====
section
/-! DEFINITION. The operand formats by code, packed elements and block-scaled records: decoding and encoding (spec/06
R153, R158-R162, R169). -/

namespace Sys2Proof.Machine
open Sys2Proof

/-- Element format of a format code (R153); codes 0x14 and above are reserved. -/
def elemFmt (c : Nat) : Fmt :=
  match c with
  | 0x00 => fp32 | 0x01 => fp16 | 0x02 => bf16 | 0x03 => e4m3 | 0x04 => e5m2 | 0x05 => e3m2 | 0x06 => e2m3 | 0x07 => e2m1
  | 0x08 => .int 8 | 0x09 => .nat 8 | 0x0A => .int 4 | 0x0B => .nat 4
  | 0x0C => e4m3 | 0x0D => e5m2 | 0x0E => e3m2 | 0x0F => e2m3 | 0x10 => e2m1 | 0x11 => e2m1
  | 0x12 => e4m3 | 0x13 => e4m3
  | _ => fp32

/-- Bits of an element. -/
def elemBits (c : Nat) : Nat := (elemFmt c).width
/-- The format stores blocks of 32 elements in records. -/
def isBlock (c : Nat) : Bool := 0x0C ≤ c && c ≤ 0x12
/-- Bytes of a record (R153, R159). -/
def recBytes (c : Nat) : Nat := 1 + 4 * elemBits c
/-- Elements and bytes of one storage unit (R153, R158). -/
def storageUnit (c : Nat) : Nat × Nat :=
  if isBlock c then (32, recBytes c)
  else match elemBits c with
    | 32 => (1, 4) | 16 => (1, 2) | 8 => (1, 1) | 6 => (4, 3) | _ => (2, 1)

/-- Element k of a little-endian bit stream of w-bit elements (R158). -/
def streamGet (w : Nat) (v k : Nat) : Nat := v / 2 ^ (w * k) % 2 ^ w
/-- A bit stream of w-bit elements as a number. -/
def streamOf (w : Nat) : List Nat → Nat
  | [] => 0
  | c :: t => c % 2 ^ w + 2 ^ w * streamOf w t

/-! ## Decoding (R154, R160, R161) -/

/-- The scale of a record: none for NaN, otherwise its exact value (R160, R161). `bexp` is the DFP8 base exponent. -/
def scaleOf (c : Nat) (bexp : Int) (b : Nat) : Ext :=
  if c ≤ 0x10 then (if b = 0xFF then .nan else .fin false 1 ((b : Int) - 127))
  else if c = 0x11 then ue5m3.dec b
  else if b / 16 ≠ 0 then .nan
  else .fin false 1 (bexp - (b % 16 : Nat))

/-- An element under a zero scale (R161). -/
def zeroScaled (x : Ext) : Ext :=
  match x with
  | .fin n _ _ => .fin n 0 0
  | _ => .nan

/-- An element under a scale. -/
def scaled (sc x : Ext) : Ext :=
  if sc.isNan then .nan
  else if sc.isZero then zeroScaled x
  else (sc.mul x).1

/-- The flags that decoding a record raises (R161). -/
def scaleFlags (c : Nat) (b : Nat) : BitVec 7 :=
  let sc := scaleOf c 0 b
  flagIf sc.isNan flagNS ||| flagIf (sc.isZero) flagZS

/-- The 32 elements of a record, given as a number with its lowest byte first. -/
def decRecord (c : Nat) (bexp : Int) (v : Nat) : List Ext :=
  let sc := scaleOf c bexp (v % 256)
  (upTo 32).map fun k => scaled sc ((elemFmt c).dec (streamGet (elemBits c) (v / 256) k))

/-- Elements of whole storage units of any format, with the flags of their scales. -/
def decUnits (c : Nat) (bexp : Int) (bs : List Byte) : List Ext × BitVec 7 :=
  let v := leNat bs
  if isBlock c then
    let rs := (upTo (bs.length / recBytes c)).map fun i => v / 2 ^ (8 * recBytes c * i) % 2 ^ (8 * recBytes c)
    ((rs.map (decRecord c bexp)).flatten, rs.foldl (fun f r => f ||| scaleFlags c (r % 256)) 0)
  else
    ((upTo (bs.length * 8 / elemBits c)).map fun k => (elemFmt c).dec (streamGet (elemBits c) v k), 0)

/-! ## Encoding (R166, R169) -/

/-- floor(log2 |x|) of a finite value that is not zero. -/
def Ext.log2 (x : Ext) : Int :=
  match x with
  | .fin _ m e => Nat.log2 m + e
  | _ => 0

/-- The greatest magnitude of finite values. -/
def maxMag (xs : List Ext) : Ext := xs.foldl (fun a x => if a.le x.abs then x.abs else a) .zero

/-- emax of the MX element formats (R169). -/
def mxEmax (c : Nat) : Int :=
  match c with
  | 0x0C => 8 | 0x0D => 15 | 0x0E => 4 | _ => 2

/-- A rational m × 2^e / d rounded up into UE5M3 with saturation: the KFP4 scale (R169). -/
def kfpScale (a : Ext) : Nat :=
  match a with
  | .fin _ m e =>
    if m = 0 then 0
    else
      let l : Int :=                       -- floor(log2(a / 6))
        let l0 : Int := Nat.log2 m + e - 2
        let lo := min l0 e
        if 6 * 2 ^ (l0 - lo).toNat ≤ m * 2 ^ (e - lo).toNat then l0 else l0 - 1
      let q := gridExp ue5m3 l
      let lo := min q e
      let num := m * 2 ^ (e - lo).toNat
      let den := 6 * 2 ^ (q - lo).toNat
      ue5m3.enc (satX ue5m3 (roundCore ue5m3 3 0 false q (num / den) (num % den) den).y)
  | _ => 0xFF

/-- The quotient of a value by a positive scale m × 2^g, rounded once. -/
def convertDiv (F : Fmt) (mode rnd : Nat) (sat : Bool) (x : Ext) (d : Nat) (g : Int) : Nat × BitVec 7 :=
  match x with
  | .fin neg m e =>
    if m = 0 ∨ d = 0 then (F.enc (.fin neg 0 0), 0)
    else
      let e := e - g
      let l0 : Int := Nat.log2 m + e - Nat.log2 d
      let lo := min l0 e
      let l := if d * 2 ^ (l0 - lo).toNat ≤ m * 2 ^ (e - lo).toNat then l0 else l0 - 1
      let q := gridExp F l
      let lo := min q e
      let num := m * 2 ^ (e - lo).toNat
      let den := d * 2 ^ (q - lo).toNat
      let r := roundCore F mode rnd neg q (num / den) (num % den) den
      let (c, f) := finishConv F sat (.fin neg m e) r
      -- a quotient below the smallest normal is tiny, whatever its numerator is
      (c, (f &&& ~~~flagUF) ||| flagIf (l < F.emin && r.inexact) flagUF)
  | x => convert F mode rnd sat x

/-- The generator draws that roundings take, one for each, in order (R170). -/
abbrev Draws := List Nat

/-- Codes of values rounded one after another, each taking its draw. -/
def encodeAll (conv : Nat → Ext → Nat × BitVec 7) : List Ext → Draws → List Nat × BitVec 7
  | [], _ => ([], 0)
  | x :: xs, ds =>
    let (c, f) := conv (ds.headD 0) x
    let (cs, g) := encodeAll conv xs ds.tail
    (c :: cs, f ||| g)

/-- The scale byte of a block of finite values (R169). -/
def scaleByte (c : Nat) (xs : List Ext) : Nat :=
  let a := maxMag xs
  if c = 0x11 then kfpScale a
  else if a.isZero then 0
  else
    let x := a.log2 - mxEmax c + 127
    if x < 0 then 0 else if 254 < x then 254 else x.toNat

/-- A value over a block's scale, converted into the block's element format (R169). -/
def blockElem (c sb mode : Nat) (sat : Bool) (rnd : Nat) (x : Ext) : Nat × BitVec 7 :=
  if c = 0x11 then
    match ue5m3.dec sb with
    | .fin _ d g => convertDiv e2m1 mode rnd sat x d g
    | _ => (0, 0)
  else convert (elemFmt c) mode rnd sat (x.scale (127 - (sb : Int)))

/-- A block rounds its elements: none is NaN or infinite, and its scale is not zero (R169). -/
def blockRounds (c : Nat) (xs : List Ext) : Bool :=
  xs.all Ext.isFin && !(c == 0x11 && scaleByte c xs == 0)

/-- A record from 32 values, as a number, with its flags (R169). -/
def encRecord (c mode : Nat) (sat : Bool) (xs : List Ext) (ds : Draws) : Nat × BitVec 7 :=
  if !xs.all Ext.isFin then (0xFF, flagNV)
  else
    let sb := scaleByte c xs
    let (cs, f) := encodeAll (blockElem c sb mode sat) xs ds
    (sb + 256 * streamOf (elemBits c) cs, f)

/-- Values encoded into whole storage units of a plain or a block format (R101, R166, R169). -/
def encUnits (c mode : Nat) (sat : Bool) (xs : List Ext) (ds : Draws) : List Byte × BitVec 7 :=
  if isBlock c then
    (upTo (xs.length / 32)).foldl (init := ([], 0)) fun a i =>
      let (v, f) := encRecord c mode sat ((xs.drop (32 * i)).take 32) (ds.drop (32 * i))
      (a.1 ++ leBytes (recBytes c) v, a.2 ||| f)
  else
    let (cs, f) := encodeAll (convert (elemFmt c) mode · sat ·) xs ds
    (leBytes (xs.length * elemBits c / 8) (streamOf (elemBits c) cs), f)

end Sys2Proof.Machine
end

