-- ==== Sys2Proof/Syntax.lean ====
section
/-! DEFINITION. The instructions, operations and events of the KG-6400: one constructor for each row of
spec/opcode_table.json. An instruction carries the fields of its layout (spec/07 R185-R187); an event carries what
the outside or the unit concerned brings with it. -/

namespace Sys2Proof

/-- The four sequencers in the order of their SEQ codes (R33). -/
inductive SeqId where
  | ld | ex | st | sc
  deriving DecidableEq, Repr

/-- Socket, core and partition of a context (R31). -/
structure Loc where
  sock : BitVec 6
  core : BitVec 4
  part : BitVec 3
  deriving DecidableEq, Repr

/-- One context of the package: its partition, its slot-table position (R395), or the reserve bank (R56). `away` is 0 for
one that is bound here; a context that a gang switch has saved, and one that is gone while writes of its own are still on
their way, keeps what refers to it under a number of its own. -/
structure CtxId where
  loc : Loc
  pos : BitVec 2
  harv : Bool
  away : Nat := 0
  deriving DecidableEq, Repr

/-- A W32 word, fields from bit 0 upwards (R185); `b` is imm6 in layout RI. -/
structure W32 where
  tok : BitVec 4
  pred : BitVec 2
  d : BitVec 6
  a : BitVec 6
  b : BitVec 6
  deriving DecidableEq, Repr

/-- A C16 dictionary parcel (R195). -/
structure C16 where
  tok : BitVec 4
  n : BitVec 10
  deriving DecidableEq, Repr

/-- Layout XR of a W64 word (R186, R187). -/
structure XR where
  tok : BitVec 4
  pred : BitVec 4
  sense : BitVec 1
  d : BitVec 6
  a : BitVec 6
  b : BitVec 6
  c : BitVec 6
  f : BitVec 5
  m : BitVec 3
  sa : BitVec 1
  x : BitVec 12
  deriving DecidableEq, Repr

/-- Layout XI (R187); `top` is bit 63, which must be 0. -/
structure XI where
  tok : BitVec 4
  pred : BitVec 4
  sense : BitVec 1
  d : BitVec 6
  a : BitVec 6
  imm : BitVec 32
  top : BitVec 1
  deriving DecidableEq, Repr

/-- Layout XM (R187, R188). -/
structure XM where
  tok : BitVec 4
  pred : BitVec 4
  sense : BitVec 1
  t : BitVec 6
  a : BitVec 6
  b : BitVec 6
  wd : BitVec 3
  am : BitVec 3
  f : BitVec 5
  m : BitVec 3
  off : BitVec 13
  deriving DecidableEq, Repr

/-- Layout XB (R187); `z` is [35:33], which must be 0. -/
structure XB where
  tok : BitVec 4
  pred : BitVec 4
  sense : BitVec 1
  a : BitVec 6
  b : BitVec 6
  lc : BitVec 2
  z : BitVec 3
  off : BitVec 28
  deriving DecidableEq, Repr

/-- Layout XE (R187). -/
structure XE where
  tok : BitVec 4
  pred : BitVec 4
  sense : BitVec 1
  d : BitVec 6
  a : BitVec 6
  b : BitVec 6
  sw : BitVec 6
  swe : BitVec 1
  ss : BitVec 6
  sse : BitVec 1
  q : BitVec 3
  f : BitVec 5
  x : BitVec 5
  deriving DecidableEq, Repr

/-- A 64-byte packet of submission queue `queue` of domain `dom` (R387). -/
structure Pkt where
  dom : BitVec 4
  queue : BitVec 6
  bits : BitVec 512
  deriving DecidableEq, Repr

/-- A window-3 access of another package as it reaches this package, the exporting home (R89). `data` is what a
write brings, empty for a load; `op` is 0 load, 1 store, 2 atomic or commutative update; `job` is its job (R149). -/
structure PeerReq where
  pkg : BitVec 12
  job : BitVec 32
  dom : BitVec 4
  name : BitVec 32
  gen : BitVec 16
  off : BitVec 52
  len : BitVec 9
  op : BitVec 2
  data : List Byte
  deriving DecidableEq, Repr

/-- What a capability request of another package asks of this exporting home (R256, R81). -/
inductive CapAsk where
  | imp (key : Word) (rights : BitVec 7) (limit : BitVec 52)
  | share
  | drop
  deriving DecidableEq, Repr

/-- A capability request as it reaches the exporting home (R256). -/
structure CapReq where
  pkg : BitVec 12
  dom : BitVec 4
  name : BitVec 32
  gen : BitVec 16
  ask : CapAsk
  deriving DecidableEq, Repr

/-- What a packet from another package asks of this one: nothing that is performed here, a fabric wake write (R436), an access
through an export (R89), or that a write of this package is answered: performed, or refused (R90, R140). -/
inductive NetAsk where
  | nothing
  | wake (idx : BitVec 45) (v : Word)
  | access (r : PeerReq)
  | answer (pkt : Nat) (refused : Bool)
  deriving DecidableEq, Repr

/-- A plate packet of a job as the gang switch meets it (R407, R453): its record fields, its flits, and what it asks. `tx`
marks one that stands in the transmit buffer of its fabric port (R404). -/
structure NetPkt where
  job : BitVec 32
  src : BitVec 6
  dst : BitVec 6
  vc : BitVec 3
  seq : BitVec 8
  nflit : BitVec 4
  fab : Bool
  port : BitVec 7
  place : BitVec 6
  peer : BitVec 12
  flits : List Byte
  tx : Bool := false
  ask : NetAsk := .nothing
  /-- The domain of its job here, and the model's own number of a packet of this package. -/
  dom : BitVec 4 := 0
  pkt : Nat := 0
  deriving DecidableEq, Repr

/-- Where an uncorrectable error is detected (R116): a line of DRAM or second-tier memory by physical address, a
scratchpad line, a line of a carve step, a row of an accumulator tile. -/
inductive ErrPlace where
  | phys (pa : BitVec 52)
  | spad (sock : BitVec 6) (core : BitVec 4) (off : BitVec 24)
  | carve (mem : BitVec 6) (pair : BitVec 3) (off : BitVec 25)
  | tile (sock : BitVec 6) (core : BitVec 4) (tile : BitVec 5) (row : BitVec 8)
  deriving DecidableEq, Repr

/-- What the boot ROM meets from outside while it boots (R438): whether the self-test passes, whether the flash can
be read, the unit that fails in step 6, if one does, and what HLSTAT shows of the host links that step 6 has trained. -/
structure BootObs where
  selfTest : Bool
  flash : Bool
  unitFail : Option (BitVec 8)
  hlstat : BitVec 32 := 0
  deriving DecidableEq, Repr

/-- One constructor for each row of spec/opcode_table.json. -/
inductive Instr where
  /-- R212. Writes A plus B to the scalar destination. -/
  | add (f : W32)
  /-- R212. Writes A minus B to the scalar destination. -/
  | sub (f : W32)
  /-- R212. Writes the bitwise AND of A and B. -/
  | and (f : W32)
  /-- R212. Writes the bitwise OR of A and B. -/
  | or (f : W32)
  /-- R212. Writes the bitwise XOR of A and B. -/
  | xor (f : W32)
  /-- R212. Writes A AND NOT B. -/
  | andn (f : W32)
  /-- R212. Writes A OR NOT B. -/
  | orn (f : W32)
  /-- R212. Shifts A left by B[5:0] with zeros entering. -/
  | sll (f : W32)
  /-- R212. Shifts A right logically by B[5:0]. -/
  | srl (f : W32)
  /-- R212. Shifts A right arithmetically by B[5:0]. -/
  | sra (f : W32)
  /-- R212. Rotates A left by B[5:0]. -/
  | rol (f : W32)
  /-- R212. Writes the signed minimum of A and B. -/
  | min (f : W32)
  /-- R212. Writes the signed maximum of A and B. -/
  | max (f : W32)
  /-- R212. Writes the unsigned minimum of A and B. -/
  | minn (f : W32)
  /-- R212. Writes the unsigned maximum of A and B. -/
  | maxn (f : W32)
  /-- R212. Writes 1 when A equals B, else 0. -/
  | ceq (f : W32)
  /-- R212. Writes 1 when A differs from B, else 0. -/
  | cne (f : W32)
  /-- R212. Writes 1 when A is signed-less than B. -/
  | clt (f : W32)
  /-- R212. Writes 1 when A is unsigned-less than B. -/
  | cltn (f : W32)
  /-- R212. Writes 1 when A is signed-less-or-equal B. -/
  | cle (f : W32)
  /-- R212. Writes 1 when A is unsigned-less-or-equal B. -/
  | clen (f : W32)
  /-- R213. Adds a 6-bit unsigned immediate to A. -/
  | addi (f : W32)
  /-- R213. ANDs A with a 6-bit immediate. -/
  | andi (f : W32)
  /-- R213. ORs A with a 6-bit immediate. -/
  | ori (f : W32)
  /-- R213. XORs A with a 6-bit immediate. -/
  | xori (f : W32)
  /-- R213. Shifts A left by an immediate. -/
  | slli (f : W32)
  /-- R213. Shifts A right logically by an immediate. -/
  | srli (f : W32)
  /-- R213. Shifts A right arithmetically by an immediate. -/
  | srai (f : W32)
  /-- R213. Rotates A left by an immediate. -/
  | roli (f : W32)
  /-- R214. Writes the low 64 bits of A times B. -/
  | mul (f : W32)
  /-- R214. Writes the high 64 bits of the signed product. -/
  | mulh (f : W32)
  /-- R214. Writes the high 64 bits of the unsigned product. -/
  | mulhn (f : W32)
  /-- R214. Writes the signed quotient truncated toward zero, never trapping. -/
  | div (f : W32)
  /-- R214. Writes the unsigned quotient. -/
  | divn (f : W32)
  /-- R214. Writes the signed remainder. -/
  | rem (f : W32)
  /-- R214. Writes the unsigned remainder. -/
  | remn (f : W32)
  /-- R215. Copies A to the destination. -/
  | mov (f : W32)
  /-- R215. Writes 0 minus A. -/
  | neg (f : W32)
  /-- R215. Writes the bitwise complement of A. -/
  | not (f : W32)
  /-- R215. Counts leading zero bits of A. -/
  | clz (f : W32)
  /-- R215. Counts trailing zero bits of A. -/
  | ctz (f : W32)
  /-- R215. Counts one bits of A. -/
  | popc (f : W32)
  /-- R215. Sign-extends A[31:0]. -/
  | sextw (f : W32)
  /-- R215. Zero-extends A[31:0]. -/
  | zextw (f : W32)
  /-- R215. Has no effect beyond its token bits. -/
  | nop (f : W32)
  /-- R215. Halts the sequencer; the last halt of a context makes it DONE and ends its task. -/
  | halt (f : W32)
  /-- R225. Pushes a branch outcome bit, blocking while the queue holds 32 entries. -/
  | bopush (f : W32)
  /-- R221. Jumps to the address in A, checking the target. -/
  | jr (f : W32)
  /-- R221. Writes the link address and jumps to A. -/
  | callr (f : W32)
  /-- R274. Adds 32-bit lanes modulo 2^32. -/
  | vadd (f : W32)
  /-- R274. Subtracts 32-bit lanes. -/
  | vsub (f : W32)
  /-- R274. Multiplies lanes, keeping the low 32 bits. -/
  | vmul (f : W32)
  /-- R274. Keeps the high 32 bits of signed lane products. -/
  | vmulh (f : W32)
  /-- R274. Keeps the high 32 bits of unsigned lane products. -/
  | vmulhn (f : W32)
  /-- R274. Signed lane minimum. -/
  | vmin (f : W32)
  /-- R274. Signed lane maximum. -/
  | vmax (f : W32)
  /-- R274. Unsigned lane minimum. -/
  | vminn (f : W32)
  /-- R274. Unsigned lane maximum. -/
  | vmaxn (f : W32)
  /-- R274. Lane-wise AND. -/
  | vand (f : W32)
  /-- R274. Lane-wise OR. -/
  | vor (f : W32)
  /-- R274. Lane-wise XOR. -/
  | vxor (f : W32)
  /-- R274. Lane-wise A AND NOT B. -/
  | vandn (f : W32)
  /-- R274. Lane-wise left shift. -/
  | vsll (f : W32)
  /-- R274. Lane-wise logical right shift. -/
  | vsrl (f : W32)
  /-- R274. Lane-wise arithmetic right shift. -/
  | vsra (f : W32)
  /-- R275. FP32 lane add rounded in the dynamic mode. -/
  | vfadd (f : W32)
  /-- R275. FP32 lane subtract rounded in the dynamic mode. -/
  | vfsub (f : W32)
  /-- R275. FP32 lane multiply rounded in the dynamic mode. -/
  | vfmul (f : W32)
  /-- R275. FP32 lane minimum. -/
  | vfmin (f : W32)
  /-- R275. FP32 lane maximum. -/
  | vfmax (f : W32)
  /-- R275. Clears bit 31 of each lane. -/
  | vfabs (f : W32)
  /-- R275. Inverts bit 31 of each lane. -/
  | vfneg (f : W32)
  /-- R275. Copies vector lanes. -/
  | vmov (f : W32)
  /-- R275. Broadcasts A[31:0] to every active lane. -/
  | vbcast (f : W32)
  /-- R195. Executes dictionary entry N as if it stood at the parcel's address. -/
  | cx (f : C16)
  /-- R216. Loads a sign-extended 32-bit immediate. -/
  | li (f : XI)
  /-- R216. Places an immediate in the upper 32 bits over A's low half. -/
  | lih (f : XI)
  /-- R216. Adds a sign-extended 32-bit immediate. -/
  | addl (f : XI)
  /-- R216. ANDs with a sign-extended 32-bit immediate. -/
  | andl (f : XI)
  /-- R216. ORs with a zero-extended 32-bit immediate. -/
  | orl (f : XI)
  /-- R216. XORs with a zero-extended 32-bit immediate. -/
  | xorl (f : XI)
  /-- R216. Multiplies A by a signed 32-bit immediate. -/
  | mull (f : XI)
  /-- R217. Builds a generic pointer from window, slot and offset. -/
  | mkptr (f : XR)
  /-- R218. Selects A or B by bit 0 of a predicate. -/
  | sel (f : XR)
  /-- R218. Extracts a bit field, optionally sign-extended. -/
  | bext (f : XR)
  /-- R218. Inserts a bit field from B into A. -/
  | bins (f : XR)
  /-- R220. Branches unconditionally. -/
  | br (f : XB)
  /-- R220. Branches when A is zero. -/
  | bz (f : XB)
  /-- R220. Branches when A is non-zero. -/
  | bnz (f : XB)
  /-- R220. Branches when A AND B is non-zero. -/
  | bany (f : XB)
  /-- R220. Branches when A AND B equals B. -/
  | ball (f : XB)
  /-- R220. Branches when A AND B is zero. -/
  | bnone (f : XB)
  /-- R220. Pops the branch-outcome queue and branches on 1. -/
  | bbo (f : XB)
  /-- R220. Pops the branch-outcome queue and branches on 0. -/
  | bbon (f : XB)
  /-- R220. Writes the link address and branches. -/
  | call (f : XB)
  /-- R222. Sets a loop counter and branches to the exit when it is zero. -/
  | loop (f : XB)
  /-- R222. Decrements a loop counter, branches while non-zero and rotates the register bases. -/
  | bloop (f : XB)
  /-- R222. Decrements a scalar and branches while non-zero. -/
  | bdnz (f : XB)
  /-- R223. Writes a loop counter. -/
  | lcset (f : XR)
  /-- R223. Reads a loop counter. -/
  | lcget (f : XR)
  /-- R224. Predicate AND. -/
  | pand (f : XR)
  /-- R224. Predicate OR. -/
  | por (f : XR)
  /-- R224. Predicate XOR. -/
  | pxor (f : XR)
  /-- R224. Predicate AND NOT. -/
  | pandn (f : XR)
  /-- R224. Predicate complement. -/
  | pnot (f : XR)
  /-- R224. Copies a scalar into a predicate. -/
  | pfroms (f : XR)
  /-- R224. Copies a predicate into a scalar. -/
  | ptos (f : XR)
  /-- R224. Counts one bits of a predicate. -/
  | pcnt (f : XR)
  /-- R224. Finds the lowest set bit of a predicate. -/
  | pffs (f : XR)
  /-- R226. Appends selected lanes to the deferral queue all or nothing and sets their deferral bits. -/
  | defer (f : XR)
  /-- R227. Takes deferral entries of one tag into lanes in batch or flush form. -/
  | drain (f : XR)
  /-- R228. Clears the deferral mask. -/
  | rejoin (f : XR)
  /-- R225. Pops a branch-outcome entry into a scalar. -/
  | bopop (f : XR)
  /-- R232. Meets the other listed sequencers and opens a region, recording its checkpoint. -/
  | rgnb (f : XR)
  /-- R232. Meets the other listed sequencers and commits the region. -/
  | rgne (f : XR)
  /-- R230. Waits and signals its token links by n. -/
  | tokn (f : XR)
  /-- R229. Reads the head of a scalar queue without popping. -/
  | qpeek (f : XR)
  /-- R229. Reads the head of a vector queue without popping. -/
  | vqpeek (f : XR)
  /-- R229. Samples the occupancy of a data or branch-outcome queue. -/
  | qlen (f : XR)
  /-- R235. New-task pop: ends the current task, pops a record and loads the buffer table. -/
  | eget (f : XR)
  /-- R235. Join pop: installs a record's capabilities into the current task. -/
  | ejoin (f : XR)
  /-- R235. Pops without waiting, reporting whether a record was taken. -/
  | etry (f : XR)
  /-- R237. Reserves, writes and publishes a record on an output edge, forming its capabilities. -/
  | eput (f : XR)
  /-- R237. Pushes a record only if a slot is free, reporting the outcome. -/
  | eputs (f : XR)
  /-- R238. Reads EDGESTAT of a port's edge. -/
  | estat (f : XR)
  /-- R239. Raises the expected total of the held job control block. -/
  | jraise (f : XR)
  /-- R239. Posts one completion to the held job control block as a package-scope release. -/
  | jpost (f : XR)
  /-- R239. Reads a field of the held job control block. -/
  | jstat (f : XR)
  /-- R244. Loads 1, 2, 4 or 8 bytes after the access checks. -/
  | ld (f : XM)
  /-- R244. Stores 1, 2, 4 or 8 bytes after the access checks. -/
  | st (f : XM)
  /-- R246. Loads 256 contiguous bytes into active lanes. -/
  | vld (f : XM)
  /-- R246. Stores active lanes to 256 contiguous bytes. -/
  | vst (f : XM)
  /-- R246. Gathers one element per active lane. -/
  | vldx (f : XM)
  /-- R246. Scatters one element per active lane in ascending lane order. -/
  | vstx (f : XM)
  /-- R246. Loads consecutive words into the active lanes in order. -/
  | vldk (f : XM)
  /-- R246. Stores the active lanes to consecutive words. -/
  | vstk (f : XM)
  /-- R248. Prefetches lines into a named cache level, silently dropping failures. -/
  | pf (f : XM)
  /-- R248. Prefetches lines into the instruction cache. -/
  | ipf (f : XM)
  /-- R248. Invalidates instruction-cache lines and discards fetched-ahead bytes. -/
  | icinv (f : XM)
  /-- R248. Writes dirty lines back to L2 or the home and merges their partials. -/
  | dcwb (f : XM)
  /-- R250. Reserves the tail slot of a circular buffer. -/
  | cbres (f : XR)
  /-- R250. Commits the oldest reserved slot as a core-scope release. -/
  | cbcmt (f : XR)
  /-- R250. Acquires the head slot of a circular buffer. -/
  | cbacq (f : XR)
  /-- R250. Releases the oldest acquired slot. -/
  | cbrel (f : XR)
  /-- R252. Checks a copy record and posts it to the core's copy queue with a ticket. -/
  | cpy (f : XE)
  /-- R254. Waits for copy tickets up to u(A) and returns a status word. -/
  | cpywait (f : XE)
  /-- R254. Returns a copy ticket's status word without blocking. -/
  | cpystat (f : XR)
  /-- R255. Shares a capability into another slot, counting a reference. -/
  | capshr (f : XR)
  /-- R255. Transfers a capability to another slot. -/
  | capxfr (f : XR)
  /-- R255. Empties a slot and drops its reference, freeing the buffer at zero. -/
  | capdrop (f : XR)
  /-- R255. Reads half of a buffer-table slot. -/
  | caprd (f : XR)
  /-- R255. Narrows a slot's rights and limit. -/
  | capnar (f : XR)
  /-- R255. Exports a capability, returning a keyed token. -/
  | capexp (f : XR)
  /-- R256. Imports an export token into a slot once per key. -/
  | capimp (f : XR)
  /-- R258. Loads a word as an acquire at a scope. -/
  | ldacq (f : XM)
  /-- R258. Stores a word as a release at a scope. -/
  | strel (f : XM)
  /-- R257. Performs an integer atomic read-modify-write at the home. -/
  | amo (f : XM)
  /-- R257. Compares and swaps, or swaps, a word atomically. -/
  | cas (f : XM)
  /-- R257. Performs a floating atomic add, min or max. -/
  | amof (f : XM)
  /-- R257. Issues a commutative update, buffered on RC and UNORD pages. -/
  | cupd (f : XM)
  /-- R257. Issues a commutative update per active lane. -/
  | vcupd (f : XM)
  /-- R257. Performs an atomic per active lane in ascending order. -/
  | vamo (f : XM)
  /-- R259. Orders earlier accesses and posts before later ones at a scope. -/
  | fence (f : XR)
  /-- R260. Increments a core semaphore as a release. -/
  | semsig (f : XR)
  /-- R260. Waits for and decrements a core semaphore as an acquire. -/
  | semwait (f : XR)
  /-- R260. Reads a semaphore count. -/
  | semget (f : XR)
  /-- R261. Initialises a barrier object. -/
  | barinit (f : XR)
  /-- R261. Arrives at a barrier as a release, completing the phase at N. -/
  | bararr (f : XR)
  /-- R261. Waits until a barrier's phase changes. -/
  | barwait (f : XR)
  /-- R261. Tests a barrier phase without blocking. -/
  | bartest (f : XR)
  /-- R263. Sleeps on a word while a condition holds. -/
  | waitw (f : XM)
  /-- R263. Sleeps on a word with a timestamp deadline. -/
  | waitwt (f : XM)
  /-- R264. Writes a wake word as a release, ending waits it satisfies. -/
  | wake (f : XM)
  /-- R265. Reads the global timestamp. -/
  | gts (f : XR)
  /-- R268. Reads a control register. -/
  | crr (f : XR)
  /-- R268. Writes a control register. -/
  | crw (f : XR)
  /-- R267. Reads 8 bytes of the discovery table. -/
  | disc (f : XR)
  /-- R266. Marks declared scratchpad ranges lent to a harvest context. -/
  | lend (f : XR)
  /-- R266. Revokes the lease and unlends and zeroes named ranges. -/
  | reclaim (f : XR)
  /-- R276. Fused multiply-add rounded once. -/
  | vfma (f : XR)
  /-- R276. Fused multiply-subtract rounded once. -/
  | vfms (f : XR)
  /-- R276. Fused negated multiply-add rounded once. -/
  | vfnma (f : XR)
  /-- R277. Floating add, sub, mul, div, min or max by sub-operation. -/
  | vfalu (f : XR)
  /-- R279. Approximates the reciprocal. -/
  | vfrcp (f : XR)
  /-- R279. Approximates the reciprocal square root. -/
  | vfrsq (f : XR)
  /-- R278. Computes the correctly rounded square root. -/
  | vfsqrt (f : XR)
  /-- R279. Approximates 2^x. -/
  | vfexp2 (f : XR)
  /-- R279. Approximates log2(x). -/
  | vflog2 (f : XR)
  /-- R279. Approximates sin(2πx). -/
  | vfsin (f : XR)
  /-- R279. Approximates cos(2πx). -/
  | vfcos (f : XR)
  /-- R281. Integer lane compare into a predicate. -/
  | vcmp (f : XR)
  /-- R281. Quiet floating compare into a predicate. -/
  | vfcmp (f : XR)
  /-- R281. Selects lanes by a predicate. -/
  | vsel (f : XR)
  /-- R281. Writes an arithmetic sequence into lanes. -/
  | viota (f : XR)
  /-- R283. Converts between floating formats. -/
  | vcvt (f : XR)
  /-- R284. Encodes or decodes block-scaled records. -/
  | vcvtb (f : XR)
  /-- R283. Converts where at least one side is an integer format. -/
  | vcvti (f : XR)
  /-- R285. Seeds all 64 stochastic generators. -/
  | srseed (f : XR)
  /-- R286. Permutes elements of one register by index. -/
  | vperm (f : XR)
  /-- R286. Permutes elements of a register pair by index. -/
  | vperm2 (f : XR)
  /-- R286. Rotates elements of a register. -/
  | vrot (f : XR)
  /-- R287. Performs one block-transpose step. -/
  | vtrn (f : XR)
  /-- R288. Packs active lanes to the low lanes. -/
  | vcompress (f : XR)
  /-- R288. Spreads low lanes to the active lanes. -/
  | vexpand (f : XR)
  /-- R288. Extracts one lane into a scalar. -/
  | vext (f : XR)
  /-- R288. Inserts a scalar into one lane. -/
  | vins (f : XR)
  /-- R290. Radix-2 complex butterfly rounding each output once. -/
  | bfly2 (f : XR)
  /-- R290. Radix-4 complex butterfly rounding each output once. -/
  | bfly4 (f : XR)
  /-- R290. Complex twiddle multiply. -/
  | twmul (f : XR)
  /-- R291. Generates correctly rounded twiddles. -/
  | twgen (f : XR)
  /-- R292. Integer sum reduction seeded by B. -/
  | vredadd (f : XR)
  /-- R292. Integer minimum reduction. -/
  | vredmin (f : XR)
  /-- R292. Integer maximum reduction. -/
  | vredmax (f : XR)
  /-- R292. Floating sum reduction rounded once. -/
  | vfredadd (f : XR)
  /-- R292. Floating minimum reduction. -/
  | vfredmin (f : XR)
  /-- R292. Floating maximum reduction. -/
  | vfredmax (f : XR)
  /-- R295. Sets key type and direction, SORT mode, and clears the sort state. -/
  | srtkey (f : XR)
  /-- R296. Offers active lanes' pairs to the sort buffer. -/
  | srtld (f : XR)
  /-- R298. Sorts the active lanes' pairs in registers. -/
  | srtsort (f : XR)
  /-- R298. Merges two 64-pair inputs into 128 ordered pairs. -/
  | srtmrg (f : XR)
  /-- R295. Sets TOPK mode with capacity K and clears. -/
  | srttopk (f : XR)
  /-- R295. Sets SEG mode with S segments of capacity K and clears. -/
  | srtseg (f : XR)
  /-- R295. Sets or removes the key threshold. -/
  | srtthr (f : XR)
  /-- R295. Turns value deduplication on or off. -/
  | srtdedup (f : XR)
  /-- R297. Reads out up to 64 ordered pairs after a flush. -/
  | srtst (f : XR)
  /-- R297. Freezes the sort state and starts ordering the retained pairs. -/
  | srtflush (f : XR)
  /-- R297. Reads SRTSTAT. -/
  | srtstat (f : XR)
  /-- R297. Waits while a flush is in progress. -/
  | srtwait (f : XR)
  /-- R307. Writes a loop-nest table word. -/
  | mnset (f : XR)
  /-- R307. Reads a loop-nest table word. -/
  | mnget (f : XR)
  /-- R308. Checks the loop-nest table and posts a nest entry to the matrix queue. -/
  | mgo (f : XE)
  /-- R301. Waits for matrix tickets and returns a status word. -/
  | mwait (f : XR)
  /-- R301. Reads a matrix ticket's status without blocking. -/
  | mstat (f : XR)
  /-- R311. Reads a shadow word of the described engine entry. -/
  | mshadow (f : XR)
  /-- R315. Posts a copy between scratchpad and scale memory. -/
  | mscl (f : XR)
  /-- R307. Sets the DFP8 base exponents. -/
  | mbase (f : XR)
  /-- R307. Sets the tile ring base and size. -/
  | mring (f : XR)
  /-- R313. Posts an entry that zeroes a tile. -/
  | macz (f : XR)
  /-- R313. Posts an entry that loads a tile from scratchpad. -/
  | macld (f : XR)
  /-- R313. Posts an entry that stores a tile to scratchpad. -/
  | macst (f : XR)
  /-- R313. Posts an entry that adds one tile into another. -/
  | macadd (f : XR)
  /-- R313. Posts an entry that encodes a tile into block records. -/
  | maccvt (f : XR)
  /-- R314. Posts a single-step product into a named tile. -/
  | mmt (f : XR)
  /-- R314. Posts a single-step product into a ring tile chosen by a loop counter. -/
  | mmts (f : XR)
  /-- R316. Writes a sparse descriptor word. -/
  | csrset (f : XR)
  /-- R318. Posts NSTEP sparse product steps to the matrix queue. -/
  | csrgo (f : XE)
  /-- R301. Waits for sparse tickets. -/
  | csrwait (f : XR)
  /-- R301. Reads a sparse ticket's status. -/
  | csrstat (f : XR)
  /-- R318. Posts a gather entry that builds a dense block. -/
  | csrgath (f : XR)
  /-- R318. Posts one sparse-dense product step. -/
  | csrmm (f : XR)
  /-- R319. Waits for sparse entries then reads a sparse counter. -/
  | csrcnt (f : XR)
  /-- R319. Waits for sparse entries then clears the counters. -/
  | csrrst (f : XR)
  /-- R320. Checks and posts a transform record to a MEM transform queue. -/
  | xfpost (f : XE)
  /-- R301. Waits for transform tickets. -/
  | xfwait (f : XE)
  /-- R301. Reads a transform ticket's status. -/
  | xfstat (f : XE)
  /-- R327. Checks and posts a collective record to the FIO collective queue. -/
  | colpost (f : XE)
  /-- R301. Waits for collective tickets. -/
  | colwait (f : XE)
  /-- R301. Reads a collective ticket's status. -/
  | colstat (f : XE)
  /-- R330. Places a queue fence entry naming a set of queues. -/
  | qfence (f : XE)
  /-- R326. Reads a transform ticket's bad-chunk outcome. -/
  | badrd (f : XR)
  /-- R102. A descriptor write setting EN is checked and enables the circular buffer. -/
  | cbdEnable (b : BitVec 5) (v : Word)
  /-- R104. A descriptor write clearing EN zeroes the buffer state. -/
  | cbdDisable (b : BitVec 5) (v : Word)
  /-- R99. Writes a bank's format, rounding and saturation, ignoring reserved values. -/
  | spfmtWrite (b : BitVec 6) (v : Word)
  /-- R172. Writes the copy generator state after earlier copy entries finish converting. -/
  | cesrWrite (v : Word)
  /-- R181. Clears sticky flags written as 1 in FPFLG or ENGFLG, the set prevailing in the same clock. -/
  | fpflgClear (eng : Bool) (v : Word)
  /-- R163. Writes the dynamic rounding mode, ignoring values 5 to 7. -/
  | fpctlWrite (v : Word)
  /-- R93. Writes a sequencer's rotation bases for its next instruction. -/
  | rotcWrite (q : SeqId) (v : Word)
  /-- R38. An issued instruction's results become complete and its signals are made. -/
  | resultComplete (q : SeqId)
  /-- R333. An instruction-cache fill arrives and waiting sequencers may issue. -/
  | fillArrival (line : BitVec 46)
  /-- R386. A held page request is posted once the page-request ring has room. -/
  | pageRequestPosted (d : BitVec 4)
  /-- R117. A waiter woken by a write to its monitored line walks again. -/
  | waiterRewalk
  /-- R117. Every 4,096 clocks the walker re-walks walks held in the overflow list. -/
  | overflowRewalk
  /-- R63. The deadlock counter passes 2^20 − 1 and TOKDL is raised on SC. -/
  | deadlockCounterExpiry
  /-- R263. The deadline of a timed wait passes and the condition is evaluated once. -/
  | waitwtDeadline (q : SeqId)
  /-- R253. The copy engine performs one copy entry in queue order. -/
  | copyEntry
  /-- R309. The matrix engine performs a loop-nest entry step by step. -/
  | nestEntry
  /-- R313. The matrix engine performs a tile zero, load, store, add or convert entry. -/
  | tileEntry
  /-- R315. The matrix engine copies words between scratchpad and scale memory. -/
  | scaleCopyEntry
  /-- R314. The matrix engine performs an mmt or mmts step. -/
  | singleStepEntry
  /-- R317. The gather unit builds a dense block from CSR data. -/
  | gatherEntry
  /-- R318. The matrix engine performs csrmm or csrgo sparse product steps. -/
  | sparseStepEntry
  /-- R321. A MEM transform engine checksums, decodes, expands and transposes a source. -/
  | transformEntry (sock : BitVec 6) (q : BitVec 2)
  /-- R328. A collective engine runs a reduction or gather chain across packages. -/
  | collectiveEntry
  /-- R329. A member receiving mismatched parameters or an abort ends its entry with code 0x09. -/
  | collectiveAbortReceived (tag : BitVec 32)
  /-- R330. A fence entry waits for earlier entries of named queues before its queue proceeds. -/
  | queueFenceEntry (q : BitVec 3) (sock : BitVec 6)
  /-- R297. A flush finishes ordering the retained pairs and BUSY clears. -/
  | srtFlushDone
  /-- R417. Zeroing of a lent or reclaimed range ends and waiting accesses proceed. -/
  | scrubDone (k : BitVec 4)
  /-- R89. The exporting home rechecks and performs or refuses a window-3 access. -/
  | peerAccessAtHome (r : PeerReq)
  /-- R90. A refusal arrives and the importing package posts PKTBAD or traps the load. -/
  | peerRefusalReceived
  /-- R140. An acknowledgement of peer write bytes lowers PEND. -/
  | peerAckReceived
  /-- R436. A fabric wake write arrives and is refused or performed at its wake word. -/
  | fabricWakeArrival (job : BitVec 32) (idx : BitVec 45) (v : Word)
  /-- R71. A waiting launch appends its K records once FREE reaches K. -/
  | launchAppend (d : BitVec 4) (q : BitVec 6)
  /-- R59. A context is stopped at instruction boundaries and parked. -/
  | preEmption
  /-- R61. A parked context is restored with every sequencer at its resume point. -/
  | contextRestore (id : CtxId)
  /-- R396. At the end of a 4,096-clock quantum dispatch chooses an eligible record. -/
  | quantumExpiry
  /-- R398. gts() reaches an incomplete launch's DEADLINE and DLMISS is posted. -/
  | deadlineMiss (k : BitVec 32)
  /-- R413. The firmware places a harvest context in an eligible free reserve bank. -/
  | harvestPlacement (graph : BitVec 32) (node : BitVec 16) (bank : Loc)
  /-- R414. The owner sleeps or finishes and the parked harvest context may issue. -/
  | harvestHeld (bank : Loc)
  /-- R415. A slot demand or reclaim stops the harvest context and the owner issues within 64 clocks. -/
  | harvestRevocation (bank : Loc)
  /-- R57. A harvest region commits its buffered stores and pushes once the edges have room. -/
  | harvestCommit (n : BitVec 12)
  /-- R394. An event held by a full exception queue is arbitrated and queued. -/
  | heldRecordQueued (d : BitVec 4) (q : BitVec 6)
  /-- R388. Loads, checks and binds a graph and its kernel images. -/
  | gload (k : Pkt)
  /-- R388. Unloads a graph, idling its contexts and discarding its ring records. -/
  | gunload (k : Pkt)
  /-- R391. Checks a launch packet and appends records to a feed edge. -/
  | launch (k : Pkt)
  /-- R388. Creates a job control block. -/
  | jcbnew (k : Pkt)
  /-- R388. Frees a job control block. -/
  | jcbfree (k : Pkt)
  /-- R389. Creates a buffer with the runtime reference. -/
  | bufnew (k : Pkt)
  /-- R388. Drops the runtime reference of a buffer. -/
  | bufrelDrop (k : Pkt)
  /-- R82. Revokes a buffer, marking loaded copies stale and freeing it. -/
  | bufrelRevoke (k : Pkt)
  /-- R388. Withdraws an unimported export and drops its reference. -/
  | expwd (k : Pkt)
  /-- R388. Writes a page-table entry and invalidates every TLB that holds it. -/
  | pteset (k : Pkt)
  /-- R388. Writes a context's validation block to the host window and clears it. -/
  | ctrrd (k : Pkt)
  /-- R394. Resumes the raiser of a pending record. -/
  | answerResume (k : Pkt)
  /-- R394. Skips the faulting instruction or packet of a pending record. -/
  | answerSkip (k : Pkt)
  /-- R394. Aborts the context or ends the queue of a pending record. -/
  | answerAbort (k : Pkt)
  /-- R404. Arms a gang switch-out at CUTOFF. -/
  | gangswOut (k : Pkt)
  /-- R410. Checks a proof area and switches a gang back in. -/
  | gangswIn (k : Pkt)
  /-- R402. Reports the spill bytes a switch-out would need. -/
  | gangswSize (k : Pkt)
  /-- R386. Creates a submission or page-request queue. -/
  | qnew (k : Pkt)
  /-- R388. Ends a queue after its taken packets complete. -/
  | qend (k : Pkt)
  /-- R404. gts() reaches CUTOFF and the job is stopped, swept and saved. -/
  | cutoffReached (job : BitVec 32)
  /-- R409. The sweep passes 50 µs and a SWEEPTO record is posted. -/
  | sweepto (job : BitVec 32) (stage : BitVec 8) (place : BitVec 8)
  /-- R407. A job packet arriving after its port's sweep is captured late or discarded. -/
  | latePacketArrival (p : NetPkt)
  /-- R406. The late bin closes at LATECLOSE and PCRC is written. -/
  | latecloseReached (job : BitVec 32)
  /-- R403. READY from every group package moves RESTORE to re-injection. -/
  | readyReceived (job : BitVec 32) (pkg : BitVec 12)
  /-- R410. Every re-injected packet is delivered and DRAINED is sent. -/
  | reinjectionDrained (job : BitVec 32)
  /-- R403. DRAINED from every package ends the barrier and the job issues again. -/
  | drainedReceived (job : BitVec 32) (pkg : BitVec 12)
  /-- R116. An uncorrectable error poisons a line and is logged. -/
  | uncorrectableError (at_ : ErrPlace)
  /-- R424. An error in unpoisonable state fails a context and reports GANGF. -/
  | contextFailure (id : CtxId)
  /-- R424. A gang failure arrives over the fabric and a GANGF record is posted. -/
  | gangfReceived (job : BitVec 32) (cause : BitVec 8) (pkg : BitVec 12) (place : BitVec 16) (orig : Word)
  /-- R444. A core fails, its contexts fail and it is treated as fused off. -/
  | coreFailure (sock : BitVec 6) (core : BitVec 4)
  /-- R443. A chiplet fails as a whole and is logged. -/
  | chipletFailure (sock : BitVec 6)
  /-- R432. A second-tier device fails and its frames return poison. -/
  | secondTierDeviceDown (sock : BitVec 6) (dev : BitVec 2)
  /-- R384. The lock-step pair disagrees and the firmware complex stops. -/
  | campionMismatch
  /-- R438. The boot ROM self-tests, verifies and runs the firmware image. -/
  | packageReset (o : BootObs)
  /-- R440. Starts a recovery boot attempt from the image in PF BAR2. -/
  | recovgo (v : Word) (o : BootObs)
  /-- R420. A write setting EN checks the domain, chooses its policy and creates queue 0. -/
  | domcfgEnable (d : BitVec 4) (v : Word)
  /-- R423. Starts a domain reset. -/
  | domcfgRst (d : BitVec 4) (v : Word)
  /-- R423. A domain reset finishes, RBUSY clears and queue 0 is recreated. -/
  | domainResetEnd (d : BitVec 4)
  /-- R425. A function-level reset of a VF starts its domain's reset. -/
  | vfFlr (d : BitVec 4)
  /-- R425. A function-level reset of the PF resets its link-side registers. -/
  | pfFlr
  /-- R434. Writing the retrain bit retrains a fabric port. -/
  | fportRetrain (p : BitVec 7) (v : Word)
  /-- R418. A host write to a device register with no row of its own. -/
  | registerWrite (off : BitVec 24) (v : Word)
  /-- R431. A doorbell write makes the device re-read a queue's control block. -/
  | doorbell (d : BitVec 4) (q : BitVec 6)
  /-- R430. A host access through VF BAR2 reaches domain memory or fails with PKTBAD. -/
  | apertureAccess (d : BitVec 4) (off : BitVec 36) (len : BitVec 13) (wr : Option (List Byte))
  /-- R425. A host link trains or reports an error in HLSTAT. -/
  | hostLinkStateChange (link : BitVec 1) (v : BitVec 16)
  /-- R433. A fabric link flit is checked, delivered or NAKed, and acknowledgements drive replay. -/
  | flitReceived (p : BitVec 7) (f : BitVec 2048)
  /-- R434. Eight failed replays or 100 µs without acknowledgement take a port down. -/
  | portDown (p : BitVec 7)
  /-- R437. Every 1 ms timestamp flits are exchanged and the count slewed. -/
  | timestampExchange (offs : BitVec 32) (locked : Bool)
  /-- R437. No timestamp flit for 10 ms clears LOCK. -/
  | timestampLockLoss
  /-- R449. Each millisecond the arithmetic clock steps down or up against PCAP. -/
  | powerCapStep (pin : BitVec 16)
  /-- R450. TMAX crosses TWARN or TCRIT, logging and interrupting. -/
  | thermalCrossing (sock : BitVec 6) (temp : BitVec 16)
  /-- R443. Returns a socket's health entry. -/
  | hread (sock : BitVec 8)
  /-- R445. Returns the oldest unread error-log entry. -/
  | elog
  /-- R447. Adds a domain's TLB hotness counts into its shadow words. -/
  | hflush (d : BitVec 8)
  /-- R448. Returns power and thermal telemetry. -/
  | telem
  /-- R449. Sets the power cap. -/
  | pcapset (w : BitVec 16)
  /-- R442. Returns the device identity public key. -/
  | idkey
  /-- R451. Signs an attestation report with the next XMSS index. -/
  | attest (nonce : BitVec 128)
  /-- R452. Raises MINVER to the running image's VERSION. -/
  | minvup
  /-- R202. An instruction carrying an unassigned W32 or W64 opcode issues and raises ILLOP cause 0x1. -/
  | unassignedOpcode (wide : Bool) (w : Word)
  /-- R334. A sequencer needs bytes of its next instruction, requests the line, and raises IFETCH when the walk finds an invalid or malformed entry. -/
  | demandFetch (q : SeqId)
  /-- R256. A capimp, or a share or drop of an imported capability, arrives at the exporting home, which accepts or refuses it and changes REFCNT. -/
  | capabilityRequestAtHome (r : CapReq)
  /-- R443. A corrected error is detected in a socket and CECNT is incremented. -/
  | correctableError (sock : BitVec 6)
  /-- R451. Power fails: volatile state is lost, while the persistent XMSS index counter and MINVER are kept. -/
  | powerLoss
  /-- R434. A fabric port finishes training with its partner and FPORT.STATE becomes up. -/
  | portTrained (p : BitVec 7)
  /-- R435. A management command makes the firmware rewrite the route table from peer fabric numbers to port sets. -/
  | routeTableWrite (peer : BitVec 12) (ports : List (BitVec 7))
  /-- R437. The management set command steps a package's GTS count forward before any context runs. -/
  | timestampSet (ns : Word)
  /-- R437. Management chooses the fabric's grand master, which sets TSSTAT.GM and GMNO. -/
  | grandMasterChoice (gm : Bool) (no : BitVec 12)
  /-- R442. A private read of the I3C target takes the pending command response and ends the command in progress, so the next command is no longer NACKed. -/
  | responseRead
  deriving DecidableEq, Repr

end Sys2Proof
end

