-- ==== Sys2Proof/Machine/Opcodes.lean ====
section
/-! DEFINITION. The opcode maps (spec/07 R200, R201): layout, opcode number and sequencer classes of every
instruction, and what every layout holds in the same place (tokens, predicate, length). -/

namespace Sys2Proof.Machine
open Sys2Proof

/-- An instruction as its layout and opcode number, with the layout's fields. -/
inductive Shape where
  | w32 (op : BitVec 7) (f : W32)
  | c16 (f : C16)
  | xr (op : BitVec 8) (f : XR)
  | xi (op : BitVec 8) (f : XI)
  | xm (op : BitVec 8) (f : XM)
  | xb (op : BitVec 8) (f : XB)
  | xe (op : BitVec 8) (f : XE)
  /-- An unassigned opcode (R202). -/
  | bad (wide : Bool) (w : Word)
  /-- A row that is an event and has no encoding. -/
  | event
  deriving DecidableEq, Repr

/-- Layout and opcode of every instruction (R200, R201). -/
def shape (i : Instr) : Shape :=
  match i with
  | .add f => .w32 0x01 f
  | .sub f => .w32 0x02 f
  | .and f => .w32 0x03 f
  | .or f => .w32 0x04 f
  | .xor f => .w32 0x05 f
  | .andn f => .w32 0x06 f
  | .orn f => .w32 0x07 f
  | .sll f => .w32 0x08 f
  | .srl f => .w32 0x09 f
  | .sra f => .w32 0x0A f
  | .rol f => .w32 0x0B f
  | .min f => .w32 0x0C f
  | .max f => .w32 0x0D f
  | .minn f => .w32 0x0E f
  | .maxn f => .w32 0x0F f
  | .ceq f => .w32 0x10 f
  | .cne f => .w32 0x11 f
  | .clt f => .w32 0x12 f
  | .cltn f => .w32 0x13 f
  | .cle f => .w32 0x14 f
  | .clen f => .w32 0x15 f
  | .addi f => .w32 0x18 f
  | .andi f => .w32 0x19 f
  | .ori f => .w32 0x1A f
  | .xori f => .w32 0x1B f
  | .slli f => .w32 0x1C f
  | .srli f => .w32 0x1D f
  | .srai f => .w32 0x1E f
  | .roli f => .w32 0x1F f
  | .mul f => .w32 0x20 f
  | .mulh f => .w32 0x21 f
  | .mulhn f => .w32 0x22 f
  | .div f => .w32 0x23 f
  | .divn f => .w32 0x24 f
  | .rem f => .w32 0x25 f
  | .remn f => .w32 0x26 f
  | .mov f => .w32 0x28 f
  | .neg f => .w32 0x29 f
  | .not f => .w32 0x2A f
  | .clz f => .w32 0x2B f
  | .ctz f => .w32 0x2C f
  | .popc f => .w32 0x2D f
  | .sextw f => .w32 0x2E f
  | .zextw f => .w32 0x2F f
  | .nop f => .w32 0x30 f
  | .halt f => .w32 0x31 f
  | .bopush f => .w32 0x32 f
  | .jr f => .w32 0x33 f
  | .callr f => .w32 0x34 f
  | .vadd f => .w32 0x40 f
  | .vsub f => .w32 0x41 f
  | .vmul f => .w32 0x42 f
  | .vmulh f => .w32 0x43 f
  | .vmulhn f => .w32 0x44 f
  | .vmin f => .w32 0x45 f
  | .vmax f => .w32 0x46 f
  | .vminn f => .w32 0x47 f
  | .vmaxn f => .w32 0x48 f
  | .vand f => .w32 0x49 f
  | .vor f => .w32 0x4A f
  | .vxor f => .w32 0x4B f
  | .vandn f => .w32 0x4C f
  | .vsll f => .w32 0x4D f
  | .vsrl f => .w32 0x4E f
  | .vsra f => .w32 0x4F f
  | .vfadd f => .w32 0x50 f
  | .vfsub f => .w32 0x51 f
  | .vfmul f => .w32 0x52 f
  | .vfmin f => .w32 0x53 f
  | .vfmax f => .w32 0x54 f
  | .vfabs f => .w32 0x55 f
  | .vfneg f => .w32 0x56 f
  | .vmov f => .w32 0x57 f
  | .vbcast f => .w32 0x58 f
  | .cx f => .c16 f
  | .li f => .xi 0x01 f
  | .lih f => .xi 0x02 f
  | .addl f => .xi 0x03 f
  | .andl f => .xi 0x04 f
  | .orl f => .xi 0x05 f
  | .xorl f => .xi 0x06 f
  | .mull f => .xi 0x07 f
  | .mkptr f => .xr 0x08 f
  | .sel f => .xr 0x09 f
  | .bext f => .xr 0x0A f
  | .bins f => .xr 0x0B f
  | .br f => .xb 0x10 f
  | .bz f => .xb 0x11 f
  | .bnz f => .xb 0x12 f
  | .bany f => .xb 0x13 f
  | .ball f => .xb 0x14 f
  | .bnone f => .xb 0x15 f
  | .bbo f => .xb 0x16 f
  | .bbon f => .xb 0x17 f
  | .call f => .xb 0x18 f
  | .loop f => .xb 0x19 f
  | .bloop f => .xb 0x1A f
  | .bdnz f => .xb 0x1B f
  | .lcset f => .xr 0x1C f
  | .lcget f => .xr 0x1D f
  | .pand f => .xr 0x20 f
  | .por f => .xr 0x21 f
  | .pxor f => .xr 0x22 f
  | .pandn f => .xr 0x23 f
  | .pnot f => .xr 0x24 f
  | .pfroms f => .xr 0x25 f
  | .ptos f => .xr 0x26 f
  | .pcnt f => .xr 0x27 f
  | .pffs f => .xr 0x28 f
  | .defer f => .xr 0x29 f
  | .drain f => .xr 0x2A f
  | .rejoin f => .xr 0x2B f
  | .bopop f => .xr 0x2C f
  | .rgnb f => .xr 0x2D f
  | .rgne f => .xr 0x2E f
  | .tokn f => .xr 0x2F f
  | .qpeek f => .xr 0x30 f
  | .vqpeek f => .xr 0x31 f
  | .qlen f => .xr 0x32 f
  | .eget f => .xr 0x33 f
  | .ejoin f => .xr 0x34 f
  | .etry f => .xr 0x35 f
  | .eput f => .xr 0x36 f
  | .eputs f => .xr 0x37 f
  | .estat f => .xr 0x38 f
  | .jraise f => .xr 0x39 f
  | .jpost f => .xr 0x3A f
  | .jstat f => .xr 0x3B f
  | .ld f => .xm 0x40 f
  | .st f => .xm 0x41 f
  | .vld f => .xm 0x42 f
  | .vst f => .xm 0x43 f
  | .vldx f => .xm 0x44 f
  | .vstx f => .xm 0x45 f
  | .vldk f => .xm 0x46 f
  | .vstk f => .xm 0x47 f
  | .pf f => .xm 0x48 f
  | .ipf f => .xm 0x49 f
  | .icinv f => .xm 0x4A f
  | .dcwb f => .xm 0x4B f
  | .cbres f => .xr 0x4C f
  | .cbcmt f => .xr 0x4D f
  | .cbacq f => .xr 0x4E f
  | .cbrel f => .xr 0x4F f
  | .cpy f => .xe 0x50 f
  | .cpywait f => .xe 0x51 f
  | .cpystat f => .xr 0x52 f
  | .capshr f => .xr 0x53 f
  | .capxfr f => .xr 0x54 f
  | .capdrop f => .xr 0x55 f
  | .caprd f => .xr 0x56 f
  | .capnar f => .xr 0x57 f
  | .capexp f => .xr 0x58 f
  | .capimp f => .xr 0x59 f
  | .ldacq f => .xm 0x60 f
  | .strel f => .xm 0x61 f
  | .amo f => .xm 0x62 f
  | .cas f => .xm 0x63 f
  | .amof f => .xm 0x64 f
  | .cupd f => .xm 0x65 f
  | .vcupd f => .xm 0x66 f
  | .vamo f => .xm 0x67 f
  | .fence f => .xr 0x68 f
  | .semsig f => .xr 0x69 f
  | .semwait f => .xr 0x6A f
  | .semget f => .xr 0x6B f
  | .barinit f => .xr 0x6C f
  | .bararr f => .xr 0x6D f
  | .barwait f => .xr 0x6E f
  | .bartest f => .xr 0x6F f
  | .waitw f => .xm 0x70 f
  | .waitwt f => .xm 0x71 f
  | .wake f => .xm 0x72 f
  | .gts f => .xr 0x73 f
  | .crr f => .xr 0x78 f
  | .crw f => .xr 0x79 f
  | .disc f => .xr 0x7A f
  | .lend f => .xr 0x7B f
  | .reclaim f => .xr 0x7C f
  | .vfma f => .xr 0x80 f
  | .vfms f => .xr 0x81 f
  | .vfnma f => .xr 0x82 f
  | .vfalu f => .xr 0x83 f
  | .vfrcp f => .xr 0x84 f
  | .vfrsq f => .xr 0x85 f
  | .vfsqrt f => .xr 0x86 f
  | .vfexp2 f => .xr 0x87 f
  | .vflog2 f => .xr 0x88 f
  | .vfsin f => .xr 0x89 f
  | .vfcos f => .xr 0x8A f
  | .vcmp f => .xr 0x8B f
  | .vfcmp f => .xr 0x8C f
  | .vsel f => .xr 0x8D f
  | .viota f => .xr 0x8E f
  | .vcvt f => .xr 0x90 f
  | .vcvtb f => .xr 0x91 f
  | .vcvti f => .xr 0x92 f
  | .srseed f => .xr 0x93 f
  | .vperm f => .xr 0x94 f
  | .vperm2 f => .xr 0x95 f
  | .vrot f => .xr 0x96 f
  | .vtrn f => .xr 0x97 f
  | .vcompress f => .xr 0x98 f
  | .vexpand f => .xr 0x99 f
  | .vext f => .xr 0x9A f
  | .vins f => .xr 0x9B f
  | .bfly2 f => .xr 0x9C f
  | .bfly4 f => .xr 0x9D f
  | .twmul f => .xr 0x9E f
  | .twgen f => .xr 0x9F f
  | .vredadd f => .xr 0xA0 f
  | .vredmin f => .xr 0xA1 f
  | .vredmax f => .xr 0xA2 f
  | .vfredadd f => .xr 0xA3 f
  | .vfredmin f => .xr 0xA4 f
  | .vfredmax f => .xr 0xA5 f
  | .srtkey f => .xr 0xB0 f
  | .srtld f => .xr 0xB1 f
  | .srtsort f => .xr 0xB2 f
  | .srtmrg f => .xr 0xB3 f
  | .srttopk f => .xr 0xB4 f
  | .srtseg f => .xr 0xB5 f
  | .srtthr f => .xr 0xB6 f
  | .srtdedup f => .xr 0xB7 f
  | .srtst f => .xr 0xB8 f
  | .srtflush f => .xr 0xB9 f
  | .srtstat f => .xr 0xBA f
  | .srtwait f => .xr 0xBB f
  | .mnset f => .xr 0xC0 f
  | .mnget f => .xr 0xC1 f
  | .mgo f => .xe 0xC2 f
  | .mwait f => .xr 0xC3 f
  | .mstat f => .xr 0xC4 f
  | .mshadow f => .xr 0xC5 f
  | .mscl f => .xr 0xC6 f
  | .mbase f => .xr 0xC7 f
  | .mring f => .xr 0xC8 f
  | .macz f => .xr 0xC9 f
  | .macld f => .xr 0xCA f
  | .macst f => .xr 0xCB f
  | .macadd f => .xr 0xCC f
  | .maccvt f => .xr 0xCD f
  | .mmt f => .xr 0xCE f
  | .mmts f => .xr 0xCF f
  | .csrset f => .xr 0xD0 f
  | .csrgo f => .xe 0xD1 f
  | .csrwait f => .xr 0xD2 f
  | .csrstat f => .xr 0xD3 f
  | .csrgath f => .xr 0xD4 f
  | .csrmm f => .xr 0xD5 f
  | .csrcnt f => .xr 0xD6 f
  | .csrrst f => .xr 0xD7 f
  | .xfpost f => .xe 0xD8 f
  | .xfwait f => .xe 0xD9 f
  | .xfstat f => .xe 0xDA f
  | .colpost f => .xe 0xDB f
  | .colwait f => .xe 0xDC f
  | .colstat f => .xe 0xDD f
  | .qfence f => .xe 0xDE f
  | .badrd f => .xr 0xDF f
  | .cbdEnable _ _ => .event
  | .cbdDisable _ _ => .event
  | .spfmtWrite _ _ => .event
  | .cesrWrite _ => .event
  | .fpflgClear _ _ => .event
  | .fpctlWrite _ => .event
  | .rotcWrite _ _ => .event
  | .resultComplete _ => .event
  | .fillArrival _ => .event
  | .pageRequestPosted _ => .event
  | .waiterRewalk => .event
  | .overflowRewalk => .event
  | .deadlockCounterExpiry => .event
  | .waitwtDeadline _ => .event
  | .copyEntry => .event
  | .nestEntry => .event
  | .tileEntry => .event
  | .scaleCopyEntry => .event
  | .singleStepEntry => .event
  | .gatherEntry => .event
  | .sparseStepEntry => .event
  | .transformEntry _ _ => .event
  | .collectiveEntry => .event
  | .collectiveAbortReceived _ => .event
  | .queueFenceEntry _ _ => .event
  | .srtFlushDone => .event
  | .scrubDone _ => .event
  | .peerAccessAtHome _ => .event
  | .peerRefusalReceived => .event
  | .peerAckReceived => .event
  | .fabricWakeArrival _ _ _ => .event
  | .launchAppend _ _ => .event
  | .preEmption => .event
  | .contextRestore _ => .event
  | .quantumExpiry => .event
  | .deadlineMiss _ => .event
  | .harvestPlacement _ _ _ => .event
  | .harvestHeld _ => .event
  | .harvestRevocation _ => .event
  | .harvestCommit _ => .event
  | .heldRecordQueued _ _ => .event
  | .gload _ => .event
  | .gunload _ => .event
  | .launch _ => .event
  | .jcbnew _ => .event
  | .jcbfree _ => .event
  | .bufnew _ => .event
  | .bufrelDrop _ => .event
  | .bufrelRevoke _ => .event
  | .expwd _ => .event
  | .pteset _ => .event
  | .ctrrd _ => .event
  | .answerResume _ => .event
  | .answerSkip _ => .event
  | .answerAbort _ => .event
  | .gangswOut _ => .event
  | .gangswIn _ => .event
  | .gangswSize _ => .event
  | .qnew _ => .event
  | .qend _ => .event
  | .cutoffReached _ => .event
  | .sweepto _ _ _ => .event
  | .latePacketArrival _ => .event
  | .latecloseReached _ => .event
  | .readyReceived _ _ => .event
  | .reinjectionDrained _ => .event
  | .drainedReceived _ _ => .event
  | .uncorrectableError _ => .event
  | .contextFailure _ => .event
  | .gangfReceived _ _ _ _ _ => .event
  | .coreFailure _ _ => .event
  | .chipletFailure _ => .event
  | .secondTierDeviceDown _ _ => .event
  | .campionMismatch => .event
  | .packageReset _ => .event
  | .recovgo _ _ => .event
  | .domcfgEnable _ _ => .event
  | .domcfgRst _ _ => .event
  | .domainResetEnd _ => .event
  | .vfFlr _ => .event
  | .pfFlr => .event
  | .fportRetrain _ _ => .event
  | .registerWrite _ _ => .event
  | .doorbell _ _ => .event
  | .apertureAccess _ _ _ _ => .event
  | .hostLinkStateChange _ _ => .event
  | .flitReceived _ _ => .event
  | .portDown _ => .event
  | .timestampExchange _ _ => .event
  | .timestampLockLoss => .event
  | .powerCapStep _ => .event
  | .thermalCrossing _ _ => .event
  | .hread _ => .event
  | .elog => .event
  | .hflush _ => .event
  | .telem => .event
  | .pcapset _ => .event
  | .idkey => .event
  | .attest _ => .event
  | .minvup => .event
  | .unassignedOpcode wide w => .bad wide w
  | .demandFetch _ => .event
  | .capabilityRequestAtHome _ => .event
  | .correctableError _ => .event
  | .powerLoss => .event
  | .portTrained _ => .event
  | .routeTableWrite _ _ => .event
  | .timestampSet _ => .event
  | .grandMasterChoice _ _ => .event
  | .responseRead => .event

/-- Sequencers that may issue a W32 opcode (R200). -/
def classesW32 (op : BitVec 7) (q : SeqId) : Bool :=
  let n := op.toNat
  if 0x20 ≤ n ∧ n ≤ 0x26 then q == .ld || q == .sc
  else if 0x40 ≤ n then q == .ex
  else true

/-- Sequencers that may issue a W64 opcode (R201). -/
def classesW64 (op : BitVec 8) (q : SeqId) : Bool :=
  let n := op.toNat
  if n = 0x07 then q == .ld || q == .sc
  else if 0x29 ≤ n ∧ n ≤ 0x2B then q == .ex
  else if 0x33 ≤ n ∧ n ≤ 0x3B then q == .sc
  else if 0x40 ≤ n ∧ n ≤ 0x47 then (if n % 2 = 0 then q == .ld else q == .st)
  else if n = 0x48 then q == .ld
  else if n = 0x49 ∨ n = 0x4A then q == .sc
  else if n = 0x4B ∨ n = 0x4C ∨ n = 0x4D then q == .st
  else if n = 0x4E then q == .ld
  else if 0x50 ≤ n ∧ n ≤ 0x52 then q == .ld
  else if 0x53 ≤ n ∧ n ≤ 0x59 then q == .sc
  else if n = 0x60 then q == .ld
  else if n = 0x61 then q == .st
  else if 0x62 ≤ n ∧ n ≤ 0x67 then q == .ld || q == .st
  else if 0x69 ≤ n ∧ n ≤ 0x72 then q == .sc
  else if 0x7A ≤ n ∧ n ≤ 0x7C then q == .sc
  else if 0x80 ≤ n ∧ n ≤ 0xD7 then q == .ex
  else if 0xD8 ≤ n then q == .sc
  else true

/-- A layout's word may issue on a sequencer: its class column (R200, R201). -/
def Shape.mayIssue (sh : Shape) (q : SeqId) : Bool :=
  match sh with
  | .w32 op _ => classesW32 op q
  | .c16 _ => true
  | .xr op _ => classesW64 op q
  | .xi op _ => classesW64 op q
  | .xm op _ => classesW64 op q
  | .xb op _ => classesW64 op q
  | .xe op _ => classesW64 op q
  | .bad _ _ => true
  | .event => false

/-- The token bits (R184). -/
def Shape.tok (sh : Shape) : BitVec 4 :=
  match sh with
  | .w32 _ f => f.tok
  | .c16 f => f.tok
  | .xr _ f => f.tok
  | .xi _ f => f.tok
  | .xm _ f => f.tok
  | .xb _ f => f.tok
  | .xe _ f => f.tok
  | .bad _ w => w.extractLsb' 0 4
  | .event => 0

/-- The governing predicate's name and the sense bit (R47, R185, R186). -/
def Shape.pred (sh : Shape) : BitVec 4 × BitVec 1 :=
  match sh with
  | .w32 _ f => (f.pred.zeroExtend 4, 0)
  | .c16 _ => (0, 0)
  | .xr _ f => (f.pred, f.sense)
  | .xi _ f => (f.pred, f.sense)
  | .xm _ f => (f.pred, f.sense)
  | .xb _ f => (f.pred, f.sense)
  | .xe _ f => (f.pred, f.sense)
  | .bad _ _ => (0, 0)
  | .event => (0, 0)

/-- The length in bytes (R183). -/
def Shape.len (sh : Shape) : Nat :=
  match sh with
  | .w32 _ _ => 4
  | .c16 _ => 2
  | .bad wide _ => if wide then 8 else 4
  | .event => 0
  | .xr _ _ | .xi _ _ | .xm _ _ | .xb _ _ | .xe _ _ => 8

/-- The opcode number, for LEASE records (R416). -/
def Shape.opcode (sh : Shape) : BitVec 8 :=
  match sh with
  | .w32 op _ => op.zeroExtend 8
  | .c16 _ => 0
  | .xr op _ => op
  | .xi op _ => op
  | .xm op _ => op
  | .xb op _ => op
  | .xe op _ => op
  | .bad _ _ => 0
  | .event => 0

/-- Sequencers on which an instruction may issue. -/
def mayIssue (i : Instr) (q : SeqId) : Bool := (shape i).mayIssue q
/-- Its token bits. -/
def tokOf (i : Instr) : BitVec 4 := (shape i).tok
/-- Its length in bytes. -/
def lenOf (i : Instr) : Nat := (shape i).len
/-- Its opcode number. -/
def opcodeOf (i : Instr) : BitVec 8 := (shape i).opcode

end Sys2Proof.Machine
end

