-- ==== Sys2Proof/Machine/Check.lean ====
section
/-! DEFINITION. The decode checks of spec/07 R198 that need the instruction alone: reserved and unused fields
(cause 0x2), enumerated values (0x7), operand specifiers (0x3), indexes and groups (0x8). The checks that need the
sequencer, the core or the kernel stand in Machine/Issue.lean. -/

namespace Sys2Proof.Machine
open Sys2Proof

/-- Lowest bit of a field, and whether the field is as it must be. -/
abbrev BitChecks := List (Nat × Bool)

/-- The register files an operand can name (R191). -/
inductive RegFile where
  | s | v | p | t
  deriving DecidableEq, Repr

/-- What is checked of one operand specifier, with the lowest bit of its field in the word (R199 BIT). -/
inductive Opnd where
  /-- One register, queue, latch or zero of a file (R191). -/
  | one (bit : Nat) (file : RegFile) (spec : BitVec 6)
  /-- A group of `k` main-file registers (R192). -/
  | group (bit : Nat) (file : RegFile) (spec : BitVec 6) (k : Nat)
  /-- A queue specifier: of the vector queues when `vec` (R229). -/
  | queue (bit : Nat) (vec : Bool) (spec : BitVec 6)
  deriving DecidableEq, Repr

/-- The checks of one instruction in the order of R198: fields that must be zero, enumerated fields, operands. Each
Boolean says that the field is as it must be. -/
structure Checks where
  z : BitChecks := []
  e : BitChecks := []
  o : List Opnd := []

/-- The operand fields of layout XR (R187). -/
inductive Fld where
  | d | a | b | c | f | m | sa
  deriving DecidableEq, Repr

/-- The fields of an XR word that the instruction leaves unused must be 0; of X it uses the low `xu` bits (R190). -/
def zx (f : XR) (xu : Nat) (use : List Fld) : BitChecks :=
  [(19, use.contains .d || f.d == 0), (25, use.contains .a || f.a == 0), (31, use.contains .b || f.b == 0),
   (37, use.contains .c || f.c == 0), (43, use.contains .f || f.f == 0), (48, use.contains .m || f.m == 0),
   (51, use.contains .sa || f.sa == 0), (52 + xu, f.x >>> xu == 0)]

/-- A W32 word of layout RR, or RU when `b` is none (R185). -/
def w32 (f : W32) (d a : RegFile) (b : Option RegFile) : Checks :=
  match b with
  | some r => { o := [.one 14 d f.d, .one 20 a f.a, .one 26 r f.b] }
  | none => { z := [(26, f.b = 0)], o := [.one 14 d f.d, .one 20 a f.a] }

/-- M as rounding (R193): 0 to 4 and 7. -/
def roundOk (m : BitVec 3) : Bool := m ≤ 4 || m == 7
/-- M as scope (R193): 0 to 4. -/
def scopeOk (m : BitVec 3) : Bool := m ≤ 4
/-- mkptr: windows 0, 1, 4 and 5 take no slot (R217). -/
def windowSlotOk (x : BitVec 12) : Bool :=
  let w := x.extractLsb' 0 4
  w == 2 || w == 3 || x.extractLsb' 4 8 == 0
/-- bext and bins: pos + len ≤ 64 (R218). -/
def bitFieldOk (x : BitVec 12) : Bool := (x.extractLsb' 0 6).toNat + (x.extractLsb' 6 6).toNat + 1 ≤ 64

/-- B and OFF13 where the address mode does not use them (R188, R190). A refused mode is left to cause 0x7. -/
def modeZeros (f : XM) : BitChecks :=
  [(31, !(f.am == 0 || f.am == 2) || f.b == 0), (51, f.am != 1 || f.off == 0)]
/-- B as a scalar index in modes 1 and 3 (R188). -/
def bIndex (f : XM) : Opnd := .one 31 .s f.b
/-- A relaxed atomic has M = 0 (R257). -/
def relaxedM (f : XM) : Nat × Bool := (48, f.f.extractLsb' 3 2 != 0 || f.m == 0)

/-- Conversion codes (R282): 0x00-0x0B, INT32, NAT32, FP64. -/
def cvtCode (c : BitVec 5) : Bool := c ≤ 0x0B || (0x14 ≤ c && c ≤ 0x16)
def cvtIsInt (c : BitVec 5) : Bool := (0x08 ≤ c && c ≤ 0x0B) || c == 0x14 || c == 0x15
/-- Width in bits of a conversion type (R282, R154). -/
def cvtWidth (c : BitVec 5) : Nat :=
  match c.toNat with
  | 0 => 32 | 1 => 16 | 2 => 16 | 3 => 8 | 4 => 8 | 5 => 6 | 6 => 6 | 7 => 4
  | 8 => 8 | 9 => 8 | 10 => 4 | 11 => 4 | 0x14 => 32 | 0x15 => 32 | _ => 64
def cvtDstOk (d : BitVec 5) : Bool := cvtCode d
/-- vcvt: both codes floating (R282). -/
def cvtFloatOk (c : BitVec 5) : Bool := cvtCode c && !cvtIsInt c
/-- vcvti: at least one code is an integer; the pair is reported at F, the lower of the two fields (R282). -/
def cvtPairOk (d s : BitVec 5) : Bool := !cvtCode s || cvtIsInt d || cvtIsInt s
def cvtFp64 (f : XR) : Bool := f.f == 0x16 || f.x.extractLsb' 0 5 == 0x16
/-- .pack: destination widths 16, 8, 6, 4, and no FP64 code (R283). -/
def cvtPackOk (f : XR) : Bool := f.x.extractLsb' 5 1 == 0 || (cvtWidth f.f ≤ 16 && !cvtFp64 f)
def cvtUnpkOk (f : XR) : Bool := f.x.extractLsb' 6 1 == 0 || (cvtWidth (f.x.extractLsb' 0 5) ≤ 16 && !cvtFp64 f)
/-- .hi: exactly one of the two codes is FP64 (R283). -/
def cvtHiOk (f : XR) : Bool :=
  f.x.extractLsb' 7 1 == 0 || ((f.f == 0x16) != (f.x.extractLsb' 0 5 == 0x16))

/-- The checks of csrset. -/
def chkCsrset (f : XR) : Checks :=
  { z := zx f 3 [.a], e := [(52, f.x.extractLsb' 0 3 < 6)], o := [.one 25 .s f.a] }
/-- The checks of csrgo. -/
def chkCsrgo (f : XE) : Checks :=
  { z := [(25, f.a = 0), (31, f.b = 0), (51, f.q = 0), (54, f.f = 0), (59, f.x = 0)], o := [.one 19 .s f.d] }
/-- The checks of csrwait. -/
def chkCsrwait (f : XR) : Checks :=
  { z := zx f 0 [.d, .a], o := [.one 19 .s f.d, .one 25 .s f.a] }
/-- The checks of csrstat. -/
def chkCsrstat (f : XR) : Checks :=
  { z := zx f 0 [.d, .a], o := [.one 19 .s f.d, .one 25 .s f.a] }
/-- The checks of csrgath. -/
def chkCsrgath (f : XR) : Checks :=
  { z := zx f 0 [.d, .a, .c], o := [.one 19 .s f.d, .one 25 .s f.a, .one 37 .s f.c] }
/-- The checks of csrmm. -/
def chkCsrmm (f : XR) : Checks :=
  { z := zx f 1 [.d, .a, .b, .c], o := [.one 19 .s f.d, .one 25 .t f.a, .one 31 .s f.b, .one 37 .s f.c] }
/-- The checks of csrcnt. -/
def chkCsrcnt (f : XR) : Checks :=
  { z := zx f 2 [.d], o := [.one 19 .s f.d] }
/-- The checks of csrrst. -/
def chkCsrrst (f : XR) : Checks :=
  { z := zx f 1 [] }
/-- The checks of xfpost. -/
def chkXfpost (f : XE) : Checks :=
  { z := [(31, f.b = 0), (54, f.f = 0), (59, f.x = 0)], e := [(51, f.q < 4)], o := [.one 19 .s f.d, .group 25 .s f.a 6] }
/-- The checks of xfwait. -/
def chkXfwait (f : XE) : Checks :=
  { z := [(31, f.b = 0), (37, f.sw = 0), (43, f.swe = 0), (44, f.ss = 0), (50, f.sse = 0), (51, f.q = 0), (54, f.f = 0), (59, f.x = 0)], o := [.one 19 .s f.d, .one 25 .s f.a] }
/-- The checks of xfstat. -/
def chkXfstat (f : XE) : Checks :=
  { z := [(31, f.b = 0), (37, f.sw = 0), (43, f.swe = 0), (44, f.ss = 0), (50, f.sse = 0), (51, f.q = 0), (54, f.f = 0), (59, f.x = 0)], o := [.one 19 .s f.d, .one 25 .s f.a] }
/-- The checks of colpost. -/
def chkColpost (f : XE) : Checks :=
  { z := [(31, f.b = 0), (51, f.q = 0), (54, f.f = 0), (59, f.x = 0)], o := [.one 19 .s f.d, .group 25 .s f.a 6] }
/-- The checks of colwait. -/
def chkColwait (f : XE) : Checks :=
  { z := [(31, f.b = 0), (37, f.sw = 0), (43, f.swe = 0), (44, f.ss = 0), (50, f.sse = 0), (51, f.q = 0), (54, f.f = 0), (59, f.x = 0)], o := [.one 19 .s f.d, .one 25 .s f.a] }
/-- The checks of colstat. -/
def chkColstat (f : XE) : Checks :=
  { z := [(31, f.b = 0), (37, f.sw = 0), (43, f.swe = 0), (44, f.ss = 0), (50, f.sse = 0), (51, f.q = 0), (54, f.f = 0), (59, f.x = 0)], o := [.one 19 .s f.d, .one 25 .s f.a] }
/-- The checks of qfence. -/
def chkQfence (f : XE) : Checks :=
  { z := [(19, f.d = 0), (31, f.b = 0), (54, f.f = 0), (59, f.x = 0)], o := [.one 25 .s f.a] }
/-- The checks of badrd. -/
def chkBadrd (f : XR) : Checks :=
  { z := zx f 1 [.d, .a], o := [.one 19 .s f.d, .one 25 .s f.a] }

/-- The checks of each instruction, from its description in spec/08 to spec/11. -/
def checks (i : Instr) : Checks :=
  match i with
  | .add f => w32 f .s .s (some .s)
  | .sub f => w32 f .s .s (some .s)
  | .and f => w32 f .s .s (some .s)
  | .or f => w32 f .s .s (some .s)
  | .xor f => w32 f .s .s (some .s)
  | .andn f => w32 f .s .s (some .s)
  | .orn f => w32 f .s .s (some .s)
  | .sll f => w32 f .s .s (some .s)
  | .srl f => w32 f .s .s (some .s)
  | .sra f => w32 f .s .s (some .s)
  | .rol f => w32 f .s .s (some .s)
  | .min f => w32 f .s .s (some .s)
  | .max f => w32 f .s .s (some .s)
  | .minn f => w32 f .s .s (some .s)
  | .maxn f => w32 f .s .s (some .s)
  | .ceq f => w32 f .s .s (some .s)
  | .cne f => w32 f .s .s (some .s)
  | .clt f => w32 f .s .s (some .s)
  | .cltn f => w32 f .s .s (some .s)
  | .cle f => w32 f .s .s (some .s)
  | .clen f => w32 f .s .s (some .s)
  | .addi f => { o := [.one 14 .s f.d, .one 20 .s f.a] }
  | .andi f => { o := [.one 14 .s f.d, .one 20 .s f.a] }
  | .ori f => { o := [.one 14 .s f.d, .one 20 .s f.a] }
  | .xori f => { o := [.one 14 .s f.d, .one 20 .s f.a] }
  | .slli f => { o := [.one 14 .s f.d, .one 20 .s f.a] }
  | .srli f => { o := [.one 14 .s f.d, .one 20 .s f.a] }
  | .srai f => { o := [.one 14 .s f.d, .one 20 .s f.a] }
  | .roli f => { o := [.one 14 .s f.d, .one 20 .s f.a] }
  | .mul f => w32 f .s .s (some .s)
  | .mulh f => w32 f .s .s (some .s)
  | .mulhn f => w32 f .s .s (some .s)
  | .div f => w32 f .s .s (some .s)
  | .divn f => w32 f .s .s (some .s)
  | .rem f => w32 f .s .s (some .s)
  | .remn f => w32 f .s .s (some .s)
  | .mov f => w32 f .s .s none
  | .neg f => w32 f .s .s none
  | .not f => w32 f .s .s none
  | .clz f => w32 f .s .s none
  | .ctz f => w32 f .s .s none
  | .popc f => w32 f .s .s none
  | .sextw f => w32 f .s .s none
  | .zextw f => w32 f .s .s none
  | .nop f => { z := [(14, f.d = 0), (20, f.a = 0), (26, f.b = 0)] }
  | .halt f => { z := [(14, f.d = 0), (20, f.a = 0), (26, f.b = 0)] }
  | .bopush f => { z := [(14, f.d = 0), (26, f.b = 0)], o := [.one 20 .s f.a] }
  | .jr f => { z := [(14, f.d = 0), (26, f.b = 0)], o := [.one 20 .s f.a] }
  | .callr f => w32 f .s .s none
  | .vadd f => w32 f .v .v (some .v)
  | .vsub f => w32 f .v .v (some .v)
  | .vmul f => w32 f .v .v (some .v)
  | .vmulh f => w32 f .v .v (some .v)
  | .vmulhn f => w32 f .v .v (some .v)
  | .vmin f => w32 f .v .v (some .v)
  | .vmax f => w32 f .v .v (some .v)
  | .vminn f => w32 f .v .v (some .v)
  | .vmaxn f => w32 f .v .v (some .v)
  | .vand f => w32 f .v .v (some .v)
  | .vor f => w32 f .v .v (some .v)
  | .vxor f => w32 f .v .v (some .v)
  | .vandn f => w32 f .v .v (some .v)
  | .vsll f => w32 f .v .v (some .v)
  | .vsrl f => w32 f .v .v (some .v)
  | .vsra f => w32 f .v .v (some .v)
  | .vfadd f => w32 f .v .v (some .v)
  | .vfsub f => w32 f .v .v (some .v)
  | .vfmul f => w32 f .v .v (some .v)
  | .vfmin f => w32 f .v .v (some .v)
  | .vfmax f => w32 f .v .v (some .v)
  | .vfabs f => w32 f .v .v none
  | .vfneg f => w32 f .v .v none
  | .vmov f => w32 f .v .v none
  | .vbcast f => w32 f .v .s none
  | .cx _ => {}
  | .li f => { z := [(25, f.a = 0), (63, f.top = 0)], o := [.one 19 .s f.d] }
  | .lih f => { z := [(63, f.top = 0)], o := [.one 19 .s f.d, .one 25 .s f.a] }
  | .addl f => { z := [(63, f.top = 0)], o := [.one 19 .s f.d, .one 25 .s f.a] }
  | .andl f => { z := [(63, f.top = 0)], o := [.one 19 .s f.d, .one 25 .s f.a] }
  | .orl f => { z := [(63, f.top = 0)], o := [.one 19 .s f.d, .one 25 .s f.a] }
  | .xorl f => { z := [(63, f.top = 0)], o := [.one 19 .s f.d, .one 25 .s f.a] }
  | .mull f => { z := [(63, f.top = 0)], o := [.one 19 .s f.d, .one 25 .s f.a] }
  | .mkptr f => { z := zx f 12 [.d, .a], e := [(52, f.x.extractLsb' 0 4 < 6), (56, windowSlotOk f.x)], o := [.one 19 .s f.d, .one 25 .s f.a] }
  | .sel f => { z := zx f 0 [.d, .a, .b, .c], o := [.one 19 .s f.d, .one 25 .s f.a, .one 31 .s f.b, .one 37 .p f.c] }
  | .bext f => { z := zx f 12 [.d, .a, .f] ++ ([(44, f.f.extractLsb' 1 4 = 0)] : BitChecks), e := [(52, bitFieldOk f.x)], o := [.one 19 .s f.d, .one 25 .s f.a] }
  | .bins f => { z := zx f 12 [.d, .a, .b], e := [(52, bitFieldOk f.x)], o := [.one 19 .s f.d, .one 25 .s f.a, .one 31 .s f.b] }
  | .br f => { z := [(19, f.a = 0), (25, f.b = 0), (31, f.lc = 0), (33, f.z = 0)] }
  | .bz f => { z := [(25, f.b = 0), (31, f.lc = 0), (33, f.z = 0)], o := [.one 19 .s f.a] }
  | .bnz f => { z := [(25, f.b = 0), (31, f.lc = 0), (33, f.z = 0)], o := [.one 19 .s f.a] }
  | .bany f => { z := [(31, f.lc = 0), (33, f.z = 0)], o := [.one 19 .p f.a, .one 25 .p f.b] }
  | .ball f => { z := [(31, f.lc = 0), (33, f.z = 0)], o := [.one 19 .p f.a, .one 25 .p f.b] }
  | .bnone f => { z := [(31, f.lc = 0), (33, f.z = 0)], o := [.one 19 .p f.a, .one 25 .p f.b] }
  | .bbo f => { z := [(19, f.a = 0), (25, f.b = 0), (31, f.lc = 0), (33, f.z = 0)] }
  | .bbon f => { z := [(19, f.a = 0), (25, f.b = 0), (31, f.lc = 0), (33, f.z = 0)] }
  | .call f => { z := [(25, f.b = 0), (31, f.lc = 0), (33, f.z = 0)], o := [.one 19 .s f.a] }
  | .loop f => { z := [(25, f.b = 0), (33, f.z = 0)], o := [.one 19 .s f.a] }
  | .bloop f => { z := [(19, f.a = 0), (25, f.b = 0), (33, f.z = 0)] }
  | .bdnz f => { z := [(25, f.b = 0), (31, f.lc = 0), (33, f.z = 0)], o := [.group 19 .s f.a 1] }
  | .lcset f => { z := zx f 0 [.a, .f] ++ ([(45, f.f.extractLsb' 2 3 = 0)] : BitChecks), o := [.one 25 .s f.a] }
  | .lcget f => { z := zx f 0 [.d, .f] ++ ([(45, f.f.extractLsb' 2 3 = 0)] : BitChecks), o := [.one 19 .s f.d] }
  | .pand f => { z := zx f 0 [.d, .a, .b], o := [.one 19 .p f.d, .one 25 .p f.a, .one 31 .p f.b] }
  | .por f => { z := zx f 0 [.d, .a, .b], o := [.one 19 .p f.d, .one 25 .p f.a, .one 31 .p f.b] }
  | .pxor f => { z := zx f 0 [.d, .a, .b], o := [.one 19 .p f.d, .one 25 .p f.a, .one 31 .p f.b] }
  | .pandn f => { z := zx f 0 [.d, .a, .b], o := [.one 19 .p f.d, .one 25 .p f.a, .one 31 .p f.b] }
  | .pnot f => { z := zx f 0 [.d, .a], o := [.one 19 .p f.d, .one 25 .p f.a] }
  | .pfroms f => { z := zx f 0 [.d, .a], o := [.one 19 .p f.d, .one 25 .s f.a] }
  | .ptos f => { z := zx f 0 [.d, .a], o := [.one 19 .s f.d, .one 25 .p f.a] }
  | .pcnt f => { z := zx f 0 [.d, .a], o := [.one 19 .s f.d, .one 25 .p f.a] }
  | .pffs f => { z := zx f 0 [.d, .a], o := [.one 19 .s f.d, .one 25 .p f.a] }
  | .defer f => { z := zx f 6 [.d, .a, .b], o := [.one 19 .s f.d, .group 25 .v f.a ((f.x.extractLsb' 4 2).toNat + 1), .one 31 .p f.b] }
  | .drain f => { z := zx f 8 [.d, .c], o := [.group 19 .v f.d ((f.x.extractLsb' 4 2).toNat + 1 + (f.x.extractLsb' 6 1).toNat), .one 37 .p f.c] }
  | .rejoin f => { z := zx f 0 [] }
  | .bopop f => { z := zx f 0 [.d], o := [.one 19 .s f.d] }
  | .rgnb f => { z := zx f 12 [] ++ ([(14, f.pred = 0), (18, f.sense = 0)] : BitChecks) }
  | .rgne f => { z := zx f 12 [] ++ ([(14, f.pred = 0), (18, f.sense = 0)] : BitChecks) }
  | .tokn f => { z := zx f 4 [], e := [(52, f.x.extractLsb' 0 4 ≠ 0)] }
  | .qpeek f => { z := zx f 0 [.d, .a], o := [.one 19 .s f.d, .queue 25 false f.a] }
  | .vqpeek f => { z := zx f 0 [.d, .a], o := [.one 19 .v f.d, .queue 25 true f.a] }
  | .qlen f => { z := zx f 0 [.d, .a, .f] ++ ([(25, f.f ≠ 2 ∨ f.a = 0)] : BitChecks), e := [(43, f.f < 3)], o := [.one 19 .s f.d, (if f.f = 2 then .one 25 .s f.a else .queue 25 (f.f == 1) f.a)] }
  | .eget f => { z := zx f 2 [.d], o := [.group 19 .s f.d 8] }
  | .ejoin f => { z := zx f 2 [.d], o := [.group 19 .s f.d 8] }
  | .etry f => { z := zx f 2 [.d, .c, .f] ++ ([(44, f.f.extractLsb' 1 4 = 0)] : BitChecks), o := [.group 19 .s f.d 8, .one 37 .s f.c] }
  | .eput f => { z := zx f 2 [.a], o := [.group 25 .s f.a 8] }
  | .eputs f => { z := zx f 2 [.a, .c], o := [.group 25 .s f.a 8, .one 37 .s f.c] }
  | .estat f => { z := zx f 2 [.d, .f] ++ ([(44, f.f.extractLsb' 1 4 = 0)] : BitChecks), o := [.one 19 .s f.d] }
  | .jraise f => { z := zx f 0 [.a], o := [.one 25 .s f.a] }
  | .jpost f => { z := zx f 0 [] }
  | .jstat f => { z := zx f 0 [.d, .f] ++ ([(45, f.f.extractLsb' 2 3 = 0)] : BitChecks), o := [.one 19 .s f.d] }
  | .ld f => { z := modeZeros f ++ ([(44, f.f.extractLsb' 1 4 = 0)] : BitChecks), e := [(37, f.wd < 4), (40, f.am < 4), (48, f.m < 3)], o := [.one 19 .s f.t, .one 25 .s f.a, bIndex f] }
  | .st f => { z := modeZeros f ++ ([(43, f.f = 0)] : BitChecks), e := [(37, f.wd < 4), (40, f.am < 4), (48, f.m < 3)], o := [.one 19 .s f.t, .one 25 .s f.a, bIndex f] }
  | .vld f => { z := modeZeros f ++ ([(43, f.f = 0)] : BitChecks), e := [(37, f.wd = 6), (40, f.am < 4), (48, f.m < 3)], o := [.one 19 .v f.t, .one 25 .s f.a, bIndex f] }
  | .vst f => { z := modeZeros f ++ ([(43, f.f = 0)] : BitChecks), e := [(37, f.wd = 6), (40, f.am < 4), (48, f.m < 3)], o := [.one 19 .v f.t, .one 25 .s f.a, bIndex f] }
  | .vldx f => { z := [(44, f.f.extractLsb' 1 4 = 0)], e := [(37, f.wd < 3), (40, f.am = 4), (48, f.m < 3)], o := [.one 19 .v f.t, .one 25 .s f.a, .one 31 .v f.b] }
  | .vstx f => { z := [(44, f.f.extractLsb' 1 4 = 0)], e := [(37, f.wd < 3), (40, f.am = 4), (48, f.m < 3)], o := [.one 19 .v f.t, .one 25 .s f.a, .one 31 .v f.b] }
  | .vldk f => { z := modeZeros f ++ ([(43, f.f = 0), (48, f.m = 0)] : BitChecks), e := [(37, f.wd = 2), (40, f.am < 2)], o := [.one 19 .v f.t, .one 25 .s f.a, bIndex f] }
  | .vstk f => { z := modeZeros f ++ ([(43, f.f = 0), (48, f.m = 0)] : BitChecks), e := [(37, f.wd = 2), (40, f.am < 2)], o := [.one 19 .v f.t, .one 25 .s f.a, bIndex f] }
  | .pf f => { z := [(19, f.t = 0), (31, f.b = 0), (37, f.wd = 0)], e := [(40, f.am = 0), (48, f.m < 3)], o := [.one 25 .s f.a] }
  | .ipf f => { z := [(19, f.t = 0), (31, f.b = 0), (37, f.wd = 0)], e := [(40, f.am = 0), (48, f.m = 0)], o := [.one 25 .s f.a] }
  | .icinv f => { z := ([(19, f.t = 0), (31, f.b = 0), (37, f.wd = 0)] : BitChecks) ++ (if f.m = 1 then ([(25, f.a = 0), (43, f.f = 0), (51, f.off = 0)] : BitChecks) else []), e := [(40, f.am = 0), (48, f.m < 2)], o := [.one 25 .s f.a] }
  | .dcwb f => { z := [(19, f.t = 0), (31, f.b = 0), (37, f.wd = 0)], e := [(40, f.am = 0), (48, f.m < 2)], o := [.one 25 .s f.a] }
  | .cbres f => { z := zx f 5 [.d], o := [.one 19 .s f.d] }
  | .cbcmt f => { z := zx f 5 [] }
  | .cbacq f => { z := zx f 5 [.d], o := [.one 19 .s f.d] }
  | .cbrel f => { z := zx f 5 [] }
  | .cpy f => { z := [(31, f.b = 0), (54, f.f.extractLsb' 0 1 = 0), (56, f.f.extractLsb' 2 3 = 0), (59, f.x = 0)], e := [(51, f.q = 0)], o := [.one 19 .s f.d, .group 25 .s f.a 4] }
  | .cpywait f => { z := [(31, f.b = 0), (37, f.sw = 0), (43, f.swe = 0), (44, f.ss = 0), (50, f.sse = 0), (51, f.q = 0), (54, f.f = 0), (59, f.x = 0)], o := [.one 19 .s f.d, .one 25 .s f.a] }
  | .cpystat f => { z := zx f 0 [.d, .a], o := [.one 19 .s f.d, .one 25 .s f.a] }
  | .capshr f => { z := zx f 0 [.a, .b], o := [.one 25 .s f.a, .one 31 .s f.b] }
  | .capxfr f => { z := zx f 0 [.a, .b], o := [.one 25 .s f.a, .one 31 .s f.b] }
  | .capdrop f => { z := zx f 8 [] }
  | .caprd f => { z := zx f 8 [.d, .f] ++ ([(44, f.f.extractLsb' 1 4 = 0)] : BitChecks), o := [.one 19 .s f.d] }
  | .capnar f => { z := zx f 8 [.a, .b], o := [.one 25 .s f.a, .one 31 .s f.b] }
  | .capexp f => { z := zx f 8 [.d], o := [.group 19 .s f.d 3] }
  | .capimp f => { z := zx f 8 [.a], o := [.group 25 .s f.a 3] }
  | .ldacq f => { z := [(31, f.b = 0), (43, f.f = 0)], e := [(37, f.wd = 2 ∨ f.wd = 3), (40, f.am = 0), (48, scopeOk f.m)], o := [.one 19 .s f.t, .one 25 .s f.a] }
  | .strel f => { z := [(31, f.b = 0), (43, f.f = 0)], e := [(37, f.wd = 2 ∨ f.wd = 3), (40, f.am = 0), (48, scopeOk f.m)], o := [.one 19 .s f.t, .one 25 .s f.a] }
  | .amo f => { z := [relaxedM f], e := [(37, f.wd = 2 ∨ f.wd = 3), (40, f.am = 0), (48, scopeOk f.m)], o := [.one 19 .s f.t, .one 25 .s f.a, .one 31 .s f.b] }
  | .cas f => { z := [(44, f.f.extractLsb' 1 2 = 0), relaxedM f], e := [(37, f.wd = 2 ∨ f.wd = 3), (40, f.am = 0), (48, scopeOk f.m)], o := [.one 19 .s f.t, .one 25 .s f.a, .one 31 .s f.b] }
  | .amof f => { z := [(45, f.f.extractLsb' 2 1 = 0), relaxedM f], e := [(37, f.wd = 2 ∨ f.wd = 3), (40, f.am = 0), (43, f.f.extractLsb' 0 2 ≠ 3), (48, scopeOk f.m)], o := [.one 19 .s f.t, .one 25 .s f.a, .one 31 .s f.b] }
  | .cupd f => { z := [(31, f.b = 0), (46, f.f.extractLsb' 3 2 = 0), (48, f.m = 0)], e := [(37, f.wd = 2 ∨ f.wd = 3), (40, f.am = 0)], o := [.one 19 .s f.t, .one 25 .s f.a] }
  | .vcupd f => { z := [(46, f.f.extractLsb' 3 2 = 0), (48, f.m = 0)], e := [(37, f.wd = 2), (40, f.am = 4)], o := [.one 19 .v f.t, .one 25 .s f.a, .one 31 .v f.b] }
  | .vamo f => { z := [(46, f.f.extractLsb' 3 2 = 0), (48, f.m = 0)], e := [(37, f.wd = 2), (40, f.am = 4)], o := [.one 19 .v f.t, .one 25 .s f.a, .one 31 .v f.b] }
  | .fence f => { z := zx f 0 [.m], e := [(48, scopeOk f.m)] }
  | .semsig f => { z := zx f 6 [.m], e := [(48, scopeOk f.m)] }
  | .semwait f => { z := zx f 6 [.m], e := [(48, scopeOk f.m)] }
  | .semget f => { z := zx f 6 [.d], o := [.one 19 .s f.d] }
  | .barinit f => { z := zx f 0 [.a, .b], o := [.one 25 .s f.a, .one 31 .s f.b] }
  | .bararr f => { z := zx f 0 [.d, .a, .m], e := [(48, scopeOk f.m)], o := [.one 19 .s f.d, .one 25 .s f.a] }
  | .barwait f => { z := zx f 0 [.a, .b, .m], e := [(48, scopeOk f.m)], o := [.one 25 .s f.a, .one 31 .s f.b] }
  | .bartest f => { z := zx f 0 [.d, .a, .b, .m], e := [(48, scopeOk f.m)], o := [.one 19 .s f.d, .one 25 .s f.a, .one 31 .s f.b] }
  | .waitw f => { z := [(44, f.f.extractLsb' 1 4 = 0)], e := [(37, f.wd = 2 ∨ f.wd = 3), (40, f.am = 0), (48, scopeOk f.m)], o := [.one 19 .s f.t, .one 25 .s f.a, .one 31 .s f.b] }
  | .waitwt f => { z := [(44, f.f.extractLsb' 1 4 = 0)], e := [(37, f.wd = 2 ∨ f.wd = 3), (40, f.am = 0), (48, scopeOk f.m)], o := [.one 19 .s f.t, .one 25 .s f.a, .one 31 .s f.b] }
  | .wake f => { z := [(31, f.b = 0), (43, f.f = 0)], e := [(37, f.wd = 3), (40, f.am = 0), (48, scopeOk f.m)], o := [.one 19 .s f.t, .one 25 .s f.a] }
  | .gts f => { z := zx f 0 [.d], o := [.one 19 .s f.d] }
  | .crr f => { z := zx f 12 [.d], o := [.one 19 .s f.d] }
  | .crw f => { z := zx f 12 [.a], o := [.one 25 .s f.a] }
  | .disc f => { z := zx f 0 [.d, .a], o := [.one 19 .s f.d, .one 25 .s f.a] }
  | .lend f => { z := zx f 0 [.a], o := [.one 25 .s f.a] }
  | .reclaim f => { z := zx f 0 [.a], o := [.one 25 .s f.a] }
  | .vfma f => { z := zx f 2 [.d, .a, .b, .c, .m, .sa], e := [(48, roundOk f.m)], o := [.one 19 .v f.d, .one 25 .v f.a, .one 31 .v f.b, .one 37 .v f.c] }
  | .vfms f => { z := zx f 2 [.d, .a, .b, .c, .m, .sa], e := [(48, roundOk f.m)], o := [.one 19 .v f.d, .one 25 .v f.a, .one 31 .v f.b, .one 37 .v f.c] }
  | .vfnma f => { z := zx f 2 [.d, .a, .b, .c, .m, .sa], e := [(48, roundOk f.m)], o := [.one 19 .v f.d, .one 25 .v f.a, .one 31 .v f.b, .one 37 .v f.c] }
  | .vfalu f => { z := zx f 2 [.d, .a, .b, .f, .m, .sa], e := [(43, f.f < 6), (48, roundOk f.m)], o := [.one 19 .v f.d, .one 25 .v f.a, .one 31 .v f.b] }
  | .vfrcp f => { z := zx f 2 [.d, .a], e := [(52, f.x.extractLsb' 0 2 ≠ 3)], o := [.one 19 .v f.d, .one 25 .v f.a] }
  | .vfrsq f => { z := zx f 2 [.d, .a], e := [(52, f.x.extractLsb' 0 2 ≠ 3)], o := [.one 19 .v f.d, .one 25 .v f.a] }
  | .vfsqrt f => { z := zx f 2 [.d, .a, .m], e := [(48, roundOk f.m)], o := [.one 19 .v f.d, .one 25 .v f.a] }
  | .vfexp2 f => { z := zx f 2 [.d, .a], e := [(52, f.x.extractLsb' 0 2 ≠ 3)], o := [.one 19 .v f.d, .one 25 .v f.a] }
  | .vflog2 f => { z := zx f 2 [.d, .a], e := [(52, f.x.extractLsb' 0 2 ≠ 3)], o := [.one 19 .v f.d, .one 25 .v f.a] }
  | .vfsin f => { z := zx f 2 [.d, .a], e := [(52, f.x.extractLsb' 0 2 ≠ 3)], o := [.one 19 .v f.d, .one 25 .v f.a] }
  | .vfcos f => { z := zx f 2 [.d, .a], e := [(52, f.x.extractLsb' 0 2 ≠ 3)], o := [.one 19 .v f.d, .one 25 .v f.a] }
  | .vcmp f => { z := zx f 0 [.d, .a, .b, .f], e := [(43, f.f < 6)], o := [.one 19 .p f.d, .one 25 .v f.a, .one 31 .v f.b] }
  | .vfcmp f => { z := zx f 2 [.d, .a, .b, .f], e := [(43, f.f < 5), (52, f.x.extractLsb' 0 2 = 0 ∨ f.x.extractLsb' 0 2 = 3)], o := [.one 19 .p f.d, .one 25 .v f.a, .one 31 .v f.b] }
  | .vsel f => { z := zx f 0 [.d, .a, .b, .c], o := [.one 19 .v f.d, .one 25 .v f.a, .one 31 .v f.b, .one 37 .p f.c] }
  | .viota f => { z := zx f 12 [.d, .a], o := [.one 19 .v f.d, .one 25 .s f.a] }
  | .vcvt f => { z := zx f 8 [.d, .a, .f, .m, .sa], e := [(43, cvtFloatOk f.f), (48, roundOk f.m), (52, cvtFloatOk (f.x.extractLsb' 0 5)), (57, cvtPackOk f), (58, cvtUnpkOk f), (59, cvtHiOk f)], o := [.one 19 .v f.d, .one 25 .v f.a] }
  | .vcvtb f => { z := zx f 1 [.d, .a, .f, .m, .sa], e := [(43, 0x0C ≤ f.f ∧ f.f ≤ 0x11), (48, roundOk f.m)], o := [.one 19 .v f.d, .one 25 .v f.a] }
  | .vcvti f => { z := zx f 8 [.d, .a, .f, .m, .sa], e := [(43, cvtDstOk f.f && cvtPairOk f.f (f.x.extractLsb' 0 5)), (48, roundOk f.m), (52, cvtCode (f.x.extractLsb' 0 5)), (57, cvtPackOk f), (58, cvtUnpkOk f), (59, cvtHiOk f)], o := [.one 19 .v f.d, .one 25 .v f.a] }
  | .srseed f => { z := zx f 0 [.a], o := [.one 25 .s f.a] }
  | .vperm f => { z := zx f 1 [.d, .a, .b], o := [.one 19 .v f.d, .one 25 .v f.a, .one 31 .v f.b] }
  | .vperm2 f => { z := zx f 1 [.d, .a, .b], o := [.one 19 .v f.d, .group 25 .v f.a 2, .one 31 .v f.b] }
  | .vrot f => { z := zx f 9 [.d, .a, .b] ++ ([(31, f.x.extractLsb' 8 1 = 0 ∨ f.b = 0), (52, f.x.extractLsb' 8 1 = 1 ∨ f.x.extractLsb' 0 7 = 0)] : BitChecks), e := [(52, f.x.extractLsb' 7 1 = 1 ∨ (f.x.extractLsb' 0 7).toNat < 64)], o := [.one 19 .v f.d, .one 25 .v f.a, .one 31 .s f.b] }
  | .vtrn f => { z := zx f 4 [.d, .a, .b, .f] ++ ([(44, f.f.extractLsb' 1 4 = 0)] : BitChecks), e := [(52, (f.x.extractLsb' 0 3).toNat ≤ 5 + (f.x.extractLsb' 3 1).toNat)], o := [.one 19 .v f.d, .one 25 .v f.a, .one 31 .v f.b] }
  | .vcompress f => { z := zx f 0 [.d, .a], o := [.one 19 .v f.d, .one 25 .v f.a] }
  | .vexpand f => { z := zx f 0 [.d, .a], o := [.one 19 .v f.d, .one 25 .v f.a] }
  | .vext f => { z := zx f 7 [.d, .a, .b] ++ ([(31, f.x.extractLsb' 6 1 = 0 ∨ f.b = 0), (52, f.x.extractLsb' 6 1 = 1 ∨ f.x.extractLsb' 0 6 = 0)] : BitChecks), o := [.one 19 .s f.d, .one 25 .v f.a, .one 31 .s f.b] }
  | .vins f => { z := zx f 7 [.d, .a, .b] ++ ([(31, f.x.extractLsb' 6 1 = 0 ∨ f.b = 0), (52, f.x.extractLsb' 6 1 = 1 ∨ f.x.extractLsb' 0 6 = 0)] : BitChecks), o := [.one 19 .v f.d, .one 25 .s f.a, .one 31 .s f.b] }
  | .bfly2 f => { z := zx f 4 [.d, .a, .b, .m, .sa], e := [(48, roundOk f.m), (52, f.x.extractLsb' 0 2 ≠ 3), (55, f.x.extractLsb' 3 1 = 0 ∨ f.x.extractLsb' 2 1 = 1)], o := [.group 19 .v f.d 2, .group 25 .v f.a 2, .group 31 .v f.b 2] }
  | .bfly4 f => { z := zx f 4 [.d, .a, .b, .m, .sa], e := [(48, roundOk f.m), (52, f.x.extractLsb' 0 2 ≠ 3), (55, f.x.extractLsb' 3 1 = 0 ∨ f.x.extractLsb' 2 1 = 1)], o := [.group 19 .v f.d 2, .group 25 .v f.a 2, .group 31 .v f.b 2] }
  | .twmul f => { z := zx f 4 [.d, .a, .b, .m, .sa], e := [(48, roundOk f.m), (52, f.x.extractLsb' 0 2 ≠ 3), (54, f.x.extractLsb' 2 1 = 0)], o := [.group 19 .v f.d 2, .group 25 .v f.a 2, .group 31 .v f.b 2] }
  | .twgen f => { z := zx f 7 [.d, .a, .b], e := [(52, f.x.extractLsb' 0 2 ≠ 3), (54, 1 ≤ (f.x.extractLsb' 2 5).toNat ∧ (f.x.extractLsb' 2 5).toNat ≤ 24)], o := [.group 19 .v f.d 2, .one 25 .s f.a, .one 31 .s f.b] }
  | .vredadd f => { z := zx f 0 [.d, .a, .b, .f] ++ ([(44, f.f.extractLsb' 1 4 = 0)] : BitChecks), o := [.one 19 .s f.d, .one 25 .v f.a, .one 31 .s f.b] }
  | .vredmin f => { z := zx f 0 [.d, .a, .b, .f] ++ ([(44, f.f.extractLsb' 1 4 = 0)] : BitChecks), o := [.one 19 .s f.d, .one 25 .v f.a, .one 31 .s f.b] }
  | .vredmax f => { z := zx f 0 [.d, .a, .b, .f] ++ ([(44, f.f.extractLsb' 1 4 = 0)] : BitChecks), o := [.one 19 .s f.d, .one 25 .v f.a, .one 31 .s f.b] }
  | .vfredadd f => { z := zx f 2 [.d, .a, .b, .m, .sa], e := [(48, roundOk f.m)], o := [.one 19 .s f.d, .one 25 .v f.a, .one 31 .s f.b] }
  | .vfredmin f => { z := zx f 2 [.d, .a, .b, .m], e := [(48, roundOk f.m)], o := [.one 19 .s f.d, .one 25 .v f.a, .one 31 .s f.b] }
  | .vfredmax f => { z := zx f 2 [.d, .a, .b, .m], e := [(48, roundOk f.m)], o := [.one 19 .s f.d, .one 25 .v f.a, .one 31 .s f.b] }
  | .srtkey f => { z := zx f 3 [], e := [(52, f.x.extractLsb' 0 2 ≠ 3)] }
  | .srtld f => { z := zx f 0 [.a, .b, .c], o := [.one 25 .v f.a, .one 31 .v f.b, .one 37 .v f.c] }
  | .srtsort f => { z := zx f 0 [.d, .a], o := [.group 19 .v f.d 2, .group 25 .v f.a 2] }
  | .srtmrg f => { z := zx f 0 [.d, .a, .b], o := [.group 19 .v f.d 4, .group 25 .v f.a 2, .group 31 .v f.b 2] }
  | .srttopk f => { z := zx f 12 [] }
  | .srtseg f => { z := zx f 12 [.f], e := [(43, (f.x.toNat + 1) * (f.f.toNat + 1) ≤ 4096)] }
  | .srtthr f => { z := zx f 0 [.a, .f] ++ ([(25, f.f.extractLsb' 0 1 = 0 ∨ f.a = 0), (44, f.f.extractLsb' 1 4 = 0)] : BitChecks), o := [.one 25 .s f.a] }
  | .srtdedup f => { z := zx f 0 [.f] ++ ([(44, f.f.extractLsb' 1 4 = 0)] : BitChecks) }
  | .srtst f => { z := zx f 0 [.d, .c], o := [.group 19 .v f.d 2, .one 37 .p f.c] }
  | .srtflush f => { z := zx f 0 [] }
  | .srtstat f => { z := zx f 0 [.d], o := [.one 19 .s f.d] }
  | .srtwait f => { z := zx f 0 [] }
  | .mnset f => { z := zx f 5 [.a], o := [.one 25 .s f.a] }
  | .mnget f => { z := zx f 5 [.d], o := [.one 19 .s f.d] }
  | .mgo f => { z := [(25, f.a = 0), (31, f.b = 0), (51, f.q = 0), (54, f.f = 0), (59, f.x = 0)], o := [.one 19 .s f.d] }
  | .mwait f => { z := zx f 0 [.d, .a], o := [.one 19 .s f.d, .one 25 .s f.a] }
  | .mstat f => { z := zx f 0 [.d, .a], o := [.one 19 .s f.d, .one 25 .s f.a] }
  | .mshadow f => { z := zx f 2 [.d], e := [(52, f.x.extractLsb' 0 2 ≠ 3)], o := [.one 19 .s f.d] }
  | .mscl f => { z := zx f 1 [.d, .a, .b, .c], o := [.one 19 .s f.d, .one 25 .s f.a, .one 31 .s f.b, .one 37 .s f.c] }
  | .mbase f => { z := zx f 0 [.a], o := [.one 25 .s f.a] }
  | .mring f => { z := zx f 10 [], e := [(52, (f.x.extractLsb' 0 5).toNat + (f.x.extractLsb' 5 5).toNat + 1 ≤ 32)] }
  | .macz f => { z := zx f 0 [.d, .a], o := [.one 19 .s f.d, .one 25 .t f.a] }
  | .macld f => { z := zx f 0 [.d, .a, .b, .c, .f], e := [(43, f.f ≤ 2)], o := [.one 19 .s f.d, .one 25 .t f.a, .one 31 .s f.b, .one 37 .s f.c] }
  | .macst f => { z := zx f 0 [.d, .a, .b, .c, .f, .m, .sa], e := [(43, f.f ≤ 4), (48, f.m ≤ 3 ∨ f.m = 7)], o := [.one 19 .s f.d, .one 25 .t f.a, .one 31 .s f.b, .one 37 .s f.c] }
  | .macadd f => { z := zx f 1 [.d, .a, .b, .m, .sa], e := [(48, f.m ≤ 3 ∨ f.m = 7)], o := [.one 19 .s f.d, .one 25 .t f.a, .one 31 .t f.b] }
  | .maccvt f => { z := zx f 0 [.d, .a, .b, .c, .f, .m, .sa], e := [(43, 0x0C ≤ f.f ∧ f.f ≤ 0x11), (48, f.m ≤ 3 ∨ f.m = 7)], o := [.one 19 .s f.d, .one 25 .t f.a, .one 31 .s f.b, .one 37 .s f.c] }
  | .mmt f => { z := zx f 2 [.d, .a, .b, .c], o := [.one 19 .s f.d, .one 25 .t f.a, .one 31 .s f.b, .one 37 .s f.c] }
  | .mmts f => { z := zx f 4 [.d, .b, .c], o := [.one 19 .s f.d, .one 31 .s f.b, .one 37 .s f.c] }
  | .csrset f => chkCsrset f
  | .csrgo f => chkCsrgo f
  | .csrwait f => chkCsrwait f
  | .csrstat f => chkCsrstat f
  | .csrgath f => chkCsrgath f
  | .csrmm f => chkCsrmm f
  | .csrcnt f => chkCsrcnt f
  | .csrrst f => chkCsrrst f
  | .xfpost f => chkXfpost f
  | .xfwait f => chkXfwait f
  | .xfstat f => chkXfstat f
  | .colpost f => chkColpost f
  | .colwait f => chkColwait f
  | .colstat f => chkColstat f
  | .qfence f => chkQfence f
  | .badrd f => chkBadrd f
  | .cbdEnable _ _ => {}
  | .cbdDisable _ _ => {}
  | .spfmtWrite _ _ => {}
  | .cesrWrite _ => {}
  | .fpflgClear _ _ => {}
  | .fpctlWrite _ => {}
  | .rotcWrite _ _ => {}
  | .resultComplete _ => {}
  | .fillArrival _ => {}
  | .pageRequestPosted _ => {}
  | .waiterRewalk => {}
  | .overflowRewalk => {}
  | .deadlockCounterExpiry => {}
  | .waitwtDeadline _ => {}
  | .copyEntry => {}
  | .nestEntry => {}
  | .tileEntry => {}
  | .scaleCopyEntry => {}
  | .singleStepEntry => {}
  | .gatherEntry => {}
  | .sparseStepEntry => {}
  | .transformEntry _ _ => {}
  | .collectiveEntry => {}
  | .collectiveAbortReceived _ => {}
  | .queueFenceEntry _ _ => {}
  | .srtFlushDone => {}
  | .scrubDone _ => {}
  | .peerAccessAtHome _ => {}
  | .peerRefusalReceived => {}
  | .peerAckReceived => {}
  | .fabricWakeArrival _ _ _ => {}
  | .launchAppend _ _ => {}
  | .preEmption => {}
  | .contextRestore _ => {}
  | .quantumExpiry => {}
  | .deadlineMiss _ => {}
  | .harvestPlacement _ _ _ => {}
  | .harvestHeld _ => {}
  | .harvestRevocation _ => {}
  | .harvestCommit _ => {}
  | .heldRecordQueued _ _ => {}
  | .gload _ => {}
  | .gunload _ => {}
  | .launch _ => {}
  | .jcbnew _ => {}
  | .jcbfree _ => {}
  | .bufnew _ => {}
  | .bufrelDrop _ => {}
  | .bufrelRevoke _ => {}
  | .expwd _ => {}
  | .pteset _ => {}
  | .ctrrd _ => {}
  | .answerResume _ => {}
  | .answerSkip _ => {}
  | .answerAbort _ => {}
  | .gangswOut _ => {}
  | .gangswIn _ => {}
  | .gangswSize _ => {}
  | .qnew _ => {}
  | .qend _ => {}
  | .cutoffReached _ => {}
  | .sweepto _ _ _ => {}
  | .latePacketArrival _ => {}
  | .latecloseReached _ => {}
  | .readyReceived _ _ => {}
  | .reinjectionDrained _ => {}
  | .drainedReceived _ _ => {}
  | .uncorrectableError _ => {}
  | .contextFailure _ => {}
  | .gangfReceived _ _ _ _ _ => {}
  | .coreFailure _ _ => {}
  | .chipletFailure _ => {}
  | .secondTierDeviceDown _ _ => {}
  | .campionMismatch => {}
  | .packageReset _ => {}
  | .recovgo _ _ => {}
  | .domcfgEnable _ _ => {}
  | .domcfgRst _ _ => {}
  | .domainResetEnd _ => {}
  | .vfFlr _ => {}
  | .pfFlr => {}
  | .fportRetrain _ _ => {}
  | .registerWrite _ _ => {}
  | .doorbell _ _ => {}
  | .apertureAccess _ _ _ _ => {}
  | .hostLinkStateChange _ _ => {}
  | .flitReceived _ _ => {}
  | .portDown _ => {}
  | .timestampExchange _ _ => {}
  | .timestampLockLoss => {}
  | .powerCapStep _ => {}
  | .thermalCrossing _ _ => {}
  | .hread _ => {}
  | .elog => {}
  | .hflush _ => {}
  | .telem => {}
  | .pcapset _ => {}
  | .idkey => {}
  | .attest _ => {}
  | .minvup => {}
  | .unassignedOpcode _ _ => {}
  | .demandFetch _ => {}
  | .capabilityRequestAtHome _ => {}
  | .correctableError _ => {}
  | .powerLoss => {}
  | .portTrained _ => {}
  | .routeTableWrite _ _ => {}
  | .timestampSet _ => {}
  | .grandMasterChoice _ _ => {}
  | .responseRead => {}

/-- Cause 0x3 for a specifier its file refuses (R191, R192). -/
def Opnd.refused : Opnd → Option Nat
  | .one bit .s sp => if sp.extractLsb' 3 3 = 6 ∧ sp ≠ 0x30 ∧ sp ≠ 0x31 then some bit else none
  | .one bit .v sp =>
    if (sp.extractLsb' 3 3 = 6 ∧ sp ≠ 0x30 ∧ sp ≠ 0x31) ∨ 0x3C ≤ sp then some bit else none
  | .one bit .p sp => if 0x20 ≤ sp ∧ sp ≠ 0x31 then some bit else none
  | .one bit .t sp => if 0x20 ≤ sp then some bit else none
  | .group bit _ sp _ => if 0x20 ≤ sp then some bit else none
  | .queue bit vec sp => if sp < 0x38 ∨ (vec ∧ 0x3C ≤ sp) then some bit else none

/-- Cause 0x8 for a predicate index above 15 or a group beyond its file (R191, R192). -/
def Opnd.beyond : Opnd → Option Nat
  | .one bit .p sp => if 0x10 ≤ sp ∧ sp < 0x20 then some bit else none
  | .group bit _ sp k => if sp.toNat + k > 32 then some bit else none
  | _ => none

/-- The operand names a tile (cause 0x9 on a core without tiles, R96). -/
def Opnd.tile : Opnd → Option Nat
  | .one bit .t _ => some bit
  | _ => none

/-- The lowest offending field of one kind of check. -/
def firstBad (l : BitChecks) : Option Nat := ((l.filter fun p => !p.2).map (·.1)).min?

/-- The first failing static check, with its cause and BIT (R198, R199). -/
def staticCheck (i : Instr) : Option (BitVec 8 × Nat) :=
  let c := checks i
  match firstBad c.z with
  | some b => some (0x2, b)
  | none =>
  match firstBad c.e with
  | some b => some (0x7, b)
  | none =>
  match c.o.findSome? Opnd.refused with
  | some b => some (0x3, b)
  | none => (c.o.findSome? Opnd.beyond).map fun b => (0x8, b)

end Sys2Proof.Machine
end

