-- ==== Sys2Proof/Decode.lean ====
section
/-! DEFINITION. The decoder (R183-R187, R195, R200-R202), total on any bytes and rejecting by name, and after it the
encoder, written from the same layout tables. -/

namespace Sys2Proof
open Sys2Proof.Machine

/-- Why bytes are not a well-formed instruction. -/
inductive Reject where
  /-- Fewer bytes than the format's length (R183). -/
  | short
  /-- An unassigned opcode: ILLOP cause 0x1 (R202). -/
  | unassigned
  /-- A check of R198 fails: its ILLOP cause and the lowest bit of the offending field. -/
  | ill (cause : BitVec 8) (bit : Nat)
  deriving DecidableEq, Repr

/-- The fields of a W32 word (R185). -/
def unW32 (w : BitVec 32) : W32 :=
  { tok := fldv w 0 4, pred := fldv w 12 2, d := fldv w 14 6, a := fldv w 20 6, b := fldv w 26 6 }
/-- The opcode of a W32 word: op[6] at bit 4, op[5:0] at [11:6] (R185). -/
def opW32 (w : BitVec 32) : BitVec 7 := fldv w 4 1 ++ fldv w 6 6
/-- The fields of a C16 parcel (R195). -/
def unC16 (w : BitVec 16) : C16 := { tok := fldv w 0 4, n := fldv w 6 10 }
/-- The opcode of a W64 word (R186). -/
def opW64 (w : Word) : BitVec 8 := fldv w 6 8
/-- Layout XR (R187). -/
def unXR (w : Word) : XR :=
  { tok := fldv w 0 4, pred := fldv w 14 4, sense := fldv w 18 1, d := fldv w 19 6, a := fldv w 25 6,
    b := fldv w 31 6, c := fldv w 37 6, f := fldv w 43 5, m := fldv w 48 3, sa := fldv w 51 1, x := fldv w 52 12 }
/-- Layout XI (R187). -/
def unXI (w : Word) : XI :=
  { tok := fldv w 0 4, pred := fldv w 14 4, sense := fldv w 18 1, d := fldv w 19 6, a := fldv w 25 6,
    imm := fldv w 31 32, top := fldv w 63 1 }
/-- Layout XM (R187). -/
def unXM (w : Word) : XM :=
  { tok := fldv w 0 4, pred := fldv w 14 4, sense := fldv w 18 1, t := fldv w 19 6, a := fldv w 25 6,
    b := fldv w 31 6, wd := fldv w 37 3, am := fldv w 40 3, f := fldv w 43 5, m := fldv w 48 3,
    off := fldv w 51 13 }
/-- Layout XB (R187). -/
def unXB (w : Word) : XB :=
  { tok := fldv w 0 4, pred := fldv w 14 4, sense := fldv w 18 1, a := fldv w 19 6, b := fldv w 25 6,
    lc := fldv w 31 2, z := fldv w 33 3, off := fldv w 36 28 }
/-- Layout XE (R187). -/
def unXE (w : Word) : XE :=
  { tok := fldv w 0 4, pred := fldv w 14 4, sense := fldv w 18 1, d := fldv w 19 6, a := fldv w 25 6,
    b := fldv w 31 6, sw := fldv w 37 6, swe := fldv w 43 1, ss := fldv w 44 6, sse := fldv w 50 1,
    q := fldv w 51 3, f := fldv w 54 5, x := fldv w 59 5 }

/-- The instruction of a W32 opcode (R200); an opcode not listed is unassigned (R202). -/
noncomputable def ofW32 (op : BitVec 7) (f : W32) (w : Word) : Instr :=
  match op.toNat with
  | 0x01 => .add f
  | 0x02 => .sub f
  | 0x03 => .and f
  | 0x04 => .or f
  | 0x05 => .xor f
  | 0x06 => .andn f
  | 0x07 => .orn f
  | 0x08 => .sll f
  | 0x09 => .srl f
  | 0x0A => .sra f
  | 0x0B => .rol f
  | 0x0C => .min f
  | 0x0D => .max f
  | 0x0E => .minn f
  | 0x0F => .maxn f
  | 0x10 => .ceq f
  | 0x11 => .cne f
  | 0x12 => .clt f
  | 0x13 => .cltn f
  | 0x14 => .cle f
  | 0x15 => .clen f
  | 0x18 => .addi f
  | 0x19 => .andi f
  | 0x1A => .ori f
  | 0x1B => .xori f
  | 0x1C => .slli f
  | 0x1D => .srli f
  | 0x1E => .srai f
  | 0x1F => .roli f
  | 0x20 => .mul f
  | 0x21 => .mulh f
  | 0x22 => .mulhn f
  | 0x23 => .div f
  | 0x24 => .divn f
  | 0x25 => .rem f
  | 0x26 => .remn f
  | 0x28 => .mov f
  | 0x29 => .neg f
  | 0x2A => .not f
  | 0x2B => .clz f
  | 0x2C => .ctz f
  | 0x2D => .popc f
  | 0x2E => .sextw f
  | 0x2F => .zextw f
  | 0x30 => .nop f
  | 0x31 => .halt f
  | 0x32 => .bopush f
  | 0x33 => .jr f
  | 0x34 => .callr f
  | 0x40 => .vadd f
  | 0x41 => .vsub f
  | 0x42 => .vmul f
  | 0x43 => .vmulh f
  | 0x44 => .vmulhn f
  | 0x45 => .vmin f
  | 0x46 => .vmax f
  | 0x47 => .vminn f
  | 0x48 => .vmaxn f
  | 0x49 => .vand f
  | 0x4A => .vor f
  | 0x4B => .vxor f
  | 0x4C => .vandn f
  | 0x4D => .vsll f
  | 0x4E => .vsrl f
  | 0x4F => .vsra f
  | 0x50 => .vfadd f
  | 0x51 => .vfsub f
  | 0x52 => .vfmul f
  | 0x53 => .vfmin f
  | 0x54 => .vfmax f
  | 0x55 => .vfabs f
  | 0x56 => .vfneg f
  | 0x57 => .vmov f
  | 0x58 => .vbcast f
  | _ => .unassignedOpcode false w

/-- The instruction of a W64 opcode (R201); an opcode not listed is unassigned (R202). -/
noncomputable def ofW64 (op : BitVec 8) (w : Word) : Instr :=
  match op.toNat with
  | 0x01 => .li (unXI w)
  | 0x02 => .lih (unXI w)
  | 0x03 => .addl (unXI w)
  | 0x04 => .andl (unXI w)
  | 0x05 => .orl (unXI w)
  | 0x06 => .xorl (unXI w)
  | 0x07 => .mull (unXI w)
  | 0x08 => .mkptr (unXR w)
  | 0x09 => .sel (unXR w)
  | 0x0A => .bext (unXR w)
  | 0x0B => .bins (unXR w)
  | 0x10 => .br (unXB w)
  | 0x11 => .bz (unXB w)
  | 0x12 => .bnz (unXB w)
  | 0x13 => .bany (unXB w)
  | 0x14 => .ball (unXB w)
  | 0x15 => .bnone (unXB w)
  | 0x16 => .bbo (unXB w)
  | 0x17 => .bbon (unXB w)
  | 0x18 => .call (unXB w)
  | 0x19 => .loop (unXB w)
  | 0x1A => .bloop (unXB w)
  | 0x1B => .bdnz (unXB w)
  | 0x1C => .lcset (unXR w)
  | 0x1D => .lcget (unXR w)
  | 0x20 => .pand (unXR w)
  | 0x21 => .por (unXR w)
  | 0x22 => .pxor (unXR w)
  | 0x23 => .pandn (unXR w)
  | 0x24 => .pnot (unXR w)
  | 0x25 => .pfroms (unXR w)
  | 0x26 => .ptos (unXR w)
  | 0x27 => .pcnt (unXR w)
  | 0x28 => .pffs (unXR w)
  | 0x29 => .defer (unXR w)
  | 0x2A => .drain (unXR w)
  | 0x2B => .rejoin (unXR w)
  | 0x2C => .bopop (unXR w)
  | 0x2D => .rgnb (unXR w)
  | 0x2E => .rgne (unXR w)
  | 0x2F => .tokn (unXR w)
  | 0x30 => .qpeek (unXR w)
  | 0x31 => .vqpeek (unXR w)
  | 0x32 => .qlen (unXR w)
  | 0x33 => .eget (unXR w)
  | 0x34 => .ejoin (unXR w)
  | 0x35 => .etry (unXR w)
  | 0x36 => .eput (unXR w)
  | 0x37 => .eputs (unXR w)
  | 0x38 => .estat (unXR w)
  | 0x39 => .jraise (unXR w)
  | 0x3A => .jpost (unXR w)
  | 0x3B => .jstat (unXR w)
  | 0x40 => .ld (unXM w)
  | 0x41 => .st (unXM w)
  | 0x42 => .vld (unXM w)
  | 0x43 => .vst (unXM w)
  | 0x44 => .vldx (unXM w)
  | 0x45 => .vstx (unXM w)
  | 0x46 => .vldk (unXM w)
  | 0x47 => .vstk (unXM w)
  | 0x48 => .pf (unXM w)
  | 0x49 => .ipf (unXM w)
  | 0x4A => .icinv (unXM w)
  | 0x4B => .dcwb (unXM w)
  | 0x4C => .cbres (unXR w)
  | 0x4D => .cbcmt (unXR w)
  | 0x4E => .cbacq (unXR w)
  | 0x4F => .cbrel (unXR w)
  | 0x50 => .cpy (unXE w)
  | 0x51 => .cpywait (unXE w)
  | 0x52 => .cpystat (unXR w)
  | 0x53 => .capshr (unXR w)
  | 0x54 => .capxfr (unXR w)
  | 0x55 => .capdrop (unXR w)
  | 0x56 => .caprd (unXR w)
  | 0x57 => .capnar (unXR w)
  | 0x58 => .capexp (unXR w)
  | 0x59 => .capimp (unXR w)
  | 0x60 => .ldacq (unXM w)
  | 0x61 => .strel (unXM w)
  | 0x62 => .amo (unXM w)
  | 0x63 => .cas (unXM w)
  | 0x64 => .amof (unXM w)
  | 0x65 => .cupd (unXM w)
  | 0x66 => .vcupd (unXM w)
  | 0x67 => .vamo (unXM w)
  | 0x68 => .fence (unXR w)
  | 0x69 => .semsig (unXR w)
  | 0x6A => .semwait (unXR w)
  | 0x6B => .semget (unXR w)
  | 0x6C => .barinit (unXR w)
  | 0x6D => .bararr (unXR w)
  | 0x6E => .barwait (unXR w)
  | 0x6F => .bartest (unXR w)
  | 0x70 => .waitw (unXM w)
  | 0x71 => .waitwt (unXM w)
  | 0x72 => .wake (unXM w)
  | 0x73 => .gts (unXR w)
  | 0x78 => .crr (unXR w)
  | 0x79 => .crw (unXR w)
  | 0x7A => .disc (unXR w)
  | 0x7B => .lend (unXR w)
  | 0x7C => .reclaim (unXR w)
  | 0x80 => .vfma (unXR w)
  | 0x81 => .vfms (unXR w)
  | 0x82 => .vfnma (unXR w)
  | 0x83 => .vfalu (unXR w)
  | 0x84 => .vfrcp (unXR w)
  | 0x85 => .vfrsq (unXR w)
  | 0x86 => .vfsqrt (unXR w)
  | 0x87 => .vfexp2 (unXR w)
  | 0x88 => .vflog2 (unXR w)
  | 0x89 => .vfsin (unXR w)
  | 0x8A => .vfcos (unXR w)
  | 0x8B => .vcmp (unXR w)
  | 0x8C => .vfcmp (unXR w)
  | 0x8D => .vsel (unXR w)
  | 0x8E => .viota (unXR w)
  | 0x90 => .vcvt (unXR w)
  | 0x91 => .vcvtb (unXR w)
  | 0x92 => .vcvti (unXR w)
  | 0x93 => .srseed (unXR w)
  | 0x94 => .vperm (unXR w)
  | 0x95 => .vperm2 (unXR w)
  | 0x96 => .vrot (unXR w)
  | 0x97 => .vtrn (unXR w)
  | 0x98 => .vcompress (unXR w)
  | 0x99 => .vexpand (unXR w)
  | 0x9A => .vext (unXR w)
  | 0x9B => .vins (unXR w)
  | 0x9C => .bfly2 (unXR w)
  | 0x9D => .bfly4 (unXR w)
  | 0x9E => .twmul (unXR w)
  | 0x9F => .twgen (unXR w)
  | 0xA0 => .vredadd (unXR w)
  | 0xA1 => .vredmin (unXR w)
  | 0xA2 => .vredmax (unXR w)
  | 0xA3 => .vfredadd (unXR w)
  | 0xA4 => .vfredmin (unXR w)
  | 0xA5 => .vfredmax (unXR w)
  | 0xB0 => .srtkey (unXR w)
  | 0xB1 => .srtld (unXR w)
  | 0xB2 => .srtsort (unXR w)
  | 0xB3 => .srtmrg (unXR w)
  | 0xB4 => .srttopk (unXR w)
  | 0xB5 => .srtseg (unXR w)
  | 0xB6 => .srtthr (unXR w)
  | 0xB7 => .srtdedup (unXR w)
  | 0xB8 => .srtst (unXR w)
  | 0xB9 => .srtflush (unXR w)
  | 0xBA => .srtstat (unXR w)
  | 0xBB => .srtwait (unXR w)
  | 0xC0 => .mnset (unXR w)
  | 0xC1 => .mnget (unXR w)
  | 0xC2 => .mgo (unXE w)
  | 0xC3 => .mwait (unXR w)
  | 0xC4 => .mstat (unXR w)
  | 0xC5 => .mshadow (unXR w)
  | 0xC6 => .mscl (unXR w)
  | 0xC7 => .mbase (unXR w)
  | 0xC8 => .mring (unXR w)
  | 0xC9 => .macz (unXR w)
  | 0xCA => .macld (unXR w)
  | 0xCB => .macst (unXR w)
  | 0xCC => .macadd (unXR w)
  | 0xCD => .maccvt (unXR w)
  | 0xCE => .mmt (unXR w)
  | 0xCF => .mmts (unXR w)
  | 0xD0 => .csrset (unXR w)
  | 0xD1 => .csrgo (unXE w)
  | 0xD2 => .csrwait (unXR w)
  | 0xD3 => .csrstat (unXR w)
  | 0xD4 => .csrgath (unXR w)
  | 0xD5 => .csrmm (unXR w)
  | 0xD6 => .csrcnt (unXR w)
  | 0xD7 => .csrrst (unXR w)
  | 0xD8 => .xfpost (unXE w)
  | 0xD9 => .xfwait (unXE w)
  | 0xDA => .xfstat (unXE w)
  | 0xDB => .colpost (unXE w)
  | 0xDC => .colwait (unXE w)
  | 0xDD => .colstat (unXE w)
  | 0xDE => .qfence (unXE w)
  | 0xDF => .badrd (unXR w)
  | _ => .unassignedOpcode true w

/-- The length that bits [5:4] of the first parcel decide (R183). -/
def lenOfParcel (p : BitVec 2) : Nat := if p = 3 then 2 else if p = 2 then 8 else 4

/-- Any 64 bits starting at an instruction's first byte, as the instruction they hold and its length (R183). -/
noncomputable def decodeWord (w : Word) : Instr × Nat :=
  let n := lenOfParcel (fldv w 4 2)
  if n = 2 then (.cx (unC16 (fldv w 0 16)), 2)
  else if n = 8 then (ofW64 (opW64 w) w, 8)
  else (ofW32 (opW32 (fldv w 0 32)) (unW32 (fldv w 0 32)) ((fldv w 0 32).zeroExtend 64), 4)

/-- The instruction at the head of a byte stream and the bytes after it; none when bytes are missing. -/
noncomputable def decodeRaw (bs : List Byte) : Option (Instr × List Byte) :=
  match bs with
  | b0 :: _ :: _ =>
    let n := lenOfParcel (fldv b0 4 2)
    if bs.length < n then none
    else some ((decodeWord (ofBytes 64 (bs.take n))).1, bs.drop n)
  | _ => none

/-- A well-formed instruction, or the name of what is wrong with it (R198). -/
noncomputable def checked (i : Instr) : Except Reject Instr :=
  match i with
  | .unassignedOpcode _ _ => .error .unassigned
  | i => match staticCheck i with
    | some (c, b) => .error (.ill c b)
    | none => .ok i

/-- The decoder: the well-formed instruction at the head of the bytes and the rest, or a rejection by name. -/
noncomputable def decode (bs : List Byte) : Except Reject (Instr × List Byte) :=
  match decodeRaw bs with
  | none => .error .short
  | some (i, rest) => match checked i with
    | .error r => .error r
    | .ok i => .ok (i, rest)

/-- What the decoder reads from an instruction whose bits are w, numbered as the opcode table numbers them: its
words are stored lowest byte first (R2), and every bit above nbits is 0. -/
noncomputable def decodeTableWord (nbits w : Nat) : Option Instr :=
  match decode (leBytes 8 (w % 2 ^ nbits)) with
  | .ok (i, _) => some i
  | .error _ => none

/-- A W32 word from its opcode and fields (R185). -/
def encW32 (op : BitVec 7) (f : W32) : BitVec 32 :=
  f.b ++ f.a ++ f.d ++ f.pred ++ fldv op 0 6 ++ (0 : BitVec 1) ++ fldv op 6 1 ++ f.tok
/-- A C16 parcel (R195). -/
def encC16 (f : C16) : BitVec 16 := f.n ++ (3 : BitVec 2) ++ f.tok
/-- A W64 word of layout XR (R186, R187). -/
def encXR (op : BitVec 8) (f : XR) : Word :=
  f.x ++ f.sa ++ f.m ++ f.f ++ f.c ++ f.b ++ f.a ++ f.d ++ f.sense ++ f.pred ++ op ++ (2 : BitVec 2) ++ f.tok
/-- Layout XI. -/
def encXI (op : BitVec 8) (f : XI) : Word :=
  f.top ++ f.imm ++ f.a ++ f.d ++ f.sense ++ f.pred ++ op ++ (2 : BitVec 2) ++ f.tok
/-- Layout XM. -/
def encXM (op : BitVec 8) (f : XM) : Word :=
  f.off ++ f.m ++ f.f ++ f.am ++ f.wd ++ f.b ++ f.a ++ f.t ++ f.sense ++ f.pred ++ op ++ (2 : BitVec 2) ++ f.tok
/-- Layout XB. -/
def encXB (op : BitVec 8) (f : XB) : Word :=
  f.off ++ f.z ++ f.lc ++ f.b ++ f.a ++ f.sense ++ f.pred ++ op ++ (2 : BitVec 2) ++ f.tok
/-- Layout XE. -/
def encXE (op : BitVec 8) (f : XE) : Word :=
  f.x ++ f.f ++ f.q ++ f.sse ++ f.ss ++ f.swe ++ f.sw ++ f.b ++ f.a ++ f.d ++ f.sense ++ f.pred ++ op ++
    (2 : BitVec 2) ++ f.tok

/-- The word of a layout's fields, zero-extended to 64 bits; 0 for an event, which has no encoding. -/
def wordOf (sh : Machine.Shape) : Word :=
  match sh with
  | .w32 op f => (encW32 op f).zeroExtend 64
  | .c16 f => (encC16 f).zeroExtend 64
  | .xr op f => encXR op f
  | .xi op f => encXI op f
  | .xm op f => encXM op f
  | .xb op f => encXB op f
  | .xe op f => encXE op f
  | .bad _ w => w
  | .event => 0

/-- The word of an instruction. -/
def encodeWord (i : Instr) : Word := wordOf (shape i)

/-- The bytes of an instruction, in the order in which the machine stores them (R2, R183). -/
def encode (i : Instr) : List Byte := leBytes (lenOf i) (encodeWord i).toNat

/-- The row is an instruction with an encoding of its own: neither an event nor an unassigned opcode. -/
def encodable (i : Instr) : Bool :=
  match shape i with
  | .bad _ _ => false
  | .event => false
  | _ => true

end Sys2Proof
end

