-- ==== Sys2Proof/Config.lean ====
section
/-! DEFINITION. What the spec leaves open, as constants without a body: no proof can see their values. The step
applies them to the counters `tick` and `fresh` of the state, or to operands (log entries 4 to 8). -/

namespace Sys2Proof.Config
open Sys2Proof

/-- The sequencer that issues next, in SEQ code order (R35 leaves the clock-by-clock order to timing). -/
opaque schedule : Nat → BitVec 2
/-- The context that comes into focus next; beyond the list, the focus stays. -/
opaque pick : Nat → Nat
/-- The events that have arrived when a step ends. -/
opaque arrivals : Nat → List Instr
/-- The domain and the worker core, 0 to 5, that takes a packet of it when a step ends (R383, R399). -/
opaque worker : Nat → Option (BitVec 4 × Nat)
/-- What the host has written to its own memory, the host windows, when a step ends: bus address, byte. -/
opaque hostWrites : Nat → List (Nat × BitVec 8)
/-- Nanoseconds by which gts() advances in a step (R437). -/
opaque gtsStep : Nat → Nat
/-- Clocks that pass in a step (R63), and what they add to a timing counter of a context (R363). -/
opaque clocks : Nat → Nat
opaque charged : Nat → CtxId → Nat → Nat
/-- The fabric port that sends a data flit when a step ends (R433). -/
opaque link : Nat → Option (BitVec 7)
/-- A byte that the spec leaves open (what another package answers, R89; a signature, R451). -/
opaque freeByte : Nat → Nat → BitVec 8
/-- A choice that the spec leaves open (a peer's refusal, R90). -/
opaque freeBool : Nat → Bool
/-- A number that the spec leaves open. -/
opaque freeNat : Nat → Nat
/-- Result of an approximation form for an operand: opcode, element width, operand bits (R279). -/
opaque approx : Nat → Nat → Nat → Nat
/-- Byte of the vendor public key in the ROM (R439). -/
opaque vendorKey : Nat → BitVec 8
/-- The bytes that the boot ROM finds in module flash (R438). -/
opaque image : Nat → List (BitVec 8)
/-- The private half of the device identity key: chain starts by one-time key and chain, what randomizers are made from, and the seed
(R442, R451). -/
opaque idChain : Nat → Nat → BitVec 256
opaque idPrf : BitVec 256
opaque idSeed : BitVec 256
/-- What the host has written to the first 16 MiB of PF BAR2 when a step ends: offset, byte (R440). -/
opaque bar2Writes : Nat → List (Nat × BitVec 8)
/-- A request of the host that needs ATS, PRI, PASID, IDE or TDISP has come when a step ends (R425). -/
opaque extraRequest : Nat → Bool
/-- A private write to the I3C target when a step ends (R442). -/
opaque privateWrite : Nat → Option (List (BitVec 8))
/-- A firmware core, the Campion pair or a worker, and the instruction word that it issues when a step ends (R383). -/
opaque firmwareWord : Nat → Option (Fin 7 × BitVec 64)
/-- The socket of another package that holds a byte of it, by fabric number and pointer; the virtual channel of a kind of
request; the number that fixes a flow's port; the header flit of a packet (R16, R435, R453). -/
opaque peerSocket : BitVec 12 → BitVec 64 → BitVec 6
opaque channel : Nat → BitVec 3
opaque flowHash : BitVec 6 → Option (BitVec 6) → BitVec 3 → BitVec 32 → Nat
opaque headerFlit : Nat → BitVec 256
/-- What a control flit holds (R433). -/
opaque controlBits : Nat → BitVec 1792
/-- What the firmware writes at boot: the package's fabric number and its route table (R418, R435). -/
opaque bootPkgno : Nat → BitVec 12
opaque bootRoute : Nat → List (Nat × List (BitVec 7))
/-- Bytes of spill buffer that a switch-out of these contexts needs at a moment (R402, R406). -/
opaque spillBytes : Nat → List CtxId → Nat
/-- Plate packets that stand in the routers and port buffers when a sweep begins (R404, R407). -/
opaque standing : Nat → List NetPkt
/-- What a sweep is at when it passes its bound: a router, or a fabric port, and its number (R409). -/
opaque sweeping : Nat → Bool × Nat
/-- How many fabric ports a sweep has read out when a packet arrives (R403). -/
opaque portsSwept : Nat → Nat

/-- Latency class of a class and chiplet stepping, LAT, RPT and L1LAT of a table entry, before the limits of R378 and R379
are put on them. -/
opaque lclass : Nat → Nat → Nat
opaque lat : Nat → Nat → Nat → Nat
opaque rpt : Nat → Nat → Nat → Nat
opaque l1lat : Nat → Nat → Nat → Nat

end Sys2Proof.Config
end

