-- ==== Sys2Proof/Machine/State.lean ====
section
/-! DEFINITION. What the machine holds: one package, with the context that issues next in focus, as plain data.
INVENTORY.md lists every field with its rule and its reset value. -/

namespace Sys2Proof.Machine
open Sys2Proof

/-- Data by key in one canonical form: keys strictly rising, no entry equal to what an unlisted key reads as. -/
abbrev Sparse (α : Type) := List (Nat × α)

/-- Bytes by address, in the same form; an unlisted byte reads as 0 (log entry 3). -/
abbrev Memory := List Host.Cell

/-- Why a step can stop with a fault. -/
inductive Fault where
  /-- Raised by `step` when the context in focus does not stand on the core in focus, a state that no run reaches.
  Safe: the model stops, and no statement about a next state speaks of it. -/
  | focus
  deriving DecidableEq, Repr

/-- Why a step can be refused. -/
inductive Refusal where
  /-- An instruction that has no meaning yet, by its mnemonic. Raised by the dispatcher only. Safe. -/
  | notModelled (mnemonic : String)
  deriving DecidableEq, Repr

/-- A queue entry. One popped inside an open region keeps its place (R118, R232); `mark` holds
the region that popped it. -/
structure QEnt (α : Type) where
  val : α
  mark : Option (BitVec 12) := none
  deriving DecidableEq, Repr

/-- One deferral-queue entry (R49). -/
structure DEnt where
  val : BitVec 128
  lane : BitVec 6
  path : BitVec 4
  nval : BitVec 2
  deriving DecidableEq, Repr

/-- The storages an access can reach: the scratchpad of the core in focus, carved ways of the MEM LLCs, host memory by bus
address, translated memory, another package (R85, R109, R111, R429). -/
inductive Space where
  | spad
  | carve
  | host
  | phys
  | peer
  deriving DecidableEq, Repr

/-- An edge of a loaded graph, by graph and edge number. -/
structure EdgeId where
  graph : BitVec 32
  num : BitVec 16
  deriving DecidableEq, Repr

/-- An edge push as formed: buffered in a harvest region, or waiting for its slot (R57, R237). -/
structure PushBuf where
  edge : EdgeId
  bits : BitVec 512
  /-- Source slots that the commit empties, and the shares counted at issue (R237). -/
  xfer : List (BitVec 8)
  shares : List (BitVec 128)
  deriving DecidableEq, Repr

/-- What a sequencer's next instruction waits for (R38, R63). -/
inductive Wait where
  | none
  /-- Internal couplings, with the cause codes of R63. -/
  | tokPred | tokSucc | dqEmpty | dqFull | boEmpty | boFull
  /-- External events (R63). -/
  | edge (graph : BitVec 32) (num : BitVec 16) (push : Bool)
  /-- An address wait on a word of `w` bytes while it equals `b`, or is below it when `lt`; with the deadline of
  waitwt (R263). -/
  | addr (sp : Space) (a w : Nat) (b : Word) (lt : Bool) (deadline : Option Word)
  | page (va : BitVec 52)
  /-- An address wait without a hardware wait slot at its home, whose slots are all taken (R121). -/
  | slot (home : BitVec 6)
  | sem | barrier | engine | memory | scrub
  /-- An increment of PEND that would pass 2^40 - 1 (R140). -/
  | pend
  /-- A wait at a region marker, neither internal nor external (R232). -/
  | marker
  deriving DecidableEq, Repr

/-- Whether a sequencer issues (R36, R55). -/
inductive SeqRun where
  | running
  /-- Halted, with the address of the halt (R63); `none` when it started halted (R366). -/
  | halted (at_ : Option (BitVec 52))
  /-- It raised a precise kind and waits for an answer (R55, R394). -/
  | faulted
  deriving DecidableEq, Repr

/-- One sequencer of a context (R33). -/
structure Seqr where
  pc : BitVec 52 := 0
  run : SeqRun := .halted none
  latch : Vec := 0
  lc : Vector (BitVec 32) 4 := Vector.replicate 4 0
  vrb : BitVec 4 := 0
  prb : BitVec 3 := 0
  /-- Signals held because their link stands too high: link number in TOKCNT order, amount (R39, R230). -/
  held : List (Fin 8 × Nat) := []
  wait : Wait := .none
  /-- Region whose rgnb was executed and whose rgne was not (R231). -/
  rgn : Option (BitVec 12) := none
  /-- It has executed its rgnb and the region has not opened; it has executed its rgne and the region has not
  committed (R232). -/
  atB : Bool := false
  atE : Bool := false
  /-- Line of the instruction it issued last (R333). -/
  fetch : Option (BitVec 46) := none
  /-- The deadline of its timed wait has passed (R263). -/
  timed : Bool := false
  /-- The value at the evaluation that ended its address wait (R263). -/
  woke : Option Word := none
  /-- The edge push that waits for a slot, with the shares it has made (R237). -/
  pushing : Option PushBuf := none
  /-- Its instruction has issued, in an active slot, and waits for what it needs (R35, R237, R263; log entry 55). -/
  sent : Bool := false
  /-- An answer of skip: its next instruction completes as an inactive slot (R394). -/
  skip : Bool := false
  /-- Its position among the waiters of its home, kept while it stands without a wait slot (R121). -/
  wpos : Option Nat := none
  /-- Domain virtual address of the word that it waits for, where the word is translated (R121). -/
  wva : Option (BitVec 52) := none
  /-- The scratchpad and LLC banks that the shares of its last access use: memory code of R359 and bank (R347, R358). -/
  uses : List (Nat × Nat) := []
  deriving DecidableEq, Repr

/-- The four sequencers. -/
structure Seqs where
  ld : Seqr := {}
  ex : Seqr := {}
  st : Seqr := {}
  sc : Seqr := {}
  deriving DecidableEq, Repr

/-- The task a context runs (R75, R76). -/
structure Task where
  jcb : Option (BitVec 12)
  posted : Bool
  deriving DecidableEq, Repr

/-- A loaded buffer-table slot: its capability (R80), whether it is a template slot, whether it was installed by a
record or an instruction and so is dropped at task end (R81, R83). -/
structure Slot where
  cap : BitVec 128
  tmpl : Bool
  inst : Bool
  deriving DecidableEq, Repr

/-- A finished ticket: its completion code, POIS, and for a transform its bad chunks (R254, R301, R326). -/
structure TickRes where
  tk : Word
  code : BitVec 8
  pois : Bool := false
  nbad : Word := 0
  first : Word := BitVec.allOnes 64
  deriving DecidableEq, Repr

/-- One ticket family of a context (R252, R301). -/
structure Fam where
  last : Word := 0
  pending : List Word := []
  recent : List TickRes := []
  nerr : BitVec 32 := 0
  deriving DecidableEq, Repr

/-- A retained pair of the sort network (R294, R296). -/
structure SortEnt where
  key : BitVec 32
  val : BitVec 32
  seg : BitVec 32
  ins : Nat
  deriving DecidableEq, Repr

/-- Sort state (R294, R295). `held` stands in readout order once frozen. -/
structure SortSt where
  held : List SortEnt := []
  cur : Nat := 0
  busy : Bool := false
  frozen : Bool := false
  ovf : Bool := false
  err : Bool := false
  mode : BitVec 2 := 0
  kt : BitVec 2 := 0
  dir : Bool := false
  thr : BitVec 32 := 0
  thron : Bool := false
  dedup : Bool := false
  drop : BitVec 25 := 0
  capK : Nat := 4096
  segS : Nat := 1
  ins : Nat := 0
  deriving DecidableEq, Repr

/-- What a harvest region holds back besides stores and pushes until it commits (R57, R75, R78, R81): the automatic post of a
task that ended, the post of a join pop, the drop of a capability. -/
inductive HeldEnd where
  | auto (b : BitVec 12)
  | join (b : BitVec 12)
  | drop (cap : BitVec 128)
  deriving DecidableEq, Repr

/-- What a checkpoint records (R118, R171); for a harvest context also the task and the buffer table, which its
provisional pops change (R57). -/
structure Checkpoint where
  seqs : Seqs
  tok : Vector (BitVec 4) 8
  q : Vector (List (QEnt Word)) 8
  vq : Vector (List (QEnt Vec)) 4
  bo : List (QEnt Bool)
  srs : Vector (BitVec 32) 64
  task : Option Task := none
  table : Sparse (Option Slot) := []
  deriving DecidableEq, Repr

/-- An open idempotent region (R118, R119, R232). -/
structure OpenRgn where
  num : BitVec 12
  mask : BitVec 4
  chk : Checkpoint
  dirty : Bool := false
  deriving DecidableEq, Repr

/-- A 64-byte block of the harvest store buffer (R57): its storage and block number, bytes, byte mask; of another package's
buffer the pointer that it was first written through, and the package (R89). -/
structure SbEnt where
  sp : Space
  block : Nat
  data : BitVec 512
  mask : BitVec 64
  ptr : Word := 0
  peer : BitVec 12 := 0
  deriving DecidableEq, Repr

/-- A range in bytes of a scratchpad. -/
structure Range where
  lo : Nat
  len : Nat
  deriving DecidableEq, Repr

/-- What a bind gives a context (R365-R371): its node, its image's tables and its entry points. -/
structure Bind where
  dom : BitVec 4 := 0
  graph : BitVec 32 := 0
  node : BitVec 16 := 0
  stage : BitVec 16 := 0
  job : BitVec 32 := 0
  crit : Bool := false
  code : BitVec 52 := 0
  body : BitVec 32 := 0
  inE : List (BitVec 16) := []
  outE : List (BitVec 16) := []
  strict : Bool := false
  dfirst : Nat := 0
  dcount : Nat := 0
  spm : List Range := []
  lend : List Range := []
  tmpl : List (BitVec 8 × BitVec 128) := []
  rgns : List (BitVec 12 × BitVec 4) := []
  tfirst : Nat := 0
  tcount : Nat := 0
  cbd : BitVec 32 := 0
  ent : List (BitVec 32) := []
  deriving DecidableEq, Repr

/-- The states of a context (R55). -/
inductive CtxState where
  | idle | run | sleep | parked | faulted | done
  deriving DecidableEq, Repr

/-- A copy record as accepted, with the bank formats sampled (R251, R252, R100). -/
structure CopyRec where
  src : Word
  dst : Word
  len : BitVec 32
  rows : BitVec 32
  sstr : BitVec 32
  dstr : BitVec 32
  cb : Bool
  fmts : Vector (BitVec 9) 64
  deriving DecidableEq, Repr

/-- What an engine entry does (R143). -/
inductive EngBody where
  | copy (r : CopyRec)
  | nest (tbl : Vector Word 32) (rbase : Nat) (rsize : Nat) (fa fb : BitVec 5)
  | macz (t : Nat)
  | macld (t : Nat) (b c : Nat) (f : BitVec 5)
  | macst (t : Nat) (b c : Nat) (f : BitVec 5) (rm : BitVec 3) (sa : Bool)
  | macadd (t u : Nat) (rm : BitVec 3) (sa int : Bool)
  | maccvt (t : Nat) (b c : Nat) (f : BitVec 5) (rm : BitVec 3) (sa : Bool)
  | scale (sp sw n : Nat) (out : Bool)
  | step (t : Nat) (tbl : Vector Word 32) (a b : Nat) (bexa bexb : BitVec 8) (zi st : Bool) (fa fb : BitVec 5)
  | gath (a : Nat) (c : Word) (csr : Vector Word 6)
  | csrmm (t : Nat) (b c : Word) (zi : Bool) (csr : Vector Word 6) (fd : BitVec 5)
  | csrgo (csr : Vector Word 6) (fd : BitVec 5)
  | xform (r : Vector Word 6) (fmts : Vector (BitVec 9) 64)
  | coll (r : Vector Word 6)
  | fence (mask : BitVec 8) (sock : BitVec 6)
  deriving DecidableEq, Repr

/-- An entry of an engine queue (R143-R146), with the number under which it was accepted and its progress. -/
structure EngEnt where
  num : Nat
  own : CtxId
  tk : Word
  sw : Option (BitVec 6)
  ss : Option (BitVec 6)
  body : EngBody
  /-- It has left its semaphore and begun. -/
  waited : Bool := false
  /-- Steps made: pieces of a copy, steps of a nest, rows of a tile or a gather. -/
  prog : Nat := 0
  /-- Offset of the circular-buffer slot that a copy holds reserved. -/
  cbslot : Option Nat := none
  /-- What it sets ENGFLG to when it completes (R182). -/
  flags : BitVec 7 := 0
  /-- It carried poison to what it wrote; with the first poisoned row's tile, row and pointer and their count (R312). -/
  pois : Option (BitVec 8 × Nat × Word × Nat) := none
  /-- The completion code that it will set once its writes and its signal are done. -/
  fin : Option (BitVec 8) := none
  /-- Bytes sent to another package. -/
  sent : Nat := 0
  /-- A transform past its reads: output to write, bad chunks, CRC, bytes not written (R321-R324). -/
  out : List Byte := []
  bads : List Nat := []
  crc : BitVec 32 := 0
  tail : Nat := 0
  /-- A collective's packets: those that wait to be sent, each for a package, and the numbers of those sent (R328). -/
  outq : List (BitVec 12 × List Byte) := []
  pkts : List Nat := []
  deriving DecidableEq, Repr

/-- One context (R31-R63, R91, R163-R182, R301-R319, R363). -/
structure Ctx where
  id : CtxId
  cst : CtxState := .idle
  /-- The state a parked context left (R55). -/
  was : CtxState := .idle
  bnd : Bind := {}
  s : Vector Word 32 := Vector.replicate 32 0
  v : Vector Vec 32 := Vector.replicate 32 0
  /-- p0 is stored as all ones and never written (R47). -/
  p : Vector Mask 16 := (Vector.replicate 16 0).set 0 (BitVec.allOnes 64)
  o : Vector Vec 16 := Vector.replicate 16 0
  seqs : Seqs := {}
  tok : Vector (BitVec 4) 8 := Vector.replicate 8 0
  q : Vector (List (QEnt Word)) 8 := Vector.replicate 8 []
  vq : Vector (List (QEnt Vec)) 4 := Vector.replicate 4 []
  bo : List (QEnt Bool) := []
  defq : List DEnt := []
  dmask : Mask := 0
  rgns : List OpenRgn := []
  fpctl : BitVec 3 := 0
  fpflg : BitVec 7 := 0
  engflg : BitVec 7 := 0
  cesr : BitVec 32 := 0x5D2E9A63
  srs : Vector (BitVec 32) 64 := seedSrs 0
  pend : BitVec 40 := 0
  table : Sparse (Option Slot) := []
  task : Option Task := none
  dlk : BitVec 20 := 0
  cpy : Fam := {}
  mat : Fam := {}
  spa : Fam := {}
  xf : Fam := {}
  col : Fam := {}
  nest : Vector Word 32 := Vector.replicate 32 0
  rbase : BitVec 5 := 0
  rsize : BitVec 6 := 1
  /-- The shadow words of the entry accepted last, and its accept number (R311). -/
  shadow : Vector Word 3 := Vector.replicate 3 0
  shnum : Nat := 0
  csr : Vector Word 6 := Vector.replicate 6 0
  csrc : Vector Word 4 := Vector.replicate 4 0
  srt : SortSt := {}
  sbuf : List SbEnt := []
  pushes : List PushBuf := []
  ends : List HeldEnd := []
  /-- Entries taken out of the matrix (1) and gather (2) queues by a pre-emption (R302). -/
  ents : List (Nat × EngEnt) := []
  vblk : Vector (BitVec 32) 16 := Vector.replicate 16 0
  /-- Its lent and unscrubbed ranges while it is not resident (R61, R266). -/
  lentSv : BitVec 16 := 0
  scrubSv : BitVec 16 := 0
  deriving DecidableEq, Repr

/-- A line of an instruction cache (R105), by domain and virtual line. -/
structure ILine where
  dom : BitVec 4
  line : BitVec 46
  data : BitVec 512
  deriving DecidableEq, Repr

/-- An outstanding instruction fill (R333, R334): the bytes the walk found, or a prefetch. -/
structure IFill where
  dom : BitVec 4
  line : BitVec 46
  pa : BitVec 52
  deriving DecidableEq, Repr

/-- A TLB entry: page, translation, leaf entry, hotness counts (R114, R123). -/
structure TlbEnt where
  dom : BitVec 4
  va : BitVec 52
  bits : Nat
  pa : BitVec 52
  ord : BitVec 2
  layout : BitVec 4
  leaf : BitVec 52
  acc : BitVec 16
  wr : BitVec 16
  /-- The frame tags of the page, by frame number (R115). -/
  tags : Sparse (BitVec 4) := []
  deriving DecidableEq, Repr

/-- An update-only line (R107). -/
structure UpdLine where
  line : Nat
  op : BitVec 3
  wide : Bool
  mask : BitVec 16
  part : BitVec 512
  deriving DecidableEq, Repr

/-- A circular-buffer descriptor with its state; reserved and acquired slots are counted apart (R102-R104, R250). -/
structure Cbd where
  base : BitVec 24 := 0
  log2sz : BitVec 4 := 0
  nslotm1 : BitVec 8 := 0
  en : Bool := false
  free : Nat := 0
  fill : Nat := 0
  resv : Nat := 0
  /-- Slots that the copy engine holds reserved. -/
  eresv : Nat := 0
  acq : Nat := 0
  head : Nat := 0
  tail : Nat := 0
  deriving DecidableEq, Repr

/-- The lease states of a reserve bank (R414). -/
inductive Lease where
  | vacant | parked | held | revoking
  deriving DecidableEq, Repr

/-- One partition of a core: its reserve bank's lease and the owner's lent ranges (R266, R269, R414). -/
structure Part where
  lease : Lease := .vacant
  restart : Bool := false
  lent : BitVec 16 := 0
  scrub : BitVec 16 := 0
  deriving DecidableEq, Repr

/-- One that waits at a semaphore: to signal it, or for its count (R260). An engine entry is known by its accept number. -/
structure SemWait where
  sem : BitVec 6
  signal : Bool
  who : Sum (CtxId × SeqId) Nat
  deriving DecidableEq, Repr

/-- One compute core (R17, R96-R105, R194, R260, R315). -/
structure Core where
  sock : BitVec 6
  num : BitVec 4
  /-- It works now (R443, R444). -/
  live : Bool := true
  spad : Memory := []
  spois : Sparse Bool := []
  spfmt : Vector (BitVec 9) 64 := Vector.replicate 64 0
  cbd : Vector Cbd 32 := Vector.replicate 32 {}
  sem : Vector (BitVec 16) 64 := Vector.replicate 64 0
  /-- Those that have reached the semaphores and wait, in the order in which they came (R260). -/
  semq : List SemWait := []
  dict0 : Sparse Word := []
  dict1 : Sparse Word := []
  icache : List ILine := []
  fills : List IFill := []
  tlb : List TlbEnt := []
  uol : List UpdLine := []
  copyq : List EngEnt := []
  matq : List EngEnt := []
  gathq : List EngEnt := []
  colq : List EngEnt := []
  tiles : Sparse (BitVec 32) := []
  tpois : Sparse Bool := []
  scale : Sparse (BitVec 32) := []
  parts : Vector Part 8 := Vector.replicate 8 {}
  deriving DecidableEq, Repr

/-- A registry entry (R79). -/
structure RegEnt where
  name : BitVec 32
  gen : BitVec 16
  live : Bool
  retired : Bool
  refcnt : BitVec 32
  limit : BitVec 52
  vbase : Word
  /-- The runtime still holds its reference (R388). -/
  rtref : Bool
  deriving DecidableEq, Repr

/-- An export recorded at its home (R256). -/
structure ExportRec where
  key : Word
  name : BitVec 32
  gen : BitVec 16
  rights : BitVec 7
  limit : BitVec 52
  used : Bool
  deriving DecidableEq, Repr

/-- What a record that awaits an answer holds still (R394). -/
inductive Raiser where
  | ctx (c : CtxId) (q : SeqId) (kind : BitVec 8)
  | packet (d : BitVec 4) (q : BitVec 6)
  | index (d : BitVec 4) (q : BitVec 6)
  deriving DecidableEq, Repr

/-- A submission queue (R385, R386). -/
structure SubQ where
  num : BitVec 6
  n : Nat
  m : Nat
  pkt : Word
  stat : Word
  exq : Word
  ctl : Word
  tickets : BitVec 16
  pass : Nat := 0
  /-- A worker could take its head packet when the workers last looked (R397, R399). -/
  elig : Bool := false
  sqtail : BitVec 32 := 0
  sqhead : BitVec 32 := 0
  sttail : BitVec 32 := 0
  sthead : BitVec 32 := 0
  eqtail : BitVec 32 := 0
  eqhead : BitVec 32 := 0
  lost : BitVec 16 := 0
  /-- ARBSEQ of the record that holds the queue (R394). -/
  hold : Option Word := none
  /-- Records that await an answer and found the exception queue full (R394), oldest first. -/
  late : List (BitVec 512 × Raiser) := []
  /-- The packet at SQHEAD is taken and stands in the inbox or waits for its effect. -/
  taken : Bool := false
  ending : Bool := false
  /-- A doorbell came while the queue was held (R394, R431). -/
  bell : Bool := false
  /-- Status entries that wait for room in the status ring (R387). -/
  stwait : List (BitVec 256) := []
  deriving DecidableEq, Repr

/-- The page-request queue of a domain (R386). -/
structure PageQ where
  num : BitVec 6
  n : Nat
  ring : Word
  ctl : Word
  eqtail : BitVec 32 := 0
  eqhead : BitVec 32 := 0
  waiting : List (BitVec 52) := []
  deriving DecidableEq, Repr

/-- A slot of an edge ring between head and tail (R68-R70). -/
inductive ESlot where
  | reserved | published
  | held (c : CtxId)
  | behind
  deriving DecidableEq, Repr

/-- A loaded edge with its queue state (R67, R68). -/
structure Edge where
  num : BitVec 16
  src : BitVec 16
  dst : BitVec 16
  log2d : Nat
  ring : BitVec 60
  head : Nat := 0
  slots : List ESlot := []
  popped : Nat := 0
  deriving DecidableEq, Repr

/-- A launch and what completes it (R390, R398). -/
structure Launch where
  graph : BitVec 32
  edge : BitVec 16
  k : Nat
  deadline : Word
  dljcb : BitVec 16
  queue : BitVec 6
  tag : BitVec 32
  /-- Number of pops of the edge at which all K records have been popped. -/
  upto : Nat
  /-- It has passed its checks and waits for room on its edge (R71). -/
  waits : Bool := false
  missed : Bool := false
  done : Bool := false
  deriving DecidableEq, Repr

/-- A loaded graph (R65-R67). -/
structure Graph where
  id : BitVec 32
  job : BitVec 32
  queue : BitVec 6
  code : BitVec 52
  nodes : List (BitVec 512)
  edges : List Edge
  launches : List Launch := []
  deriving DecidableEq, Repr

/-- One isolation domain (R79, R109, R256, R386, R418, R427, R428). -/
structure Dom where
  cfg : Vector Word 8 := Vector.replicate 8 0
  host : Vector Word 4 := Vector.replicate 4 0
  q0 : Vector Word 8 := Vector.replicate 8 0
  /-- Cores the domain owns, one mask for each socket, and its carve steps, both read at enable. -/
  cores : Vector (BitVec 16) 64 := Vector.replicate 64 0
  steps : List (BitVec 9) := []
  reg : List RegEnt := []
  exps : List ExportRec := []
  queues : List SubQ := []
  pageq : Option PageQ := none
  graphs : List Graph := []
  deriving DecidableEq, Repr

/-- A job control block (R76). -/
structure Jcb where
  expect : BitVec 48
  count : BitVec 48
  job : BitVec 32
  dom : BitVec 4
  done : Bool
  donegts : Word
  wake : Word
  queue : BitVec 6
  deriving DecidableEq, Repr

/-- A bind record of the slot table (R395), by row and position. -/
structure BindRec where
  row : Nat
  pos : BitVec 2
  fb : Bool
  unm : Bool
  crit : Bool
  res : Bool
  dom : BitVec 4
  pol : BitVec 2
  node : BitVec 16
  job : BitVec 32
  graph : BitVec 32
  body : BitVec 32
  code : Word
  tickets : BitVec 16
  pass : BitVec 48
  /-- It was eligible when dispatch last looked (R397). -/
  elig : Bool
  deriving DecidableEq, Repr

/-- A walk that waits on a monitor or in the overflow list (R117, R121). -/
structure Waiter where
  dom : BitVec 4
  va : BitVec 52
  ctx : Option (CtxId × SeqId)
  /-- The engine entry that waits here, by its accept number, and the context that posted it (R117). -/
  eng : Option (Nat × CtxId) := none
  /-- The access of another package that waits here, its exporting home (R89). -/
  peer : Option PeerReq := none
  deriving DecidableEq, Repr

/-- A page monitor: its 64-byte line and its waiters in the order in which they joined (R117). -/
structure Mon where
  line : Nat
  waiters : List Waiter
  deriving DecidableEq, Repr

/-- A peer write that has been sent and is not answered (R90, R140), oldest first: one packet, by its number (R453). -/
structure PeerOut where
  own : CtxId
  peer : BitVec 12
  ptr : Word
  bytes : Nat
  engine : Option (BitVec 8 × Word)
  pkt : Nat := 0
  /-- Its job, and whether a gang switch has taken its answer (R407, R410). -/
  job : BitVec 32 := 0
  answered : Bool := false
  /-- The record of its refusal, and the domain and queue that it goes to (R90, R454). -/
  rcd : BitVec 512 := 0
  dom : BitVec 4 := 0
  queue : BitVec 6 := 0
  deriving DecidableEq, Repr

/-- The states of a gang switch (R403): CHECK is passed within one step; `run` is a switch that has ended and still holds
harvest contexts without a bank (R410). -/
inductive GangState where
  | armed | sweep | save | out | restore | reinj | barrier | run
  deriving DecidableEq, Repr

/-- A switched job (R401-R412), with what its spill buffer holds and the records of its proof area. -/
structure Gang where
  job : BitVec 32
  dom : BitVec 4
  /-- The queue that submitted the OUT, and the one whose IN is under way. -/
  queue : BitVec 6
  inq : BitVec 6 := 0
  gst : GangState
  cutoff : Word
  proof : Nat
  spill : BitVec 32
  sweepEnd : Word := 0
  /-- The late bin has closed. -/
  closed : Bool := false
  /-- A first late packet, a first lost one has been reported (R408). -/
  late1 : Bool := false
  lost1 : Bool := false
  ctxs : List Ctx := []
  binds : List BindRec := []
  /-- The job's cores as they stood, and those whose kernels were all of the job. -/
  cores : List Core := []
  solo : List (BitVec 6 × BitVec 4) := []
  swept : List NetPkt := []
  lates : List NetPkt := []
  /-- Packages of the group, and those whose READY and DRAINED have come. -/
  members : List (BitVec 12) := []
  ready : List (BitVec 12) := []
  drained : List (BitVec 12) := []
  /-- Fabric ports whose receive buffers the sweep has read out (R404), and whether SWEEPTO has been reported (R409). -/
  passed : Nat := 0
  sweepto : Bool := false
  /-- A context of the job has failed here: neither READY nor DRAINED is sent (R412). -/
  failed : Bool := false
  deriving DecidableEq, Repr

/-- A plate flit on its way over a fabric link (R433): its virtual channel, whether it is the first of its packet, the header
content of its packet (R16), its 32 bytes; the domain of its job, and the model's own number of its packet. -/
structure LinkSlot where
  vc : BitVec 3
  first : Bool
  job : BitVec 32 := 0
  src : BitVec 6 := 0
  dst : BitVec 6 := 0
  seq : BitVec 8 := 0
  data : BitVec 256
  dom : BitVec 4 := 0
  pkt : Nat := 0
  deriving DecidableEq, Repr

/-- What a message between packages says (R329, R403, R412, R424). -/
inductive FabBody where
  | ready
  | drained
  | gangf (cause : BitVec 8) (place : BitVec 16) (orig : Word)
  | abort (tag : BitVec 32)
  deriving DecidableEq, Repr

/-- A message for another package, made for a job of a domain. -/
structure FabMsg where
  dst : BitVec 12
  dom : BitVec 4
  job : BitVec 32
  body : FabBody
  deriving DecidableEq, Repr

/-- A link flit that is sent and not acknowledged (R433): its bits, the plate flits that it carries, and the message of a control
flit. -/
structure LinkFlit where
  bits : BitVec 2048
  slots : List LinkSlot := []
  msg : Option FabMsg := none
  deriving DecidableEq, Repr

/-- One fabric port (R433, R434). -/
structure Port where
  state : BitVec 2 := 0
  rxseq : BitVec 12 := 0
  txseq : BitVec 12 := 0
  /-- Flits sent and not acknowledged, oldest first (R433). -/
  unacked : List LinkFlit := []
  /-- Plate flits that wait to be sent, oldest first. -/
  txq : List LinkSlot := []
  /-- Buffer slots that the receiver has given back and the port has not used, by virtual channel. -/
  cred : Vector Nat 8 := Vector.replicate 8 0
  /-- The plate packet received last or in part on each virtual channel, its flits in order. -/
  rx : Vector (List (BitVec 256)) 8 := Vector.replicate 8 []
  /-- Consecutive failed replays of the oldest flit, and the time of the last acknowledgement while flits are outstanding
  (R434). -/
  replays : Nat := 0
  since : Word := 0
  deriving DecidableEq, Repr

/-- A flow (R149, R453): its job, source and destination, virtual channel, and the next sequence number. The wake writes to one
package have no destination of their own (R436). -/
structure Flow where
  dom : BitVec 4
  job : BitVec 32
  src : BitVec 6
  peer : BitVec 12
  dst : Option (BitVec 6)
  vc : BitVec 3
  next : BitVec 8
  deriving DecidableEq, Repr

/-- An interrupt sent (R422, R440): function (0 PF, d + 1 a VF), vector (255 is the I3C in-band interrupt), the host link that
carries it (R425), and the time at which it was raised. -/
structure Irq where
  fn : Nat
  vec : Nat
  link : BitVec 1
  time : Word := 0
  deriving DecidableEq, Repr

/-- How a host access is completed (R430, R431): the bytes read, or an Unsupported Request. -/
inductive HostResp where
  | bytes (bs : List Byte)
  | unsupported
  deriving DecidableEq, Repr

/-- A socket's health beyond its discovery entry (R443). -/
structure Health where
  failed : Bool := false
  live : BitVec 16 := 0
  cecnt : BitVec 32 := 0
  uecnt : BitVec 32 := 0
  temp : BitVec 16 := 0
  lastue : Word := 0
  deriving DecidableEq, Repr

/-- The fused population of a socket (R24, R25). -/
structure Pop where
  state : BitVec 2
  cores : BitVec 16
  clsinfo : BitVec 32
  cstep : BitVec 16
  deriving DecidableEq, Repr

/-- What the boot ROM and the package hold outside the domains (R22, R437-R452). -/
structure Pkg where
  stepping : BitVec 16 := 0
  bin : BitVec 8 := 0
  pkgid : Word := 0
  pop : Vector Pop 64
  bootstat : Word := 0
  minver : BitVec 32 := 0
  version : BitVec 32 := 0
  cmperr : Bool := false
  tsstat : Word := 0
  hlstat : BitVec 32 := 0
  pkgno : BitVec 12 := 0
  route : Sparse (List (BitVec 7)) := []
  health : Vector Health 64 := Vector.replicate 64 {}
  log : List (BitVec 256) := []
  logovf : Bool := false
  pcap : BitVec 16 := 10500
  pin : BitVec 16 := 0
  /-- Arithmetic clock in sixteenths of 1.4 GHz (R449). -/
  clk : BitVec 5 := 16
  capping : Bool := false
  /-- PIN stayed below 97 % of PCAP in the last millisecond. -/
  lowms : Bool := false
  tmax : BitVec 16 := 0
  tsock : BitVec 6 := 0
  alert : Bool := false
  xmss : BitVec 32 := 0
  /-- The command target: the response not yet read (R442). -/
  resp : Option (List Byte) := none
  /-- Interrupts sent, and completions of host accesses, oldest first (R422, R430). -/
  irqs : List Irq := []
  resps : List HostResp := []
  /-- SHAKE256 of the running image (R451). -/
  digest : BitVec 256 := 0
  /-- The buffer of PF BAR2 that the host writes an image into (R440). -/
  bar2 : Memory := []
  /-- gts() when the last timestamp flits were sent, and when the last one was received (R437). -/
  tsSent : Word := 0
  tsLast : Word := 0
  /-- Firmware cores inside which an opcode outside the subset has raised ILLOP: the Campion pair, then the workers (R383). -/
  fwIllop : BitVec 7 := 0
  /-- A context has run since the last reset (R437). -/
  ran : Bool := false
  powered : Bool := true
  deriving DecidableEq, Repr

/-- The machine: one package with a context in focus. -/
structure State where
  /-- The context in focus and the core it stands on; the others follow. -/
  ctx : Ctx
  core : Core
  others : List Ctx
  cores : List Core
  /-- The sequencer of `ctx` that issues next. -/
  turn : SeqId
  doms : Vector Dom 16
  /-- DRAM and second-tier memory by physical address, with line poison and frame tags (R111, R115, R116). -/
  mem : Memory
  mpois : Sparse Bool
  tags : Sparse (BitVec 4)
  /-- Carved LLC ways by step and byte, with line poison (R109, R116), and host memory by bus address (R429). -/
  llc : Memory := []
  lpois : Sparse Bool := []
  hostmem : Memory := []
  /-- Second-level TLBs, by socket (R114). -/
  tlb2 : Sparse (List TlbEnt) := []
  jcbs : Sparse (Option Jcb)
  binds : List BindRec
  mons : List Mon
  overflow : List Waiter
  /-- Waiters woken by a write to their monitored line that have not walked again (R117). -/
  woken : List Waiter
  pending : List (Word × Raiser)
  /-- Transform queues, by 4 × MEM socket + queue number (R143). -/
  xfq : Sparse (List EngEnt)
  /-- Accept number of the next engine entry (R143, R146). -/
  accNext : Nat
  nextKey : Word
  /-- The model's own: the next number of a context that is away, the next position of a waiter (R121). -/
  nextAway : Nat := 1
  waitNext : Nat := 0
  peers : List PeerOut
  /-- Flows that have sent packets (R149), and messages to other packages that wait to be sent (R403, R412). -/
  flows : List Flow := []
  fabout : List FabMsg := []
  gangs : List Gang
  /-- Plate packets of switched jobs standing in routers and port buffers (R404, R410). -/
  net : List NetPkt
  ports : Vector Port 128
  pkg : Pkg
  arbseq : Word
  gts : Word
  /-- Dictionary entry being executed by a parcel (R195). -/
  parcel : Option (BitVec 10)
  /-- Accept number of the engine entry that makes a step (R145). -/
  entry : Option Nat := none
  /-- Events that have arrived and not been performed. -/
  inbox : List Instr
  /-- The model's own counters: steps made, and free values taken (log entries 4 and 5). -/
  tick : Nat
  fresh : Nat
  deriving DecidableEq, Repr

/-- Class codes of the design map, socket 0 first (R15, R24). -/
def designMap : List Nat :=
  [7, 3, 1, 8, 5, 1, 3, 7,
   5, 1, 1, 2, 2, 1, 1, 5,
   5, 1, 1, 3, 4, 1, 1, 5,
   5, 2, 3, 6, 4, 3, 2, 5,
   5, 2, 3, 4, 3, 3, 2, 5,
   5, 1, 1, 4, 3, 1, 1, 5,
   5, 1, 1, 2, 2, 1, 1, 5,
   7, 3, 1, 5, 8, 1, 3, 7]

/-- Class code of a socket (R15). -/
def classOf (s : BitVec 6) : Nat := designMap.getD s.toNat 0

/-- Cores of a full chiplet of a class (R17). -/
def fullCores (cls : Nat) : Nat :=
  match cls with
  | 1 => 8 | 2 => 8 | 3 => 16 | 4 => 4 | 7 => 2 | _ => 0

/-- Class information of a full socket (R25); second-tier memory of an HIO is LPDDR6 (log entry 2). -/
def fullInfo (s cls : Nat) : BitVec 32 :=
  match cls with
  | 1 => 0x00040410
  | 2 => 0x8
  | 3 => 0x4004
  | 4 => 0x10002
  | 5 => 0x08010040
  | 7 => BitVec.ofNat 32 ((8 * 65536) + 32 * 256 + (if s = 0 then 0 else if s = 7 then 32 else if s = 56 then 64 else 96))
  | 8 => 0x03000003
  | _ => 0

/-- The full design map, bin 0x00 (log entry 2). -/
def fullPop : Vector Pop 64 :=
  Vector.ofFn fun i =>
    let c := designMap.getD i.val 0
    { state := 2, cores := BitVec.ofNat 16 (2 ^ fullCores c - 1), clsinfo := fullInfo i.val c, cstep := 0 }

/-- A domain's registers at reset: DOM is its number, POLAUTO is 1 (R418). -/
def domReset (d : Nat) : Dom :=
  { cfg := (Vector.replicate 8 0).set 0 (BitVec.ofNat 64 (d + 1024)) }

/-- The context in focus at reset: partition 0 of core 0 of socket 1, idle (log entry 5). -/
def ctxReset : Ctx := { id := { loc := { sock := 1, core := 0, part := 0 }, pos := 0, harv := false } }

/-- A core as reset leaves it (R91, R102, R260). -/
def coreReset (sock : BitVec 6) (num : BitVec 4) : Core := { sock := sock, num := num }

/-- The compute cores of the package but the one in focus, in ascending socket and core number. -/
def coresReset : List Core :=
  ((List.range 64).map fun s => (List.range (fullCores (designMap.getD s 0))).map fun c =>
    coreReset (BitVec.ofNat 6 s) (BitVec.ofNat 4 c)).flatten.filter fun k => !(k.sock == 1 && k.num == 0)

/-- The machine right after reset: nothing bound, no domain enabled, memory with nothing listed, the arbiter at 1
(R400), the timestamp at 0 (R437). -/
def State.reset : State :=
  { ctx := ctxReset, core := coreReset 1 0, others := [], cores := coresReset, turn := .ld,
    doms := Vector.ofFn fun i => domReset i.val,
    mem := [], mpois := [], tags := [], jcbs := [], binds := [], mons := [], overflow := [], woken := [],
    pending := [], xfq := [], accNext := 1, nextKey := 1, peers := [], gangs := [], net := [],
    ports := Vector.replicate 128 { state := 1 },
    pkg := { pop := fullPop, health := Vector.ofFn fun i =>
      { live := match designMap.getD i.val 0 with
          | 1 => 0xFF | 2 => 0xFF | 3 => 0xFFFF | 4 => 0xF | 8 => 1 | _ => 0 } },
    arbseq := 1, gts := 0, parcel := none, inbox := [], tick := 0, fresh := 0 }

end Sys2Proof.Machine
end

