-- ==== Sys2Proof/Machine/Ops.lean ====
section
/-! DEFINITION. The shared operations: keyed data in canonical form, the focus, bytes of every storage, free values,
the event arbiter and its records, and taking a precise kind. -/

namespace Sys2Proof.Machine
open Sys2Proof

/-! ## Keyed data in canonical form -/

/-- What a key reads as; `d` where it is not listed. -/
def sget {α : Type} (d : α) (m : Sparse α) (k : Nat) : α :=
  match m with
  | [] => d
  | (k', v) :: t => if k' = k then v else sget d t k

/-- The data with one key written; writing `d` removes the entry. -/
def sput {α : Type} [DecidableEq α] (d : α) (m : Sparse α) (k : Nat) (v : α) : Sparse α :=
  match m with
  | [] => if v = d then [] else [(k, v)]
  | (k', v') :: t =>
    if k < k' then (if v = d then (k', v') :: t else (k, v) :: (k', v') :: t)
    else if k = k' then (if v = d then t else (k, v) :: t)
    else (k', v') :: sput d t k v

/-- Keys strictly rising and above `lo`, no entry equal to `d`. -/
def sorted {α : Type} [DecidableEq α] (d : α) (lo : Nat) (m : Sparse α) : Bool :=
  match m with
  | [] => true
  | (k, v) :: t => decide (lo ≤ k) && decide (v ≠ d) && sorted d (k + 1) t

/-- The canonical form. -/
def swf {α : Type} [DecidableEq α] (d : α) (m : Sparse α) : Bool := sorted d 0 m

/-- The canonical form of a memory. -/
def Memory.wf (m : Memory) : Bool := swf (0 : Byte) m

/-- The data with every key of [lo, lo + len) back at its default. -/
def sclear {α : Type} (m : Sparse α) (lo len : Nat) : Sparse α :=
  m.filter fun e => decide (e.1 < lo) || decide (lo + len ≤ e.1)

/-- One byte of a memory. -/
def Memory.get (m : Memory) (a : Nat) : Byte := sget (0 : Byte) m a
/-- One byte written. -/
def Memory.set (m : Memory) (a : Nat) (b : Byte) : Memory := sput (0 : Byte) m a b
/-- `n` bytes from address a upwards. -/
def Memory.getN (m : Memory) (a : Nat) : Nat → List Byte
  | 0 => []
  | n + 1 => Memory.get m a :: Memory.getN m (a + 1) n
/-- Bytes written from address a upwards. -/
def Memory.setN (m : Memory) (a : Nat) : List Byte → Memory
  | [] => m
  | b :: bs => Memory.setN (Memory.set m a b) (a + 1) bs

/-! ## The sequencer in turn, the core and the domain in focus -/

/-- SEQ codes (R33). -/
def seqCode : SeqId → Nat
  | .ld => 0 | .ex => 1 | .st => 2 | .sc => 3
/-- The sequencer of a SEQ code. -/
def seqOf (n : Nat) : SeqId :=
  match n % 4 with
  | 0 => .ld | 1 => .ex | 2 => .st | _ => .sc
def allSeqs : List SeqId := [.ld, .ex, .st, .sc]

def Seqs.get (x : Seqs) (q : SeqId) : Seqr :=
  match q with
  | .ld => x.ld | .ex => x.ex | .st => x.st | .sc => x.sc
def Seqs.set (x : Seqs) (q : SeqId) (v : Seqr) : Seqs :=
  match q with
  | .ld => { x with ld := v } | .ex => { x with ex := v } | .st => { x with st := v } | .sc => { x with sc := v }
def Seqs.map (x : Seqs) (f : SeqId → Seqr → Seqr) : Seqs :=
  { ld := f .ld x.ld, ex := f .ex x.ex, st := f .st x.st, sc := f .sc x.sc }

/-- The sequencer in turn. -/
def State.sq (s : State) : Seqr := s.ctx.seqs.get s.turn
/-- The state with the sequencer in turn changed. -/
def State.setSq (s : State) (x : Seqr) : State := { s with ctx := { s.ctx with seqs := s.ctx.seqs.set s.turn x } }
def State.modCtx (s : State) (f : Ctx → Ctx) : State := { s with ctx := f s.ctx }
def State.modCore (s : State) (f : Core → Core) : State := { s with core := f s.core }

/-- Domain of the context in focus. -/
def State.domOf (s : State) : BitVec 4 := s.ctx.bnd.dom
def State.dom (s : State) (d : BitVec 4) : Dom := s.doms.get d.toFin
def State.setDom (s : State) (d : BitVec 4) (x : Dom) : State := { s with doms := s.doms.set d.toNat x d.isLt }
def State.modDom (s : State) (d : BitVec 4) (f : Dom → Dom) : State := s.setDom d (f (s.dom d))

/-- The partition record of a context's place on the core in focus. -/
def State.part (s : State) : Part := s.core.parts.get s.ctx.id.loc.part.toFin
def State.setPart (s : State) (x : Part) : State :=
  { s with core := { s.core with parts := s.core.parts.set s.ctx.id.loc.part.toNat x s.ctx.id.loc.part.isLt } }

/-- The core in focus is the one at a place. -/
def Core.isAt (c : Core) (sock : BitVec 6) (num : BitVec 4) : Bool := c.sock == sock && c.num == num

/-- The core at a place, brought into focus; the one that was in focus stands in its stead. -/
def State.focusCore (s : State) (sock : BitVec 6) (num : BitVec 4) : State :=
  if s.core.isAt sock num then s
  else match s.cores.find? fun c => c.isAt sock num with
    | none => s
    | some c => { s with core := c, cores := s.cores.map fun k => if k.isAt sock num then s.core else k }

/-- A context and its core, brought into focus. A context that does not exist leaves the focus as it is. -/
def State.focus (s : State) (c : CtxId) : State :=
  if s.ctx.id = c then s
  else match s.others.find? fun k => k.id == c with
    | none => s
    | some k =>
      ({ s with ctx := k, others := s.others.map fun (x : Ctx) => if x.id = c then s.ctx else x }).focusCore
        c.loc.sock c.loc.core

/-- Every context, the one in focus first. -/
def State.ctxs (s : State) : List Ctx := s.ctx :: s.others
def State.findCtx (s : State) (c : CtxId) : Option Ctx := s.ctxs.find? fun k => k.id == c
/-- The owner context of a bind record. -/
def BindRec.ctxId (b : BindRec) : CtxId :=
  { loc := { sock := BitVec.ofNat 6 (b.row / 128), core := BitVec.ofNat 4 (b.row / 8), part := BitVec.ofNat 3 b.row }
    pos := b.pos, harv := false }
/-- No bind record says that the context is not resident. -/
def State.resident (s : State) (c : CtxId) : Bool := !(s.binds.any fun b => b.ctxId == c && !b.res && !c.harv)
/-- Every context changed by one function. -/
def State.mapCtxs (s : State) (f : Ctx → Ctx) : State := { s with ctx := f s.ctx, others := s.others.map f }
/-- Every core, the one in focus first. -/
def State.allCores (s : State) : List Core := s.core :: s.cores
def State.mapCores (s : State) (f : Core → Core) : State := { s with core := f s.core, cores := s.cores.map f }
/-- The core at a place. -/
def State.coreAt (s : State) (sock : BitVec 6) (num : BitVec 4) : Option Core :=
  s.allCores.find? fun c => c.isAt sock num

/-- Class code of the core in focus. -/
def State.cls (s : State) : Nat := classOf s.core.sock
/-- A socket's chiplet is present (R19) and has not failed as a whole (R443). -/
def State.present (s : State) (sock : BitVec 6) : Bool :=
  (s.pkg.pop.get sock.toFin).state == 2 && !(s.pkg.health.get sock.toFin).failed
/-- A socket is a present MEM, of 64 GiB, or HIO, of 768 GiB (R17, R25): its capacity in bytes. -/
def State.capacity (s : State) (sock : BitVec 6) : Nat :=
  if !s.present sock then 0
  else match classOf sock with
    | 5 => 64 * 2 ^ 30
    | 8 => ((s.pkg.pop.get sock.toFin).clsinfo.toNat / 65536) * 2 ^ 30
    | _ => 0

/-! ## Free values -/

/-- A number nothing constrains, and the state after it is drawn. -/
def State.freeNat (s : State) : Nat × State := (Config.freeNat s.fresh, { s with fresh := s.fresh + 1 })
def State.freeBool (s : State) : Bool × State := (Config.freeBool s.fresh, { s with fresh := s.fresh + 1 })
/-- n free bytes. -/
def State.freeBytes (s : State) (n : Nat) : List Byte × State :=
  ((upTo n).map (Config.freeByte s.fresh), { s with fresh := s.fresh + 1 })

/-! ## Commutative operations (R106, R107) -/

/-- A commutative operation on a word of w bytes (R106, R257). -/
def commOp (op : BitVec 3) (w : Nat) (a b : Nat) : Nat :=
  let m := 2 ^ (8 * w)
  let x := a % m
  let y := b % m
  let sg (v : Nat) : Int := if v < m / 2 then (v : Int) else (v : Int) - m
  match op.toNat with
  | 0 => (x + y) % m
  | 1 => x &&& y
  | 2 => x ||| y
  | 3 => x ^^^ y
  | 4 => if sg x ≤ sg y then x else y
  | 5 => if sg y ≤ sg x then x else y
  | 6 => if x ≤ y then x else y
  | _ => if y ≤ x then x else y

/-- The identity of a commutative operation (R107). -/
def commId (op : BitVec 3) (w : Nat) : Nat :=
  let m := 2 ^ (8 * w)
  match op.toNat with
  | 1 => m - 1
  | 4 => m / 2 - 1
  | 5 => m / 2
  | 6 => m - 1
  | _ => 0

/-- Apply the partials of one update-only line to memory (R108). -/
def applyLine (m : Memory) (u : UpdLine) : Memory :=
  let w := if u.wide then 8 else 4
  (upTo (64 / w)).foldl (init := m) fun m k =>
    if u.mask.getLsbD k then
      let a := u.line * 64 + k * w
      Memory.setN m a (leBytes w (commOp u.op w (leNat (Memory.getN m a w)) (fld u.part (8 * w * k) (8 * w))))
    else m

/-! ## Bytes of every storage -/

/-- A byte's place: a storage and an address in it. -/
structure Place where
  sp : Space
  a : Nat
  deriving DecidableEq, Repr

/-- The memory behind a storage. -/
def State.memOf (s : State) (sp : Space) : Memory :=
  match sp with
  | .spad => s.core.spad
  | .carve => s.llc
  | .host => s.hostmem
  | .phys => s.mem
  | .peer => []

/-- One byte as it stands. A peer byte is a free value, drawn by the access itself. -/
def State.byteAt (s : State) (p : Place) : Byte := Memory.get (s.memOf p.sp) p.a

/-- One byte written. -/
def State.putByte (s : State) (p : Place) (b : Byte) : State :=
  match p.sp with
  | .spad => { s with core := { s.core with spad := Memory.set s.core.spad p.a b } }
  | .carve => { s with llc := Memory.set s.llc p.a b }
  | .host => { s with hostmem := Memory.set s.hostmem p.a b }
  | .phys => { s with mem := Memory.set s.mem p.a b }
  | .peer => s

/-- Line poison of a storage (R116). -/
def State.poisOf (s : State) (sp : Space) : Sparse Bool :=
  match sp with
  | .spad => s.core.spois
  | .carve => s.lpois
  | .phys => s.mpois
  | _ => []
def State.setPois (s : State) (sp : Space) (x : Sparse Bool) : State :=
  match sp with
  | .spad => { s with core := { s.core with spois := x } }
  | .carve => { s with lpois := x }
  | .phys => { s with mpois := x }
  | _ => s
/-- The frame of a physical address stands in a second-tier device that has failed (R432, R443). LPDDR is one device; four
CXL devices share the capacity evenly, without interleave. -/
def State.frameDown (s : State) (a : Nat) : Bool :=
  let k : BitVec 6 := BitVec.ofNat 6 (a / 2 ^ 46)
  classOf k == 8 &&
    let dev := if (s.pkg.pop.get k.toFin).clsinfo.getLsbD 2 then a % 2 ^ 46 / (s.capacity k / 4) else 0
    !((s.pkg.health.get k.toFin).live.getLsbD dev)
/-- The byte lies in a poisoned line. -/
def State.poisoned (s : State) (p : Place) : Bool :=
  sget false (s.poisOf p.sp) (p.a / 64) || (p.sp == .phys && s.frameDown p.a)

/-- A write that covers a whole line clears its poison bit; a partial one leaves it (R116). -/
def State.clearPois (s : State) (ps : List Place) : State :=
  match ps with
  | [] => s
  | p :: _ =>
    match s.poisOf p.sp with
    | [] => s
    | l => s.setPois p.sp (l.filter fun e => !((upTo 64).all fun k => ps.contains { sp := p.sp, a := e.1 * 64 + k }))

/-- Where a carve offset of a domain stands among the carved ways: its step, a MEM and a pair of its ways, and the byte within
it (R109). -/
def Dom.carveKey (x : Dom) (o : Nat) : Nat := (x.steps.getD (o / 2 ^ 25) 0).toNat * 2 ^ 25 + o % 2 ^ 25
/-- Bytes of a domain's carve (R109). -/
def Dom.carveLen (x : Dom) : Nat := x.steps.length * 2 ^ 25
/-- Places of the carve bytes from an offset on; none lie beyond the carve. -/
def State.carveAt (s : State) (d : BitVec 4) (o n : Nat) : List Place :=
  (upTo (min n ((s.dom d).carveLen - o))).map fun k => { sp := .carve, a := (s.dom d).carveKey (o + k) }
/-- Carve bytes of a domain as they stand; 0 beyond it. -/
def State.carveBytes (s : State) (d : BitVec 4) (o n : Nat) : List Byte :=
  let bs := (s.carveAt d o n).map s.byteAt
  bs ++ List.replicate (n - bs.length) 0

/-- Host bus address of a window-4 offset (R427, R429). -/
def Dom.hostKey (x : Dom) (o : Nat) : Nat := ((x.host.get 0).toNat + o) % 2 ^ 64
/-- Places of the host bytes from a window-4 offset on. -/
def State.hostAt (s : State) (d : BitVec 4) (o n : Nat) : List Place :=
  (upTo n).map fun k => { sp := .host, a := (s.dom d).hostKey (o + k) }
/-- Host bytes at a window-4 offset as they stand. -/
def State.hostBytes (s : State) (d : BitVec 4) (o n : Nat) : List Byte := (s.hostAt d o n).map s.byteAt

/-- The host's answer to a window-4 access of a domain: whether it is an error, which HWERR counts (R429). -/
def State.hostAnswer (s : State) (d : BitVec 4) : Bool × State :=
  let (bad, s) := s.freeBool
  (bad, s.modDom d fun x =>
    let w := x.host.get 3
    { x with host := x.host.set 3 (if bad && fld w 0 32 != 2 ^ 32 - 1 then w + 1 else w) })

/-- The condition of an address wait holds for a value (R263): the wait goes on. -/
def waitHolds (lt : Bool) (v b : Word) : Bool := if lt then v.ult b else v == b

/-- A word of w bytes of a storage, zero-extended. -/
def State.wordAt (s : State) (sp : Space) (a w : Nat) : Word :=
  BitVec.ofNat 64 (leNat (Memory.getN (s.memOf sp) a w))

/-- One sequencer's address wait evaluated after a write to its word (R263). -/
def evalWait (s : State) (c : Ctx) (written : Place → Bool) (x : Seqr) : Seqr :=
  match x.wait with
  | .addr sp a w b lt _ =>
    let here := match sp with
      | .spad => s.core.isAt c.id.loc.sock c.id.loc.core
      | _ => true
    if here && (upTo w).any (fun k => written { sp := sp, a := a + k }) && x.woke.isNone then
      let v := s.wordAt sp a w
      if waitHolds lt v b then x else { x with woke := some v }
    else x
  | _ => x

/-- A wake, a record or an answered page leaves SLEEP for RUN; a parked context will be restored to RUN (R55). -/
def wakeCtx (c : Ctx) : Ctx :=
  if c.cst = .sleep then { c with cst := .run }
  else if c.cst = .parked ∧ c.was = .sleep then { c with was := .run }
  else c

/-- Every address wait on a written word is evaluated (R263), and its context leaves SLEEP when the wait has ended. -/
def State.notify (s : State) (written : Place → Bool) : State :=
  s.mapCtxs fun c =>
    let qs := c.seqs.map fun _ x => evalWait s c written x
    if qs = c.seqs then c else wakeCtx { c with seqs := qs }

/-- RUN and SLEEP are left for PARKED (R55). -/
def Ctx.park (c : Ctx) : Ctx := if c.cst = .run ∨ c.cst = .sleep then { c with was := c.cst, cst := .parked } else c
/-- A parked context takes up the state that it left (R55). -/
def Ctx.unpark (c : Ctx) : Ctx := if c.cst = .parked then { c with cst := c.was } else c
/-- The harvest context in the reserve bank of a partition is PARKED while its lease is (R55, R414). -/
def State.parkHarvest (s : State) (l : Loc) : State :=
  s.mapCtxs fun c => if c.id.harv && c.id.loc == l then c.park else c

/-- Bytes that the device writes to host memory for a domain; a write that the host refuses is lost (R429). -/
def State.hostPut (s : State) (d : BitVec 4) (ps : List Place) (bs : List Byte) : State :=
  let (bad, s) := s.hostAnswer d
  let s := { s with hostmem := if bad then s.hostmem else (ps.zip bs).foldl (fun m (x : Place × Byte) => Memory.set m x.1.a x.2) s.hostmem }
  s.notify fun p => !bad && ps.contains p
/-- The same at a window-4 offset. -/
def State.writeHost (s : State) (d : BitVec 4) (o : Nat) (bs : List Byte) : State := s.hostPut d (s.hostAt d o bs.length) bs
/-- Host bytes that the device reads for other than a context's load; what a read that ends in an error brings is not stated,
and free (R429, log entry 40). -/
def State.readHost (s : State) (d : BitVec 4) (ps : List Place) : List Byte × State :=
  let (bad, s) := s.hostAnswer d
  let free := s.freeBytes ps.length
  (if bad then free.1 else ps.map s.byteAt, free.2)

/-! ## Page monitors (R117) -/

/-- At least one entry of a 64-byte line holds V = 1. -/
def lineHasV (m : Memory) (line : Nat) : Bool :=
  (upTo 8).any fun k => (Memory.get m (line * 64 + 8 * k)).getLsbD 0

/-- A write to a monitored line after which an entry holds V = 1 wakes every waiter in the order of joining (R117). -/
def State.wakeMons (s : State) (lines : List Nat) : State :=
  let hit := fun (m : Mon) => lines.contains m.line && lineHasV s.mem m.line
  { s with woken := s.woken ++ ((s.mons.filter hit).map (·.waiters)).flatten, mons := s.mons.filter fun m => !hit m }

/-! ## Merges of update-only lines (R108) -/

/-- What a merge at the home of lines brings about: address waits on them are evaluated, monitors woken. -/
def State.merged (s : State) (lines : List Nat) : State :=
  let s := s.notify fun p => p.sp == .phys && lines.contains (p.a / 64)
  match s.mons with
  | [] => s
  | _ => s.wakeMons lines

/-- Merge the update-only lines that a test selects, of every core, into memory (R108). -/
def State.mergeWhere (s : State) (sel : UpdLine → Bool) : State :=
  match (s.allCores.map fun c => c.uol.filter sel).flatten with
  | [] => s
  | us =>
    let s := s.mapCores fun c => { c with uol := c.uol.filter fun u => !sel u }
    { s with mem := us.foldl applyLine s.mem }.merged (us.map fun (u : UpdLine) => u.line)

/-- Merge every update-only line over a memory line. -/
def State.mergeLine (s : State) (line : Nat) : State := s.mergeWhere fun u => u.line == line
/-- Merge every update-only line; an eviction may do so at any time. A walk reads after it. -/
def State.mergeAll (s : State) : State := s.mergeWhere fun _ => true
/-- Merge the update-only lines of the core in focus, as a release wider than its core does (R139). -/
def State.mergeOwn (s : State) : State :=
  match s.core.uol with
  | [] => s
  | us =>
    { s with core := { s.core with uol := [] }, mem := us.foldl applyLine s.mem }.merged (us.map fun (u : UpdLine) => u.line)

/-- The state after the update-only lines over the given places are merged. -/
def State.mergeAt (s : State) (ps : List Place) : State :=
  ps.foldl (init := s) fun s p =>
    match p.sp with
    | .phys => s.mergeLine (p.a / 64)
    | _ => s

/-- Bytes as they stand, after the merges a read waits for (R108). -/
def State.readPlaces (s : State) (ps : List Place) : List Byte × State :=
  let s := s.mergeAt ps
  (ps.map s.byteAt, s)

/-- Bytes written at places, with everything a write brings about: merged update-only lines, poison bits, address
waits and monitors (R108, R116, R117, R263). -/
def State.writePlaces (s : State) (ps : List Place) (bs : List Byte) : State :=
  let s := s.mergeAt ps
  let s := (ps.zip bs).foldl (fun s pb => s.putByte pb.1 pb.2) s
  let s := s.clearPois ps
  let s := s.notify fun p => ps.contains p
  match s.mons with
  | [] => s
  | _ => s.wakeMons ((ps.filter fun p => p.sp == .phys).map fun p => p.a / 64)

/-- Consecutive places. -/
def run (sp : Space) (a n : Nat) : List Place := (upTo n).map fun k => { sp := sp, a := a + k }

/-- Bytes of consecutive places written. -/
def State.writeRun (s : State) (sp : Space) (a : Nat) (bs : List Byte) : State := s.writePlaces (run sp a bs.length) bs
/-- Bytes of a domain's carve written. -/
def State.writeCarve (s : State) (d : BitVec 4) (o : Nat) (bs : List Byte) : State := s.writePlaces (s.carveAt d o bs.length) bs
/-- Bytes of consecutive places read. -/
def State.readRun (s : State) (sp : Space) (a n : Nat) : List Byte := (s.readPlaces (run sp a n)).1

/-! ## The event arbiter, status entries and records (R11-R13, R393, R394, R400) -/

/-- The next ARBSEQ with the GTS of the same plate cycle (R400). -/
def State.arbitrate (s : State) : (Word × Word) × State :=
  ((s.arbseq, s.gts), { s with arbseq := s.arbseq + 1 })

/-- The link of a domain's device-initiated traffic and messages: HLINK, or the one HIO that is present (R425). -/
def State.linkOf (s : State) (d : BitVec 4) : BitVec 1 :=
  if !s.present 60 then 0 else if !s.present 3 then 1 else fldv ((s.dom d).host.get 2) 63 1
/-- An MSI-X message: function 0 is the PF, d + 1 the VF of domain d (R422). The link of a message of the PF is not stated, and
free where both HIOs are present (R425, log entry 40). -/
def State.interrupt (s : State) (fn vec : Nat) : State :=
  let link := if fn = 0 then (if !s.present 60 then 0 else if !s.present 3 then 1 else BitVec.ofBool (Config.freeBool s.fresh))
    else s.linkOf (BitVec.ofNat 4 (fn - 1))
  { s with pkg := { s.pkg with irqs := s.pkg.irqs ++ [{ fn := fn, vec := vec, link := link, time := s.gts }] }, fresh := if fn = 0 then s.fresh + 1 else s.fresh }
/-- NVEC of a domain (R418). -/
def Dom.nvec (x : Dom) : Nat := fld (x.cfg.get 5) 48 12
/-- The message of an entry of a domain on a vector of its VF: entries of one plate cycle for one vector raise one message; whether
two of one nanosecond are of one cycle is free (R422). -/
def State.entryIrq (s : State) (d : BitVec 4) (vec : Nat) : State :=
  if s.pkg.irqs.any fun i => i.fn == d.toNat + 1 && i.vec == vec && i.time == s.gts then
    if Config.freeBool s.fresh then { s with fresh := s.fresh + 1 }
    else ({ s with fresh := s.fresh + 1 } : State).interrupt (d.toNat + 1) vec
  else s.interrupt (d.toNat + 1) vec
/-- A queue's interrupt: vector n mod NVEC (R422). -/
def State.queueIrq (s : State) (d : BitVec 4) (q : BitVec 6) : State := s.entryIrq d (q.toNat % (s.dom d).nvec)

def State.findQ (s : State) (d : BitVec 4) (q : BitVec 6) : Option SubQ := (s.dom d).queues.find? fun x => x.num == q
def State.modQ (s : State) (d : BitVec 4) (q : BitVec 6) (f : SubQ → SubQ) : State :=
  s.modDom d fun x => { x with queues := x.queues.map fun y => if y.num = q then f y else y }

/-- Write one of the device's three counts of a control block, and with it zero to the reserved bytes (R385). -/
def State.putIdx (s : State) (d : BitVec 4) (ctl : Word) (off : Nat) (v : BitVec 32) : State :=
  s.hostPut d (s.hostAt d (ctl.toNat + off) 4 ++ s.hostAt d (ctl.toNat + 0x18) 40) (toBytes v ++ List.replicate 40 0)
/-- A count of a control block as it stands in host memory. -/
def State.getIdx (s : State) (d : BitVec 4) (ctl : Word) (off : Nat) : BitVec 32 :=
  ofBytes 32 (s.hostBytes d (ctl.toNat + off) 4)
/-- A count of a control block as the device reads it (R385, R429). -/
def State.readIdx (s : State) (d : BitVec 4) (ctl : Word) (off : Nat) : BitVec 32 × State :=
  let (bs, s) := s.readHost d (s.hostAt d (ctl.toNat + off) 4)
  (ofBytes 32 bs, s)

/-- Room in the exception queue by the count that the device read last; where that says full, it reads EQHEAD again (R385). -/
def State.eqLook (s : State) (d : BitVec 4) (x : SubQ) : Bool × State :=
  if (x.eqtail - x.eqhead).toNat < 2 ^ x.m then (true, s)
  else
    let (v, s) := s.readIdx d x.ctl 0x14
    (decide ((x.eqtail - v).toNat < 2 ^ x.m), s.modQ d x.num fun y => { y with eqhead := v })
/-- The exception queue has room (R385). -/
def State.eqRoom (s : State) (d : BitVec 4) (x : SubQ) : Bool := (s.eqLook d x).1

/-- A gang failure is sent to the packages that the route table names; one without a member of the job passes it over (R423,
R424, log entry 53). -/
def State.sendGangf (s : State) (d : BitVec 4) (job : BitVec 32) (cause : BitVec 8) (place : BitVec 16) (orig : Word) : State :=
  let dsts := (s.pkg.route.map fun e => (BitVec.ofNat 12 e.1 : BitVec 12)).filter fun p => p != s.pkg.pkgno
  { s with fabout := s.fabout ++ dsts.map fun p => { dst := p, dom := d, job := job, body := .gangf cause place orig } }

/-- A record stamped by the arbiter and written to an exception queue that has room; OVERFLOW and LOST report the
records discarded since the last one (R11, R13). A GANGF record of this package is its own origin: ORIG is its ARBSEQ, and
the failure is sent over the fabric with it (R424). -/
def State.putRec (s : State) (d : BitVec 4) (x : SubQ) (r : BitVec 512) : Word × State :=
  let ((n, g), s) := s.arbitrate
  let r := setFld (setFld r 0x100 64 n.toNat) 0x140 64 g.toNat
  let origin := fld r 0 8 = 0x81 ∧ fld r 400 16 = s.pkg.pkgno.toNat ∧ fld r 448 64 = 0
  let r := if origin then setFld r 448 64 n.toNat else r
  let s := if origin then s.sendGangf d (fldv r 64 32) 1 (fldv r 416 16) n else s
  let r := if x.lost = 0 then r else setFld (setFld r 11 1 1) 112 16 x.lost.toNat
  let s := s.writeHost d (x.exq.toNat + 64 * (x.eqtail.toNat % 2 ^ x.m)) (toBytes r)
  let s := s.modQ d x.num fun y => { y with eqtail := y.eqtail + 1, lost := 0 }
  let s := s.putIdx d x.ctl 0x10 (x.eqtail + 1)
  (n, s.queueIrq d x.num)

/-- A record that awaits no answer: queued when there is room, otherwise discarded and counted (R13). -/
def State.report (s : State) (d : BitVec 4) (q : BitVec 6) (r : BitVec 512) : State :=
  match s.findQ d q with
  | none => s
  | some x =>
    let (room, s) := s.eqLook d x
    if room then (s.putRec d x r).2
    else s.modQ d q fun y => { y with lost := if y.lost = BitVec.allOnes 16 then y.lost else y.lost + 1 }

/-- A record that awaits an answer: queued when there is room, otherwise held unarbitrated (R394). -/
def State.reportHeld (s : State) (d : BitVec 4) (q : BitVec 6) (r : BitVec 512) (w : Raiser) : State :=
  match s.findQ d q with
  | none => s
  | some x =>
    let (room, s) := if x.late.isEmpty then s.eqLook d x else (false, s)
    if room then
      let (n, s) := s.putRec d x r
      let s := { s with pending := s.pending ++ [(n, w)] }
      match w with
      | .ctx _ _ _ => s
      | _ => s.modQ d q fun y => { y with hold := some n }
    else
      s.modQ d q fun y => { y with late := y.late ++ [(r, w)] }

/-- An entry of the error log (R445): type, socket, core and WHERE; beyond 1,024 unread ones the oldest is overwritten. Its
ARBSEQ is the answer. -/
def State.logEvent (s : State) (etype : Nat) (sock : BitVec 6) (core : BitVec 4) (dom : Option (BitVec 4)) (where_ : Nat) :
    Word × State :=
  let ((n, g), s) := s.arbitrate
  let e : BitVec 256 :=
    put 256 0 8 etype ||| put 256 8 6 sock.toNat ||| put 256 14 4 core.toNat ||| put 256 18 4 (dom.getD 0).toNat |||
    bitTo 256 22 dom.isSome ||| put 256 64 64 where_ ||| put 256 128 64 n.toNat ||| put 256 192 64 g.toNat
  let full := decide (1024 ≤ s.pkg.log.length)
  (n, { s with pkg := { s.pkg with
    log := (if full then s.pkg.log.tail else s.pkg.log) ++ [e], logovf := s.pkg.logovf || full } })

/-! ## Jobs under a gang switch (R403) -/

/-- The job's contexts and entries stand still: from its SWEEP to the end of its BARRIER. -/
def Gang.stops (g : Gang) : Bool := g.gst != .armed && g.gst != .run
/-- A packet of the job that arrives is not performed: it stands, is captured or is lost (R403). A member that has failed sends
no READY (R412). -/
def Gang.bars (g : Gang) : Bool := g.gst == .sweep || g.gst == .save || g.gst == .out || (g.gst == .restore && g.failed)
/-- A job of a domain stands still on this package. -/
def State.gangHolds (s : State) (d : BitVec 4) (job : BitVec 32) : Bool :=
  s.gangs.any fun g => g.dom == d && g.job == job && g.stops

/-- The fields of a record before the arbiter stamps it (R11). -/
structure RecF where
  kind : BitVec 8
  precise : Bool := false
  /-- An idempotent region was aborted. The spec names no kind that aborts one, and in this model none does: 0 (log entry 41). -/
  region : Bool := false
  poisoned : Bool := false
  dom : BitVec 4 := 0
  sq : BitVec 2 := 0
  harv : Bool := false
  sock : BitVec 6 := 0
  core : BitVec 4 := 0
  part : BitVec 3 := 0
  stage : BitVec 16 := 0
  job : BitVec 32 := 0
  node : BitVec 16 := 0
  pc : Word := 0
  addr : Word := 0
  info : BitVec 128 := 0

/-- A record's 64 bytes (R11). -/
def mkRec (r : RecF) : BitVec 512 :=
  put 512 0 8 r.kind.toNat ||| bitTo 512 8 r.precise ||| bitTo 512 9 r.region ||| bitTo 512 10 r.poisoned ||| put 512 16 4 r.dom.toNat |||
  put 512 24 2 r.sq.toNat ||| bitTo 512 26 r.harv ||| put 512 32 6 r.sock.toNat ||| put 512 38 4 r.core.toNat |||
  put 512 42 3 r.part.toNat ||| put 512 48 16 r.stage.toNat ||| put 512 64 32 r.job.toNat |||
  put 512 96 16 r.node.toNat ||| put 512 128 64 r.pc.toNat ||| put 512 192 64 r.addr.toNat |||
  put 512 384 128 r.info.toNat

/-- The fields that name a context (R11, R454). -/
def Ctx.recF (c : Ctx) (kind : BitVec 8) : RecF :=
  { kind := kind, dom := c.bnd.dom, harv := c.id.harv, sock := c.id.loc.sock, core := c.id.loc.core,
    part := c.id.loc.part, stage := c.bnd.stage, job := c.bnd.job, node := c.bnd.node }

/-- The submission queue that loaded a context's graph (R454). -/
def State.queueOf (s : State) (c : Ctx) : BitVec 6 :=
  match (s.dom c.bnd.dom).graphs.find? fun g => g.id == c.bnd.graph with
  | some g => g.queue
  | none => 0

/-- A PKTBAD record that no packet raises, for a context (R454); `at_` gives SEQ and PC where the table does. -/
def State.pktbad (s : State) (c : Ctx) (info : BitVec 128) (at_ : Option (SeqId × BitVec 52)) (addr : Word) : State :=
  let r := c.recF 0x83
  let r := { r with info := info, addr := addr }
  let r := match at_ with
    | some (q, pc) => { r with sq := BitVec.ofNat 2 (seqCode q), pc := pc.zeroExtend 64 }
    | none => r
  s.report c.bnd.dom (s.queueOf c) (mkRec r)

/-- A QERR record of cause 0x01 naming a block (R78, R392). -/
def State.qerrBlock (s : State) (c : Ctx) (blk : BitVec 12) : State :=
  let q := s.queueOf c
  s.report c.bnd.dom q (mkRec { c.recF 0x84 with
    info := put 128 0 16 blk.toNat ||| put 128 16 8 1 ||| put 128 32 16 q.toNat })

/-! ## Traps -/

/-- A precise kind with its ADDR and INFO (R8, R9, R11). -/
structure Trap where
  kind : BitVec 8
  addr : Word := 0
  info : BitVec 128 := 0
  deriving DecidableEq, Repr

/-- A sequencer as an instruction that raises a kind leaves it: it issues nothing until an answer. -/
def faultSeq (x : Seqr) : Seqr := { x with run := .faulted, wait := .none, sent := false, wpos := none, wva := none }

/-- TAKING A PRECISE KIND (R10, R41, R55, R394): the instruction leaves no effect, its tokens are back on their
links, its sequencer stops, the context stands FAULTED, and the record goes to the exception queue of the queue that
loaded the graph, with PC at the instruction. Free values it drew are not drawn again. -/
def State.raise (s : State) (t : Trap) : State :=
  let r := { s.ctx.recF t.kind with
    precise := true, poisoned := t.kind == 0x0A || (t.kind == 0x05 && fld t.info 0 8 == 4), sq := BitVec.ofNat 2 (seqCode s.turn),
    pc := s.sq.pc.zeroExtend 64, addr := t.addr, info := t.info }
  let s := { s with parcel := none, fresh := s.fresh + 1 }
  let d := s.domOf
  let q := s.queueOf s.ctx
  let w := Raiser.ctx s.ctx.id s.turn t.kind
  let s := (s.setSq (faultSeq s.sq)).modCtx fun c => { c with cst := .faulted }
  s.reportHeld d q (mkRec r) w

/-- ILLOP with its cause, offending bit and word (R199). -/
def illop (cause : Nat) (fmt idx bit : Nat) (word : Word) : Trap :=
  { kind := 0x01, info := put 128 0 8 cause ||| put 128 8 8 fmt ||| put 128 16 10 idx ||| put 128 32 8 bit |||
      put 128 64 64 word.toNat }
/-- CAPF (R88). -/
def capf (cause slot need lane : Nat) (addr last : Word) : Trap :=
  { kind := 0x02, addr := addr, info := put 128 0 8 cause ||| put 128 8 8 slot ||| put 128 16 7 need |||
      put 128 24 8 lane ||| put 128 64 64 last.toNat }
/-- CAPF of a capability instruction or an edge operation: it has no access (R236, R255). -/
def capfSlot (cause slot : Nat) : Trap := capf cause slot 0 0xFF 0 0
/-- WSTR (R88). -/
def wstr (cause w0 w1 lane : Nat) (addr last : Word) : Trap :=
  { kind := 0x03, addr := addr, info := put 128 0 8 cause ||| put 128 8 8 w0 ||| put 128 16 8 w1 |||
      put 128 24 8 lane ||| put 128 64 64 last.toNat }
/-- ALIAS (R115). -/
def aliasTrap (layout tag lane : Nat) (addr first : Word) : Trap :=
  { kind := 0x04, addr := addr, info := put 128 0 8 layout ||| put 128 8 8 tag ||| put 128 24 8 lane |||
      put 128 64 64 first.toNat }
/-- IFETCH (R122). -/
def ifetch (cause : Nat) (addr : Word) : Trap := { kind := 0x05, addr := addr, info := put 128 0 8 cause }
/-- BANKC (R359). -/
def bankc (mem cls bank lane need other : Nat) (addr row : Word) : Trap :=
  { kind := 0x06, addr := addr, info := put 128 0 8 mem ||| put 128 8 8 cls ||| put 128 16 8 bank |||
      put 128 24 8 lane ||| put 128 32 16 need ||| put 128 48 8 other ||| put 128 64 64 row.toNat }
/-- JCBORD (R77). -/
def jcbord (cause blk : Nat) : Trap := { kind := 0x08, info := put 128 0 8 cause ||| put 128 16 12 blk }
/-- LEASE (R416); FMT, OPCODE and LENT are filled in where the instruction is known (`fillLease`). -/
def lease (cause lane : Nat) (addr last : Word) : Trap :=
  { kind := 0x09, addr := addr, info := put 128 0 8 cause ||| put 128 24 8 lane ||| put 128 64 64 last.toNat }
/-- FMT, OPCODE and LENT of a LEASE (R416). -/
def fillLease (t : Trap) (fmt op lent : Nat) : Trap :=
  if t.kind = 0x09 then { t with info := t.info ||| put 128 8 8 fmt ||| put 128 16 8 op ||| put 128 32 16 lent }
  else t
/-- POISON cause 0x1 (R116). -/
def poisonTrap (addr : Word) : Trap := { kind := 0x0A, addr := addr, info := put 128 0 8 1 }
/-- ALLOC (R98). -/
def alloc (cause : Nat) (addr last : Word) : Trap :=
  { kind := 0x0B, addr := addr, info := put 128 0 8 cause ||| put 128 64 64 last.toNat }

/-! ## Effects of one instruction -/

/-- How an instruction ends without completing: a precise kind; a wait, with the state that the wait leaves where the
spec lets something stand; a page fault of a domain virtual address, with the state after the monitor is armed. -/
inductive Stop where
  | trap (t : Trap)
  | block (w : Wait) (keep : Option State)
  | page (va : BitVec 52) (keep : State)

/-- An effect: from a state to a result and a state, or a stop. -/
abbrev Eff := StateT State (Except Stop)

def Eff.trap {α : Type} (t : Trap) : Eff α := fun _ => .error (.trap t)
def Eff.block {α : Type} (w : Wait) : Eff α := fun _ => .error (.block w none)
/-- Wait, and let what the instruction has done so far stand. -/
def Eff.blockKeep {α : Type} (w : Wait) : Eff α := fun s => .error (.block w (some s))
def Eff.mod (f : State → State) : Eff Unit := fun s => .ok ((), f s)
def Eff.gets {α : Type} (f : State → α) : Eff α := fun s => .ok (f s, s)
def Eff.modGet {α : Type} (f : State → α × State) : Eff α := fun s => .ok (f s)
def Eff.check (b : Bool) (t : Trap) : Eff Unit := if b then pure () else Eff.trap t
/-- An effect for each element in turn. -/
def Eff.each {α : Type} (l : List α) (f : α → Eff Unit) : Eff Unit :=
  match l with
  | [] => pure ()
  | a :: t => do f a; Eff.each t f
/-- The results of an effect for each element in turn. -/
def Eff.collect {α β : Type} (l : List α) (f : α → Eff β) : Eff (List β) :=
  match l with
  | [] => pure []
  | a :: t => do
    let b ← f a
    let bs ← Eff.collect t f
    pure (b :: bs)

/-- Set sticky flags of the context (R180, R181). -/
def setFlags (f : BitVec 7) : Eff Unit := Eff.mod fun s => s.modCtx fun c => { c with fpflg := c.fpflg ||| f }

/-- The context is a harvest context: LEASE cause 0x2 for an operation it may not make (R57, R416). -/
def leaseHarv : Eff Unit := fun s =>
  if s.ctx.id.harv then .error (.trap (lease 2 0xFF 0 0)) else .ok ((), s)

/-- The owner regions that list the sequencer in turn become dirty (R119). -/
def dirty : Eff Unit := Eff.mod fun s =>
  if s.ctx.id.harv then s
  else
    let mark (r : OpenRgn) := if r.mask.getLsbD (seqCode s.turn) then { r with dirty := true } else r
    s.modCtx fun c => { c with rgns := c.rgns.map mark }

/-- Address of the instruction in turn: the program counter has been advanced by its length. -/
def State.ipc (s : State) (len : Nat) : BitVec 52 := s.sq.pc - BitVec.ofNat 52 len
/-- Length of a W64 or W32 form, or 2 when a parcel executes it (R195). -/
def State.len (s : State) (n : Nat) : Nat := if s.parcel.isSome then 2 else n

end Sys2Proof.Machine
end

