-- ==== Sys2Proof/Machine/Access.lean ====
section
/-! DEFINITION. Memory accesses: window decode, capabilities, translation, frame tags and poison in the order of R87,
page faults (R117), hotness counts (R123), the harvest store buffer (R57) and the bank rule of strict mode (R358). -/

namespace Sys2Proof.Machine
open Sys2Proof

/-! ## Capabilities (R80) -/

def capName (c : BitVec 128) : BitVec 32 := fldv c 0 32
def capGen (c : BitVec 128) : BitVec 16 := fldv c 32 16
def capRights (c : BitVec 128) : BitVec 7 := fldv c 48 7
def capImp (c : BitVec 128) : Bool := bitAt c 56
def capStale (c : BitVec 128) : Bool := bitAt c 57
def capLimit (c : BitVec 128) : BitVec 52 := fldv c 64 52
def capPeer (c : BitVec 128) : BitVec 12 := fldv c 116 12
/-- A capability from its fields (R80). -/
def mkCap (name : BitVec 32) (gen : BitVec 16) (rights : BitVec 7) (imp stale : Bool) (limit : BitVec 52)
    (peer : BitVec 12) : BitVec 128 :=
  peer ++ limit ++ (0 : BitVec 6) ++ BitVec.ofBool stale ++ BitVec.ofBool imp ++ (0 : BitVec 1) ++ rights ++ gen ++ name

/-- Rights in the order of bits [54:48] (R80). -/
def needRD : BitVec 7 := 1
def needWR : BitVec 7 := 2
def needAT : BitVec 7 := 4
def needSH : BitVec 7 := 8
def needTR : BitVec 7 := 16
def needEN : BitVec 7 := 32
def needXP : BitVec 7 := 64
/-- Every right of `a` stands in `b`. -/
def subRights (a b : BitVec 7) : Bool := a &&& ~~~b == 0

/-- A buffer-table slot of the context in focus. -/
def State.slot (s : State) (k : BitVec 8) : Option Slot := sget none s.ctx.table k.toNat
def Ctx.setSlot (c : Ctx) (k : BitVec 8) (v : Option Slot) : Ctx := { c with table := sput none c.table k.toNat v }

/-- Registry entry of a name in a domain (R79). -/
def Dom.regOf (x : Dom) (name : BitVec 32) : Option RegEnt := x.reg.find? fun e => e.name == name
/-- A capability agrees with the registry: a live buffer at its generation (R79, R83). -/
def Dom.liveCap (x : Dom) (c : BitVec 128) : Bool :=
  match x.regOf (capName c) with
  | some e => e.live && e.gen == capGen c
  | none => false

/-! ## Translation (R111-R114, R117) -/

/-- The levels of a walk: low bit and width of the index, alignment of what a non-leaf entry points to, leaf page
bits (R112). -/
def levels : List (Nat × Nat × Nat) := [(39, 13, 8192), (29, 10, 2048), (21, 8, 256), (16, 5, 0)]

/-- Page-table entry fields (R112). -/
def pteV (e : Word) : Bool := bitAt e 0
def pteLeaf (e : Word) : Bool := bitAt e 1
def pteOrd (e : Word) : BitVec 2 := fldv e 2 2
def pteLayout (e : Word) : BitVec 4 := fldv e 4 4
def pteAddr (e : Word) : Nat := fld e 8 44 * 256

/-- A physical range lies in a present MEM or HIO (R111, R113). -/
def State.physOk (s : State) (a n : Nat) : Bool :=
  a < 2 ^ 52 && a % 2 ^ 46 + n ≤ s.capacity (BitVec.ofNat 6 (a / 2 ^ 46))

/-- A valid entry is malformed (R113). `lo` is the low bit of the level's index, `nxt` the next table's size. -/
def State.malformed (s : State) (e : Word) (lvl lo nxt : Nat) : Bool :=
  fld e 52 12 ≠ 0 || (pteLeaf e && lvl == 0) || (!pteLeaf e && lvl == 3) ||
  (!pteLeaf e && (pteOrd e ≠ 0 || pteLayout e ≠ 0)) ||
  (if pteLeaf e then pteAddr e % 2 ^ lo ≠ 0 || !s.physOk (pteAddr e) (2 ^ lo)
   else nxt ≠ 0 && (pteAddr e % nxt ≠ 0 || !s.physOk (pteAddr e) nxt)) ||
  (pteLeaf e && 4 ≤ (pteLayout e).toNat)

/-- How a walk ends (R113). -/
inductive WalkRes where
  | ok (e : TlbEnt)
  | invalid (ea : Nat)
  | malformed (ea lvl : Nat)

/-- The walk from a table's base down the levels that remain (R113). -/
def walkFrom (s : State) (d : BitVec 4) (va : BitVec 52) (base lvl : Nat) : List (Nat × Nat × Nat) → WalkRes
  | [] => .invalid base
  | (lo, w, nxt) :: rest =>
    let ea := base + 8 * fld va lo w
    let e := BitVec.ofNat 64 (leNat (Memory.getN s.mem ea 8))
    if !pteV e then .invalid ea
    else if s.malformed e lvl lo nxt then .malformed ea lvl
    else if pteLeaf e then
      .ok { dom := d, va := BitVec.ofNat 52 (va.toNat / 2 ^ lo * 2 ^ lo), bits := lo, pa := BitVec.ofNat 52 (pteAddr e),
            ord := pteOrd e, layout := pteLayout e, leaf := BitVec.ofNat 52 ea, acc := 0, wr := 0,
            tags := s.tags.filter fun t => pteAddr e / 65536 ≤ t.1 && t.1 < (pteAddr e + 2 ^ lo) / 65536 }
    else walkFrom s d va (pteAddr e) (lvl + 1) rest

/-- Page-table root and shadow offset of a domain (R112, R123, R418). -/
def Dom.ptroot (x : Dom) : Nat := fld (x.cfg.get 1) 0 52
def Dom.shoff (x : Dom) : Nat := fld (x.cfg.get 2) 16 36 * 2 ^ 16

/-- The walk of a virtual address (R113). A root that no present MEM or HIO holds owns no memory (R19): the walk ends there as
at a malformed entry of level 0 (log entry 42). -/
def State.walk (s : State) (d : BitVec 4) (va : BitVec 52) : WalkRes :=
  let root := (s.dom d).ptroot
  if s.physOk root 65536 then walkFrom s d va root 0 levels else .malformed (root + 8 * fld va 39 13) 0

/-- Saturating addition to a 32-bit count. -/
def sat32 (a b : Nat) : Nat := min (a + b) (2 ^ 32 - 1)

/-- Add counts to the shadow word of a leaf entry (R123). One that no present MEM or HIO holds is rejected with a PKTBAD record
to queue 0 of the domain (R19, log entry 42). -/
def State.addShadow (s : State) (d : BitVec 4) (leaf acc wr : Nat) : State :=
  if acc = 0 ∧ wr = 0 then s
  else
    let a := leaf + (s.dom d).shoff
    if !s.physOk a 8 then
      s.report d 0 (mkRec { kind := 0x83, dom := d, addr := BitVec.ofNat 64 a, info := put 128 0 8 5 })
    else
    let s := s.mergeLine (a / 64)
    let w := leNat (Memory.getN s.mem a 8)
    s.writeRun .phys a (leBytes 4 (sat32 (w % 2 ^ 32) acc) ++ leBytes 4 (sat32 (w / 2 ^ 32) wr))

/-- A TLB entry covers an address. -/
def TlbEnt.covers (e : TlbEnt) (d : BitVec 4) (va : BitVec 52) : Bool :=
  e.dom == d && e.va.toNat / 2 ^ e.bits == va.toNat / 2 ^ e.bits

/-- The second-level TLB of the instance in focus (R114). -/
def State.tlbUp (s : State) : List TlbEnt := sget [] s.tlb2 s.core.sock.toNat
/-- A translation held by the TLB of the core in focus, or by its instance's second-level one (R114). -/
def State.tlbFind (s : State) (d : BitVec 4) (va : BitVec 52) : Option (Bool × TlbEnt) :=
  match s.core.tlb.find? fun e => e.covers d va with
  | some e => some (true, e)
  | none => (s.tlbUp.find? fun e => e.covers d va).map fun e => (false, e)
/-- A walked translation enters the second-level TLB of the instance; the oldest of 8,192 leaves (R114). Its accesses are
counted in the core's own entry (log entry 43). -/
def State.tlbWalked (s : State) (e : TlbEnt) : State :=
  { s with tlb2 := sput [] s.tlb2 s.core.sock.toNat ((e :: s.tlbUp).take 8192) }
/-- The tags that a TLB entry holds follow the frame tables (R115, log entry 43). -/
def TlbEnt.retag (tags : Sparse (BitVec 4)) (e : TlbEnt) : TlbEnt :=
  { e with tags := tags.filter fun t => e.pa.toNat / 65536 ≤ t.1 && t.1 < (e.pa.toNat + 2 ^ e.bits) / 65536 }
/-- Frame tags written (R115). -/
def State.withTags (s : State) (tags : Sparse (BitVec 4)) : State :=
  let s := { s with tags := tags, tlb2 := s.tlb2.map fun (x : Nat × List TlbEnt) => (x.1, x.2.map (TlbEnt.retag tags)) }
  s.mapCores fun c => { c with tlb := c.tlb.map (TlbEnt.retag tags) }

/-- Insert a translation; the oldest of 256 leaves, its counts added to its shadow word (R114, R123). -/
def State.tlbInsert (s : State) (e : TlbEnt) : State :=
  let s' := { s with core := { s.core with tlb := (e :: s.core.tlb).take 256 } }
  match (s.core.tlb.drop 255).head? with
  | none => s'
  | some o => s'.addShadow o.dom o.leaf.toNat o.acc.toNat o.wr.toNat

/-- One access request through an entry (R123): a count that reaches 0xFFFF is added and both restart. -/
def State.touch (s : State) (e : TlbEnt) (wr : Bool) : State :=
  let this (x : TlbEnt) : Bool := x.dom == e.dom && x.va == e.va && x.bits == e.bits
  match s.core.tlb.find? this with
  | none => s
  | some x =>
    let a := x.acc + 1
    let w := if wr then x.wr + 1 else x.wr
    let full := a == 0xFFFF || w == 0xFFFF
    let y := if full then { x with acc := 0, wr := 0 } else { x with acc := a, wr := w }
    let s := { s with core := { s.core with tlb := s.core.tlb.map fun z => if this z then y else z } }
    if full then s.addShadow x.dom x.leaf.toNat a.toNat w.toNat else s

/-- Post a page request, or hold it while the ring is full (R386). -/
def State.pageRequest (s : State) (d : BitVec 4) (va : BitVec 52) : State :=
  match (s.dom d).pageq with
  | none => s
  | some p =>
    let (head, s) := if (p.eqtail - p.eqhead).toNat < 2 ^ p.n then (p.eqhead, s) else s.readIdx d p.ctl 0x14
    let p := { p with eqhead := head }
    if (p.eqtail - head).toNat < 2 ^ p.n ∧ p.waiting = [] then
      let ((n, _), s) := s.arbitrate
      let s := s.writeHost d (p.ring.toNat + 16 * (p.eqtail.toNat % 2 ^ p.n)) (leBytes 8 va.toNat ++ toBytes n)
      let s := s.putIdx d p.ctl 0x10 (p.eqtail + 1)
      let s := s.modDom d fun x => { x with pageq := some { p with eqtail := p.eqtail + 1 } }
      s.entryIrq d ((s.dom d).nvec - 1)
    else s.modDom d fun x => { x with pageq := some { p with waiting := p.waiting ++ [va] } }

/-- Park a walk on the line of an entry: join its monitor, or arm one and post a page request, or be held in the
overflow list while the MEM's 1,024 monitors are in use (R117). -/
def State.park (s : State) (ea : Nat) (w : Waiter) (request : Bool) : State :=
  let line := ea / 64
  if s.mons.any fun m => m.line == line then
    { s with mons := s.mons.map fun m =>
        if m.line = line then (if m.waiters.contains w then m else { m with waiters := m.waiters ++ [w] }) else m }
  else if 1024 ≤ (s.mons.filter fun m => m.line / 2 ^ 40 == line / 2 ^ 40).length then
    if s.overflow.contains w then s else { s with overflow := s.overflow ++ [w] }
  else
    let s := { s with mons := s.mons ++ [{ line := line, waiters := [w] }] }
    if request then s.pageRequest w.dom w.va else s

/-- The PKTBAD record of a walk that meets a malformed entry (R113, R454). -/
def State.walkRecord (s : State) (c : Ctx) (at_ : Option (SeqId × BitVec 52)) (va : BitVec 52) (ea lvl : Nat) : State :=
  s.pktbad c (put 128 0 8 0x08 ||| put 128 8 8 lvl ||| put 128 64 64 ea) at_ (va.zeroExtend 64)

/-- Translation by TLB or walk. A walk that fails parks its waiter and answers with the state after it has. -/
def State.translate (s : State) (d : BitVec 4) (va : BitVec 52) (w : Waiter) (at_ : Option (SeqId × BitVec 52)) :
    Except State (TlbEnt × State) :=
  match s.tlbFind d va with
  | some (true, e) => .ok (e, s)
  | some (false, e) => .ok (e, s.tlbInsert e)
  | none =>
    let s := s.mergeAll
    match s.walk d va with
    | .ok e => .ok (e, (s.tlbWalked e).tlbInsert e)
    | .invalid ea => .error (s.park ea w true)
    | .malformed ea lvl => .error ((s.walkRecord s.ctx at_ va ea lvl).park ea w false)

/-- Frame tag of a physical address, as its TLB entry holds it (R114, R115). -/
def TlbEnt.tagOf (e : TlbEnt) (pa : Nat) : BitVec 4 := sget 0 e.tags (pa / 65536)

/-! ## The checks of R87 -/

/-- One access: pointer, bytes, lane (0xFF for a scalar access). -/
structure Req where
  ptr : Word
  n : Nat
  lane : Nat
  deriving DecidableEq, Repr

/-- A range of a kernel, in bytes, holds an offset. -/
def Range.has (r : Range) (o : Nat) : Bool := decide (r.lo ≤ o) && decide (o < r.lo + r.len)

/-- The owner context of a partition. -/
def State.ownerOf (s : State) (l : Loc) : Option Ctx :=
  s.ctxs.find? fun c => c.id.loc == l && !c.id.harv &&
    (s.binds.any fun b => b.res && b.pos == c.id.pos && b.row == l.sock.toNat * 128 + l.core.toNat * 8 + l.part.toNat)
/-- The lendable ranges of the owner of the partition in focus, with their bits (R266). -/
def State.lendRanges (s : State) : List Range :=
  if s.ctx.id.harv then ((s.ownerOf s.ctx.id.loc).map fun c => c.bnd.lend).getD [] else s.ctx.bnd.lend
/-- The ranges whose bits of a mask are set. -/
def State.masked (s : State) (m : BitVec 16) : List Range :=
  ((s.lendRanges.zip (upTo 16)).filter fun r => m.getLsbD r.2).map (·.1)
/-- The first offset of [p, e) that lies in no range; each range is left behind at most once. -/
def firstOutside (rs : List Range) (e : Nat) : Nat → Nat → Option Nat
  | 0, p => if e ≤ p then none else some p
  | k + 1, p =>
    if e ≤ p then none
    else match rs.find? fun r => r.has p with
      | none => some p
      | some r => firstOutside rs e k (r.lo + r.len)
/-- The first offset of [p, e) that lies in a range. -/
def firstInside (rs : List Range) (p e : Nat) : Option Nat :=
  ((rs.map fun r => max p r.lo).zip rs).foldl (fun a x =>
    if x.1 < e ∧ x.1 < x.2.lo + x.2.len then
      match a with
      | none => some x.1
      | some y => some (min x.1 y)
    else a) none

/-- Step 1: the windows (R86). -/
def checkWindow (r : Req) : Option Trap :=
  let last := r.ptr.toNat + r.n - 1
  let w0 := fld r.ptr 60 4
  let w1 := last / 2 ^ 60
  if w0 ≠ w1 then some (wstr 1 w0 (w1 % 16) r.lane r.ptr (BitVec.ofNat 64 last))
  else if 6 ≤ w0 then some (wstr 2 w0 w1 r.lane r.ptr (BitVec.ofNat 64 last))
  else none

/-- Bytes of a domain's host window (R427) and its wake words (R418). -/
def Dom.hwlen (x : Dom) : Nat := fld (x.host.get 1) 0 40
def Dom.waken (x : Dom) : Nat := fld (x.cfg.get 5) 0 21

/-- Step 2: the window's own decode (R87, R98, R243, R262). -/
def State.checkDecode (s : State) (need : BitVec 7) (r : Req) : Option Trap :=
  let last := r.ptr + BitVec.ofNat 64 (r.n - 1)
  let off := fld r.ptr 0 60
  let beyond := some (capf 6 0 need.toNat r.lane r.ptr last)
  match fld r.ptr 60 4 with
  | 0 =>
    if fld r.ptr 32 28 ≠ 0 then some (alloc 2 r.ptr last)
    else if s.ctx.id.harv then
      let rs := s.masked s.part.lent
      (firstOutside rs (off + r.n) (rs.length + 1) off).map fun k => lease 1 r.lane r.ptr (BitVec.ofNat 64 k)
    else if (firstOutside s.ctx.bnd.spm (off + r.n) (s.ctx.bnd.spm.length + 1) off).isSome then some (alloc 1 r.ptr last)
    else (firstInside (s.masked s.part.lent) off (off + r.n)).map fun k => lease 5 r.lane r.ptr (BitVec.ofNat 64 k)
  | 1 => if (s.dom s.domOf).carveLen < off + r.n then beyond else none
  | 4 => if (s.dom s.domOf).hwlen < off + r.n then beyond else none
  | 5 =>
    let pkg := fld r.ptr 48 12
    let lastOff := fld last 0 60
    if (pkg ≠ 0xFFF ∧ pkg ≠ s.pkg.pkgno.toNat) ∨ (s.dom s.domOf).waken ≤ fld r.ptr 3 45 ∨
        (s.dom s.domOf).waken ≤ fld last 3 45 ∨ off / 2 ^ 48 ≠ lastOff / 2 ^ 48 then beyond else none
  | _ => none

/-- Step 3: the slot (R87). -/
def State.checkSlot (s : State) (need : BitVec 7) (r : Req) : Option Trap :=
  let w := fld r.ptr 60 4
  if w = 2 ∨ w = 3 then
    let last := r.ptr + BitVec.ofNat 64 (r.n - 1)
    let k := fldv r.ptr 52 8
    let bad (cause : Nat) := some (capf cause k.toNat need.toNat r.lane r.ptr last)
    match s.slot k with
    | none => bad 1
    | some x =>
      if capImp x.cap ≠ (w = 3) then bad 2
      else if capStale x.cap then bad 3
      else if !subRights need (capRights x.cap) then bad 4
      else if (capLimit x.cap).toNat < fld r.ptr 0 52 + r.n - 1 then bad 5
      else none
  else none

/-- Steps 1 to 3 in order. -/
def State.checkStatic (s : State) (need : BitVec 7) (r : Req) : Option Trap :=
  match checkWindow r with
  | some t => some t
  | none => match s.checkDecode need r with
    | some t => some t
    | none => s.checkSlot need r

/-- Domain virtual address of a window-2 byte (R111). -/
def State.vaOf (s : State) (p : Word) : BitVec 52 :=
  let base := match s.slot (fldv p 52 8) with
    | some x => match (s.dom s.domOf).regOf (capName x.cap) with
      | some e => e.vbase.toNat
      | none => 0
    | none => 0
  BitVec.ofNat 52 (base + fld p 0 52)

/-- The number under which a window-3 byte is known: exporting package, buffer name, offset (R80, R89). -/
def State.peerByte (s : State) (p : Word) : Nat :=
  let c := ((s.slot (fldv p 52 8)).map (·.cap)).getD 0
  ((capPeer c).toNat * 2 ^ 32 + (capName c).toNat) * 2 ^ 52 + fld p 0 52
/-- Places of the bytes of an access in a window that is not translated. -/
def State.direct (s : State) (r : Req) : List Place :=
  let off := fld r.ptr 0 60
  match fld r.ptr 60 4 with
  | 0 => run .spad off r.n
  | 1 => s.carveAt s.domOf off r.n
  | 4 => s.hostAt s.domOf off r.n
  | 5 => s.carveAt s.domOf (off % 2 ^ 48) r.n
  | _ => run .peer (s.peerByte r.ptr) r.n

/-- Bytes of [a, a + n) cut at every multiple of `z`: offset in the access, address, count. -/
def cutAt (z a n : Nat) : List (Nat × Nat × Nat) :=
  let f0 := a / z
  let f1 := (a + n - 1) / z
  (upTo (f1 - f0 + 1)).map fun k =>
    let lo := max a ((f0 + k) * z)
    let hi := min (a + n) ((f0 + k + 1) * z)
    (lo - a, lo, hi - lo)
/-- The same grouped by 64 KiB frame. -/
def frames (va n : Nat) : List (Nat × Nat × Nat) := cutAt 65536 va n

/-- The waiter and the record fields of the sequencer in turn. -/
def State.waiter (s : State) (d : BitVec 4) (va : BitVec 52) : Waiter :=
  { dom := d, va := va, ctx := some (s.ctx.id, s.turn) }

/-- A translated group of an access: offset in the access, physical address, count, translation. -/
structure Frame where
  off : Nat
  pa : Nat
  n : Nat
  ent : TlbEnt
  deriving DecidableEq, Repr

/-- Step 4 for one access of the sequencer in turn: its groups translated one after the other. -/
def translateFrames : List (Nat × Nat × Nat) → Eff (List Frame)
  | [] => pure []
  | (o, va, n) :: rest => fun s =>
    let v := BitVec.ofNat 52 va
    match s.translate s.domOf v (s.waiter s.domOf v) (some (s.turn, s.ipc (s.len 8))) with
    | .error s' => .error (.page v s')
    | .ok (e, s') =>
      match translateFrames rest s' with
      | .error x => .error x
      | .ok (fs, s'') => .ok ({ off := o, pa := e.pa.toNat + va % 2 ^ e.bits, n := n, ent := e } :: fs, s'')

/-- Step 5: the first group whose frame tag differs from its leaf's LAYOUT (R115). -/
def aliasOf (r : Req) (fs : List Frame) : Option Trap :=
  (fs.find? fun f => f.ent.tagOf f.pa != f.ent.layout).map fun f =>
    aliasTrap f.ent.layout.toNat (f.ent.tagOf f.pa).toNat r.lane r.ptr (r.ptr + BitVec.ofNat 64 f.off)

/-- Steps 4 and 5 in order for one access: places, and the translations used (R87). -/
def translateReq (r : Req) (groups : List (Nat × Nat × Nat)) : Eff (List Place × List TlbEnt) := do
  let fs ← translateFrames groups
  match aliasOf r fs with
  | some t => Eff.trap t
  | none => pure ((fs.map fun f => run .phys f.pa f.n).flatten, fs.map (·.ent))

/-- All the checks of R87 for one access; poison is checked for loads and atomics (R116). -/
def checkReq (need : BitVec 7) (pois : Bool) (r : Req) : Eff (List Place × List TlbEnt) := do
  let t ← Eff.gets fun s => s.checkStatic need r
  match t with
  | some t => Eff.trap t
  | none => pure ()
  let scrub ← Eff.gets fun s => fld r.ptr 60 4 == 0 &&
    (firstInside (s.masked s.part.scrub) (fld r.ptr 0 60) (fld r.ptr 0 60 + r.n)).isSome
  if scrub then Eff.block .scrub else pure ()
  let va ← Eff.gets fun s => s.vaOf r.ptr
  let (ps, es) ← if fld r.ptr 60 4 = 2 then translateReq r (frames va.toNat r.n)
    else Eff.gets fun s => (s.direct r, [])
  let bad ← Eff.gets fun s => pois && ps.any s.poisoned
  if bad then Eff.trap (poisonTrap r.ptr) else pure ()
  pure (ps, es)

/-- Scratchpad bank of an offset, by class (R97). -/
def bankOf (cls off : Nat) : Nat :=
  match cls with
  | 3 => off / 2 ^ 17 % 32
  | 4 => off / 2 ^ 16 % 32
  | 1 => off / 2 ^ 18 % 64
  | _ => off / 2 ^ 18 % 32

/-- Elements without repeats, each at its first place. -/
def dedup {α : Type} [DecidableEq α] (l : List α) : List α :=
  l.foldl (fun acc a => if acc.contains a then acc else acc ++ [a]) []

/-- Class I of strict mode (R347, R352, R358): two shares of one access for the same bank and port. `unit` is the
bytes of a share, `bank` the bank of a byte, `mem` the code of R359. -/
def intrinsic (rs : List Req) (unit mem : Nat) (bank : Nat → Nat) : Option Trap :=
  let bytes := (rs.map fun r => (upTo r.n).map fun k => (r, fld r.ptr 0 60 + k)).flatten
  let rows := dedup (bytes.map fun b => b.2 / unit)
  let clash := bytes.find? fun b => rows.any fun x => x < b.2 / unit && bank (x * unit) == bank b.2
  clash.map fun b =>
    let row := b.2 / unit
    let ptr := setFld b.1.ptr 0 60 (row * unit)
    bankc mem 1 (bank b.2) b.1.lane (rows.filter fun x => bank (x * unit) == bank b.2).length 0xFF
      ((rs.head?.map (·.ptr)).getD 0) ptr

/-- The class I check of an access whose lanes are all in one window (R358). -/
def State.strictCheck (s : State) (wr : Bool) (rs : List Req) : Option Trap :=
  if !s.ctx.bnd.strict then none
  else
    let w0 := rs.filter fun r => fld r.ptr 60 4 == 0
    let w12 := rs.filter fun r => fld r.ptr 60 4 == 1 || fld r.ptr 60 4 == 2
    match intrinsic w0 256 (if wr then 2 else 1) (bankOf s.cls) with
    | some t => some t
    | none => intrinsic w12 64 3 fun a => a / 64 % 8

/-- The shares of an access: the code of R359 and the bank of each, with the byte that names it. An atomic, an update, ldacq,
strel and a barrier form hold both ports of their bank (R347). -/
def State.sharesOf (s : State) (wr both : Bool) (rs : List Req) : List ((Nat × Nat) × Req × Nat) :=
  (rs.map fun r =>
    let w := fld r.ptr 60 4
    let o := fld r.ptr 0 60
    if w = 0 then
      (cutAt 256 o r.n).map fun g =>
        (if both then [1, 2] else if wr then [2] else [1]).map fun m => ((m, bankOf s.cls g.2.1), r, g.2.1 / 256 * 256)
    else if w = 1 ∨ w = 2 then (cutAt 64 o r.n).map fun g => [((3, g.2.1 / 64 % 8), r, g.2.1 / 64 * 64)]
    else []).flatten.flatten

/-- The shares that another sequencer's last access holds against one of sequencer q: within a context the order is LD, ST, SC
(R348), and an atomic, which holds both ports of its bank for two clocks, keeps anyone waiting (R347). -/
def heldUses (q p : SeqId) (uses : List (Nat × Nat)) : List (Nat × Nat) :=
  if seqCode p < seqCode q then uses
  else uses.filter fun u => u.1 != 3 && uses.contains (1, u.2) && uses.contains (2, u.2)
/-- Another sequencer of the context whose last shares win against one of these, with the share (R358). -/
def State.rival (s : State) (us : List ((Nat × Nat) × Req × Nat)) : Option (SeqId × (Nat × Nat) × Req × Nat) :=
  allSeqs.findSome? fun q =>
    if q = s.turn then none
    else (us.find? fun u => (heldUses s.turn q (s.ctx.seqs.get q).uses).contains u.1).map fun u => (q, u)

/-- Class S of strict mode (R358): an access whose shares meet those of another sequencer's last access may lose the bank
to it, and then traps; whether the two come in one clock is free. What it uses itself stands for the next. The stores of a
harvest context reach their ports when its region commits, so they take no share here (R349). -/
def strictShared (wr both : Bool) (rs : List Req) : Eff Unit := fun s =>
  if !s.ctx.bnd.strict || (s.ctx.id.harv && wr && !both) then .ok ((), s)
  else
    let us := s.sharesOf wr both rs
    let mine := s.setSq { s.sq with uses := dedup (us.map (·.1)) }
    match s.rival us with
    | none => .ok ((), mine)
    | some (q, (m, b), r, row) =>
      let (lost, mine) := mine.freeBool
      if lost then
        .error (.trap (bankc m 2 b r.lane (dedup ((us.filter fun u => u.1 == (m, b)).map fun u => u.2.2)).length (seqCode q)
          ((rs.head?.map (·.ptr)).getD 0) (setFld r.ptr 0 60 row)))
      else .ok ((), mine)

/-- Every access of one instruction, lowest lane first: the checks, strict mode's classes I and S, one hotness count for each
page (R87, R123, R358). `both`: its shares hold both ports of their banks (R347). -/
def access (need : BitVec 7) (pois wr both : Bool) (rs : List Req) : Eff (List (List Place)) := do
  let xs ← Eff.collect rs (checkReq need pois)
  let t ← Eff.gets fun s => s.strictCheck wr rs
  match t with
  | some t => Eff.trap t
  | none => pure ()
  strictShared wr both rs
  let es := dedup (xs.map (·.2)).flatten
  Eff.each es fun e => Eff.mod fun s => s.touch e wr
  pure (xs.map (·.1))

/-! ## Data -/

/-- The place of a byte of a buffered block (R57). -/
def SbEnt.place (e : SbEnt) (b : Nat) : Place := { sp := e.sp, a := e.block * 64 + b }
/-- A buffered block holds the byte of a place. -/
def SbEnt.holds (e : SbEnt) (p : Place) : Bool := e.sp == p.sp && e.block == p.a / 64

/-- A byte of the store buffer, when it holds one (R57). -/
def sbGet (sb : List SbEnt) (p : Place) : Option Byte :=
  let b := p.a % 64
  match sb.find? fun e => e.holds p with
  | some e => if e.mask.getLsbD b then some (fldv e.data (8 * b) 8) else none
  | none => none
/-- One byte buffered; a block not yet held takes a new entry at the end (R57). -/
def sbPut (sb : List SbEnt) (p : Place) (v : Byte) (ptr : Word := 0) (peer : BitVec 12 := 0) : List SbEnt :=
  let b := p.a % 64
  let upd (e : SbEnt) : SbEnt := { e with data := setFld e.data (8 * b) 8 v.toNat, mask := e.mask ||| bitTo 64 b true }
  if sb.any fun e => e.holds p then sb.map fun e => if e.holds p then upd e else e
  else sb ++ [upd { sp := p.sp, block := p.a / 64, data := 0, mask := 0, ptr := ptr, peer := peer }]

/-- The package that a window-3 or window-5 pointer names (R80, R262). -/
def State.peerOf (s : State) (ptr : Word) : BitVec 12 :=
  if fld ptr 60 4 = 5 then fldv ptr 48 12
  else match s.slot (fldv ptr 52 8) with
    | some x => capPeer x.cap
    | none => 0
/-- The route table names an up port for a peer (R435). -/
def State.reachable (s : State) (peer : BitVec 12) : Bool :=
  (sget [] s.pkg.route peer.toNat).any fun p => (s.ports.get p.toFin).state == 2

/-- What a harvest context has buffered stands over the bytes it reads (R57). -/
def ownBytes (s : State) (ps : List Place) (bs : List Byte) : List Byte :=
  if s.ctx.id.harv then (ps.zip bs).map fun pb => (sbGet s.ctx.sbuf pb.1).getD pb.2 else bs

/-! ## Packets to other packages (R16, R140, R435, R453) -/

/-- The FIO sockets, and the one that owns a fabric port (R25). -/
def fioSocks : List (BitVec 6) := [0, 7, 56, 63]
def fioOf (p : BitVec 7) : BitVec 6 := fioSocks.getD (p.toNat / 32) 0

/-- Whose packet it is: a job of a domain, and the socket that it leaves. -/
structure Sender where
  dom : BitVec 4
  job : BitVec 32
  src : BitVec 6
  deriving DecidableEq, Repr
def Ctx.sender (c : Ctx) : Sender := { dom := c.bnd.dom, job := c.bnd.job, src := c.id.loc.sock }
/-- Where a packet for a pointer goes in a peer: the socket that holds the byte, or, for a wake write, the FIO socket of the
port that it leaves through (R436). -/
def dstOf (peer : BitVec 12) (ptr : Word) : Option (BitVec 6) := if fld ptr 60 4 = 5 then none else some (Config.peerSocket peer ptr)
/-- The virtual channel of the requests of a pointer's window, and of loads, collectives and messages (R16). -/
def vcOf (ptr : Word) : BitVec 3 := Config.channel (fld ptr 60 4)
def vcLoad : BitVec 3 := Config.channel 16
def vcColl : BitVec 3 := Config.channel 17
def vcMsg : BitVec 3 := Config.channel 18

/-- The up ports of a peer's set, in its order (R435). -/
def State.upPorts (s : State) (peer : BitVec 12) : List (BitVec 7) :=
  (sget [] s.pkg.route peer.toNat).filter fun p => (s.ports.get p.toFin).state == 2
/-- The port of a flow to a peer: set[h mod m] (R435). -/
def State.portFor (s : State) (w : Sender) (peer : BitVec 12) (dst : Option (BitVec 6)) (vc : BitVec 3) : Option (BitVec 7) :=
  let up := s.upPorts peer
  up[Config.flowHash w.src dst vc w.job % up.length]?
/-- The next sequence number of a flow (R149, R453). -/
def State.flowNext (s : State) (w : Sender) (peer : BitVec 12) (dst : Option (BitVec 6)) (vc : BitVec 3) : BitVec 8 × State :=
  let mine (f : Flow) : Bool :=
    f.dom == w.dom && f.job == w.job && f.src == w.src && f.peer == peer && f.dst == dst && f.vc == vc
  match s.flows.find? mine with
  | some f => (f.next, { s with flows := s.flows.map fun g => if mine g then { g with next := g.next + 1 } else g })
  | none => (0, { s with
      flows := s.flows ++ [{ dom := w.dom, job := w.job, src := w.src, peer := peer, dst := dst, vc := vc, next := 1 }] })
/-- The plate flits of a packet as a link carries them: its header flit, then its data, 32 bytes to a flit, the last filled
out with zeros (R453). -/
def linkSlots (head : LinkSlot) (bs : List Byte) : List LinkSlot :=
  head :: (upTo ((bs.length + 31) / 32)).map fun k =>
    { head with first := false, data := ofBytes 256 ((bs.drop (32 * k)).take 32) }
/-- A packet stands in the transmit queue of a port. -/
def State.toPort (s : State) (p : BitVec 7) (head : LinkSlot) (bs : List Byte) : State :=
  let x := s.ports.get p.toFin
  { s with
    ports := s.ports.set p.toNat { x with txq := x.txq ++ linkSlots { head with data := Config.headerFlit s.fresh } bs } p.isLt
    fresh := s.fresh + 1 }
/-- A packet for a peer leaves: its number; `none` where no up port leads there. -/
def State.sendPacket (s : State) (w : Sender) (peer : BitVec 12) (dst : Option (BitVec 6)) (vc : BitVec 3) (bs : List Byte) :
    Option Nat × State :=
  match s.portFor w peer dst vc with
  | none => (none, s)
  | some p =>
    let (n, s) := s.flowNext w peer dst vc
    (some s.fresh, s.toPort p { vc := vc, first := true, job := w.job, src := w.src, dst := dst.getD (fioOf p), seq := n, data := 0,
                                dom := w.dom, pkt := s.fresh } bs)

/-- Bytes of the records of a job's packets that stand in the fabric buffers (R407). -/
def State.jobHeld (s : State) (d : BitVec 4) (job : BitVec 32) : Nat :=
  let slots (x : Port) : Nat :=
    (x.txq.filter fun y => y.dom == d && y.job == job).foldl (fun n y => n + (if y.first then 48 else 32)) 0
  (s.ports.toList.map slots).sum + ((s.net.filter fun p => p.dom == d && p.job == job).map fun p => 16 + 32 * p.nflit.toNat).sum
/-- Packets of n bytes of data in all find room: the packets that a job holds never pass 15 MiB (R406), of which the last is left
to what the firmware sends. -/
def State.netRoom (s : State) (w : Sender) (n : Nat) : Bool :=
  decide (s.jobHeld w.dom w.job + 304 * (n / 256 + 2) ≤ 14 * 2 ^ 20)

/-- The one-flit request of a load, or of an engine's read, leaves for a peer (R453); not where no up port leads there. -/
def State.askPeer (s : State) (c : Ctx) (ptr : Word) : Bool × State :=
  let peer := s.peerOf ptr
  match s.sendPacket c.sender peer (dstOf peer ptr) vcLoad [] with
  | (none, s) => (false, s)
  | (some _, s) => (true, s)

/-- Bytes of a checked access, read. Another package's bytes are free values, unless its home refuses the load, or no up port
leads there: both raise CAPF cause 0x7 (R89, R90, R435); or its line is poisoned: POISON (R116). A read that the host ends
with an error returns all ones (R429). -/
def loadBytes (r : Req) (ps : List Place) : Eff (List Byte) := fun s =>
  if fld r.ptr 60 4 = 3 then
    if !s.netRoom s.ctx.sender 0 then .error (.block .memory none)
    else
      let (sent, s) := s.askPeer s.ctx r.ptr
      let (no, s) := s.freeBool
      let (bad, s) := s.freeBool
      if no || !sent then
        .error (.trap (capf 7 (fld r.ptr 52 8) 1 r.lane r.ptr (r.ptr + BitVec.ofNat 64 (r.n - 1))))
      else if bad then .error (.trap (poisonTrap r.ptr))
      else
        let (bs, s) := s.freeBytes r.n
        .ok (ownBytes s ps bs, s)
  else if fld r.ptr 60 4 = 4 then
    let (bad, s) := s.hostAnswer s.domOf
    .ok (ownBytes s ps (if bad then List.replicate ps.length 0xFF else ps.map s.byteAt), s)
  else
    let (bs, s) := s.readPlaces ps
    .ok (ownBytes s ps bs, s)

/-- The PKTBAD record of a write of a context that its home refuses (R90, R454). -/
def refusalRec (c : Ctx) (ptr : Word) (engine : Option (BitVec 8 × Word)) : BitVec 512 :=
  mkRec { c.recF 0x83 with
    addr := ptr
    info := put 128 0 8 0x0C ||| put 128 8 8 ((engine.map fun e => e.1.toNat).getD 0xFF) |||
      put 128 64 64 ((engine.map fun e => e.2.toNat).getD 0) }

/-- One piece of a write to another package, sent for a context (R453): it is on its way, or, where no up port leads to the
peer, refused (R435): the answer tells which. -/
def State.sendPiece (s : State) (c : Ctx) (ptr : Word) (peer : BitVec 12) (engine : Option (BitVec 8 × Word)) (bs : List Byte) :
    Bool × State :=
  match s.sendPacket c.sender peer (dstOf peer ptr) (vcOf ptr) bs with
  | (none, s) => (false, s)
  | (some k, s) =>
    (true, { s with peers := s.peers ++ [{
      own := c.id, peer := peer, ptr := ptr, bytes := bs.length, engine := engine, pkt := k, job := c.bnd.job,
      rcd := refusalRec c ptr engine, dom := c.bnd.dom, queue := s.queueOf c }] })
/-- A write to another package, one packet for each piece between 256-byte boundaries of its address, in ascending order
(R453): the bytes that no packet carries. -/
def State.sendPieces (s : State) (c : Ctx) (ptr : Word) (peer : BitVec 12) (engine : Option (BitVec 8 × Word)) (bs : List Byte) :
    Nat × State :=
  (cutAt 256 ptr.toNat bs.length).foldl (init := (0, s)) fun a g =>
    let (sent, s) := a.2.sendPiece c (BitVec.ofNat 64 g.2.1) peer engine ((bs.drop g.1).take g.2.2)
    (if sent then a.1 else a.1 + g.2.2, s)

/-- A write of the context in focus leaves for a peer: PEND rises by its bytes (R140). One for a peer that no up port leads to is
refused at once: its bytes count as delivered, and PKTBAD reports it (R90, R435). -/
def State.peerSend (s : State) (ptr : Word) (peer : BitVec 12) (bs : List Byte) : State :=
  let (lost, s) := s.sendPieces s.ctx ptr peer none bs
  let s := s.modCtx fun c => { c with pend := c.pend + BitVec.ofNat 40 (bs.length - lost) }
  if lost = 0 then s else s.report s.domOf (s.queueOf s.ctx) (refusalRec s.ctx ptr none)
/-- A window-3 write leaves the package; one that would take PEND past 2^40 - 1 is held (R140), and so is one whose packets
find no room. -/
def peerWrite (ptr : Word) (peer : BitVec 12) (bs : List Byte) : Eff Unit := fun s =>
  if 2 ^ 40 - 1 < s.ctx.pend.toNat + bs.length then .error (.block .pend none)
  else if !s.netRoom s.ctx.sender bs.length then .error (.block .memory none)
  else .ok ((), s.peerSend ptr peer bs)

/-- LEASE cause 0x4 for a harvest edge pop or edge push with no region open (R233). -/
def leaseNoRegion : Eff Unit := fun s =>
  if s.ctx.id.harv ∧ s.ctx.rgns = [] then .error (.trap (lease 4 0xFF 0 0)) else .ok ((), s)
/-- LEASE cause 0x4 for a harvest store with no region open, at its lowest lane: ADDR and LAST name its first byte (R233,
R416). -/
def leaseNoStore (rs : List Req) : Eff Unit := fun s =>
  match rs with
  | [] => .ok ((), s)
  | r :: _ => if s.ctx.id.harv ∧ s.ctx.rgns = [] then .error (.trap (lease 4 r.lane r.ptr r.ptr)) else .ok ((), s)

/-- A harvest context's stores, buffered whole or not at all (R57). -/
def bufferStore (ws : List (Req × List Place × List Byte)) : Eff Unit := fun s =>
  let sb := ws.foldl (init := s.ctx.sbuf) fun sb w =>
    let away : Bool := fld w.1.ptr 60 4 == 3
    let block (k : Nat) : Word :=
      if away then w.1.ptr + BitVec.ofNat 64 k - BitVec.ofNat 64 ((w.1.ptr.toNat + k) % 64) else 0
    let peer := if away then s.peerOf w.1.ptr else 0
    ((w.2.1.zip w.2.2).zip (upTo w.2.2.length)).foldl (fun sb x => sbPut sb x.1.1 x.1.2 (block x.2) peer) sb
  if 64 < sb.length then .error (.trap (lease 3 0xFF 0 0))
  else .ok ((), s.modCtx fun c => { c with sbuf := sb })

/-- Bytes of checked accesses written, in order (R247). -/
def storeBytes (ws : List (Req × List Place × List Byte)) : Eff Unit := do
  let harv ← Eff.gets fun s => s.ctx.id.harv
  if harv then bufferStore ws
  else do
    let peer := ws.filter fun w => fld w.1.ptr 60 4 == 3
    let host := ws.filter fun w => fld w.1.ptr 60 4 == 4
    let here := ws.filter fun w => fld w.1.ptr 60 4 != 3 && fld w.1.ptr 60 4 != 4
    Eff.each peer fun w => fun s => peerWrite w.1.ptr (s.peerOf w.1.ptr) w.2.2 s
    Eff.each host fun w => Eff.mod fun s => s.hostPut s.domOf w.2.1 w.2.2
    Eff.mod fun s => s.writePlaces (here.map (·.2.1)).flatten (here.map (·.2.2)).flatten

end Sys2Proof.Machine
end

