-- ==== Sys2Proof/Machine/Operands.lean ====
section
/-! DEFINITION. Operands: registers with rotation, the operand file, the latch, zero and queues (R42-R48, R91-R94,
R191, R192), the governing predicate (R47) and token links (R37-R41). -/

namespace Sys2Proof.Machine
open Sys2Proof

/-! ## Rotation (R92) -/

/-- Physical number of a vector name. -/
def vPhys (vrb : BitVec 4) (i : Nat) : Nat := if i < 16 then i else 16 + (i - 16 + vrb.toNat) % 16
/-- Physical number of a predicate name. -/
def pPhys (prb : BitVec 3) (i : Nat) : Nat := if i < 8 then i else 8 + (i - 8 + prb.toNat) % 8

/-- Element of a vector of registers by number; numbers wrap at its size. -/
def vget {α : Type} {n : Nat} [NeZero n] (v : Vector α n) (i : Nat) : α := v.get (Fin.ofNat n i)
def vset {α : Type} {n : Nat} [NeZero n] (v : Vector α n) (i : Nat) (a : α) : Vector α n :=
  v.set (Fin.ofNat n i).val a (Fin.ofNat n i).isLt

/-! ## Queues (R42-R46, R118) -/

/-- Entries that can be popped: those no open region has popped. -/
def qLen {α : Type} (q : List (QEnt α)) : Nat := (q.filter fun e => e.mark.isNone).length
/-- The head that can be popped. -/
def qHead {α : Type} (q : List (QEnt α)) : Option α := (q.find? fun e => e.mark.isNone).map (·.val)
/-- Pop the head: outside a region it leaves, inside one it keeps its place, marked (R118, R232). -/
def qPop {α : Type} (rgn : Option (BitVec 12)) (q : List (QEnt α)) : List (QEnt α) :=
  match q with
  | [] => []
  | e :: t =>
    if e.mark.isNone then
      match rgn with
      | none => t
      | some r => { e with mark := some r } :: t
    else e :: qPop rgn t
/-- Push at the tail. -/
def qPush {α : Type} (q : List (QEnt α)) (a : α) : List (QEnt α) := q ++ [{ val := a }]

/-- The open region whose pops by the sequencer in turn are provisional (R232). -/
def State.curRgn (s : State) : Option (BitVec 12) :=
  (s.ctx.rgns.find? fun r => r.mask.getLsbD (seqCode s.turn)).map (·.num)

/-! ## Scalar operands -/

/-- Read a scalar operand; a queue specifier pops (R191, R43). -/
def rS (sp : BitVec 6) : Eff Word := fun s =>
  let i := sp.toNat
  if i < 32 then .ok (vget s.ctx.s i, s)
  else if i < 48 then .ok ((vget s.ctx.o (i - 32)).setWidth 64, s)
  else if i = 48 then .ok (s.sq.latch.setWidth 64, s)
  else if i < 56 then .ok (0, s)
  else
    let q := vget s.ctx.q (i - 56)
    match qHead q with
    | none => .error (.block .dqEmpty none)
    | some x => .ok (x, s.modCtx fun c => { c with q := vset c.q (i - 56) (qPop s.curRgn q) })

/-- The latch of the sequencer in turn takes a value (R94). -/
def State.setLatch (s : State) (v : Vec) : State := s.setSq { s.sq with latch := v }

/-- Write a scalar result without the latch: a second destination (R94). -/
def wS2 (sp : BitVec 6) (x : Word) : Eff Unit := fun s =>
  let i := sp.toNat
  if i < 32 then .ok ((), s.modCtx fun c => { c with s := vset c.s i x })
  else if i < 48 then .ok ((), s.modCtx fun c => { c with o := vset c.o (i - 32) (x.setWidth 2048) })
  else if i = 48 then .ok ((), s.setLatch (x.setWidth 2048))
  else if i < 56 then .ok ((), s)
  else
    let q := vget s.ctx.q (i - 56)
    if 8 ≤ q.length then .error (.block .dqFull none)
    else .ok ((), s.modCtx fun c => { c with q := vset c.q (i - 56) (qPush q x) })

/-- Write a scalar result to the primary destination: the latch takes it too, unless the destination is a queue. -/
def wS (sp : BitVec 6) (x : Word) : Eff Unit := fun s =>
  match wS2 sp x s with
  | .error e => .error e
  | .ok ((), s) => .ok ((), if sp.toNat < 56 then s.setLatch (x.setWidth 2048) else s)

/-- The primary destination can be written now: a full queue blocks before anything else happens (R35). -/
def readyS (sp : BitVec 6) : Eff Unit := fun s =>
  if 56 ≤ sp.toNat ∧ 8 ≤ (vget s.ctx.q (sp.toNat - 56)).length then .error (.block .dqFull none) else .ok ((), s)
/-- The same for a vector destination. -/
def readyV (sp : BitVec 6) : Eff Unit := fun s =>
  if 56 ≤ sp.toNat ∧ 4 ≤ (vget s.ctx.vq (sp.toNat - 56)).length then .error (.block .dqFull none) else .ok ((), s)

/-- Consecutive scalar registers of a group (R192). -/
def rGroup (sp : BitVec 6) (k : Nat) : Eff (List Word) := Eff.gets fun s => (upTo k).map fun j => vget s.ctx.s (sp.toNat + j)
/-- Write a group of scalar registers; the first reaches the latch (R94, R192). -/
def wGroup (sp : BitVec 6) (xs : List Word) : Eff Unit := do
  Eff.mod fun s => s.modCtx fun c =>
    { c with s := (xs.zip (upTo xs.length)).foldl (fun v x => vset v (sp.toNat + x.2) x.1) c.s }
  match xs with
  | [] => pure ()
  | x :: _ => Eff.mod fun s => s.setLatch (x.setWidth 2048)

/-! ## Vector operands -/

/-- Read a vector main-file register by name. -/
def State.vReg (s : State) (i : Nat) : Vec := vget s.ctx.v (vPhys s.sq.vrb i)

/-- Read a vector operand; a queue specifier pops one entry (R44, R191). -/
def rV (sp : BitVec 6) : Eff Vec := fun s =>
  let i := sp.toNat
  if i < 32 then .ok (s.vReg i, s)
  else if i < 48 then .ok (vget s.ctx.o (i - 32), s)
  else if i = 48 then .ok (s.sq.latch, s)
  else if i < 56 then .ok (0, s)
  else
    let q := vget s.ctx.vq (i - 56)
    match qHead q with
    | none => .error (.block .dqEmpty none)
    | some x => .ok (x, s.modCtx fun c => { c with vq := vset c.vq (i - 56) (qPop s.curRgn q) })

/-- What a vector destination holds before it is written; a queue and zero hold zeros. -/
def State.vOld (s : State) (sp : BitVec 6) : Vec :=
  let i := sp.toNat
  if i < 32 then s.vReg i
  else if i < 48 then vget s.ctx.o (i - 32)
  else if i = 48 then s.sq.latch
  else 0

/-- Write a vector main-file register by name. -/
def State.setV (s : State) (i : Nat) (x : Vec) : State := s.modCtx fun c => { c with v := vset c.v (vPhys s.sq.vrb i) x }

/-- Write a vector result in the lanes of a mask, the others keeping what they held (R48). -/
def wV2 (sp : BitVec 6) (m : Mask) (x : Vec) : Eff Unit := fun s =>
  let i := sp.toNat
  let y := mergeLanes m x (s.vOld sp)
  if i < 32 then .ok ((), s.setV i y)
  else if i < 48 then .ok ((), s.modCtx fun c => { c with o := vset c.o (i - 32) y })
  else if i = 48 then .ok ((), s.setLatch y)
  else if i < 56 then .ok ((), s)
  else
    let q := vget s.ctx.vq (i - 56)
    if 4 ≤ q.length then .error (.block .dqFull none)
    else .ok ((), s.modCtx fun c => { c with vq := vset c.vq (i - 56) (qPush q y) })

/-- The same for the primary destination, whose merged value reaches the latch (R94). -/
def wV (sp : BitVec 6) (m : Mask) (x : Vec) : Eff Unit := fun s =>
  let y := mergeLanes m x (s.vOld sp)
  match wV2 sp m x s with
  | .error e => .error e
  | .ok ((), s) => .ok ((), if sp.toNat < 56 then s.setLatch y else s)

/-- A group of vector registers (R192). -/
def rVGroup (sp : BitVec 6) (k : Nat) : Eff (List Vec) := Eff.gets fun s => (upTo k).map fun j => s.vReg (sp.toNat + j)
/-- Write lanes of a group of vector registers; the first, merged, reaches the latch. -/
def wVGroup (sp : BitVec 6) (m : Mask) (xs : List Vec) : Eff Unit := do
  let first ← Eff.gets fun s => s.vReg sp.toNat
  Eff.mod fun s => (xs.zip (upTo xs.length)).foldl (fun s x =>
    s.setV (sp.toNat + x.2) (mergeLanes m x.1 (s.vReg (sp.toNat + x.2)))) s
  match xs with
  | [] => pure ()
  | x :: _ => Eff.mod fun s => s.setLatch (mergeLanes m x first)

/-! ## Predicates -/

/-- A predicate by name, renamed; p0 reads all ones (R47, R92). -/
def State.pReg (s : State) (i : Nat) : Mask :=
  if i = 0 then BitVec.allOnes 64 else vget s.ctx.p (pPhys s.sq.prb i)
/-- Read a predicate operand; the zero specifier reads all zeros (R191). -/
def rP (sp : BitVec 6) : Eff Mask := Eff.gets fun s => if sp.toNat < 16 then s.pReg sp.toNat else 0
/-- Write a predicate without the latch; a write to p0 or zero is discarded (R47). -/
def wP2 (sp : BitVec 6) (x : Mask) : Eff Unit := Eff.mod fun s =>
  if sp.toNat = 0 ∨ 16 ≤ sp.toNat then s
  else s.modCtx fun c => { c with p := vset c.p (pPhys s.sq.prb sp.toNat) x }
/-- Write a predicate as the primary destination: its value reaches the latch (R94). -/
def wP (sp : BitVec 6) (x : Mask) : Eff Unit := do
  wP2 sp x
  Eff.mod fun s => s.setLatch (x.setWidth 2048)

/-- The governing predicate as read, after any inversion (R47). -/
def State.gov (s : State) (pred : BitVec 4) (sense : BitVec 1) : Mask :=
  let p := s.pReg pred.toNat
  if sense = 1 then ~~~p else p
/-- The scalar slot is active: bit 0 of the governing predicate (R47); an instruction that has issued in an active slot and
waits stays active, whatever its predicate has become (R35, R237). -/
def State.slotOn (s : State) (pred : BitVec 4) (sense : BitVec 1) : Bool := s.sq.sent || (s.gov pred sense).getLsbD 0
/-- The active lanes: the governing predicate without the deferred lanes (R47, R8). -/
def State.lanesOn (s : State) (pred : BitVec 4) (sense : BitVec 1) : Mask := s.gov pred sense &&& ~~~s.ctx.dmask

/-- An effect made only in an active slot (R48). -/
def whenSlot (pred : BitVec 4) (sense : BitVec 1) (e : Eff Unit) : Eff Unit := do
  let on ← Eff.gets fun s => s.slotOn pred sense
  if on then e else pure ()
/-- An effect made only when a lane is active, given the active lanes (R44, R48). -/
def whenLanes (pred : BitVec 4) (sense : BitVec 1) (e : Mask → Eff Unit) : Eff Unit := do
  let m ← Eff.gets fun s => s.lanesOn pred sense
  if m = 0 then pure () else e m
/-- The slot of a W32 form: p0-p3, uninverted (R185). -/
def whenSlot32 (f : W32) (e : Eff Unit) : Eff Unit := whenSlot (f.pred.setWidth 4) 0 e
def whenLanes32 (f : W32) (e : Mask → Eff Unit) : Eff Unit := whenLanes (f.pred.setWidth 4) 0 e

/-! ## Layout XM addresses (R188) -/

/-- Effective address and the update of a base, if the mode makes one. B of modes 1 and 3 is read once. -/
def eaXM (f : XM) : Eff (Word × Option (BitVec 6 × Word)) := do
  let a ← rS f.a
  let off := f.off.signExtend 64
  match f.am.toNat with
  | 0 => pure (a + off, none)
  | 1 => do
    let b ← rS f.b
    pure (a + b, none)
  | 2 => pure (a, some (f.a, a + off))
  | 3 => do
    let b ← rS f.b
    pure (a + b, some (f.b, b + off))
  | _ => pure (a + off, none)

/-- Make the update of a mode with one (R188). -/
def postUpd (u : Option (BitVec 6 × Word)) : Eff Unit :=
  match u with
  | none => pure ()
  | some (sp, x) => wS2 sp x

/-- Bytes of a width code (R188). -/
def widthOf (wd : BitVec 3) : Nat :=
  match wd.toNat with
  | 0 => 1 | 1 => 2 | 2 => 4 | 3 => 8 | 4 => 16 | 5 => 64 | _ => 256

/-! ## Token links (R37) -/

/-- The neighbours on the ring LD, EX, ST, SC. -/
def succOf (q : SeqId) : SeqId := seqOf (seqCode q + 1)
def predSeq (q : SeqId) : SeqId := seqOf (seqCode q + 3)

/-- Number of the link from q to its successor, then of the link from q to its predecessor, in TOKCNT order (R41). -/
def linkUp (q : SeqId) : Fin 8 :=
  match q with
  | .ld => 0 | .ex => 1 | .st => 2 | .sc => 3
def linkDown (q : SeqId) : Fin 8 :=
  match q with
  | .ex => 4 | .st => 5 | .sc => 6 | .ld => 7

/-- Links the token bits wait on: predecessor to self, successor to self (R37, R184). -/
def waitLinks (q : SeqId) (tok : BitVec 4) : List (Fin 8) :=
  (if tok.getLsbD 0 then [linkUp (predSeq q)] else []) ++ (if tok.getLsbD 2 then [linkDown (succOf q)] else [])
/-- Links the token bits signal: self to predecessor, self to successor. -/
def signalLinks (q : SeqId) (tok : BitVec 4) : List (Fin 8) :=
  (if tok.getLsbD 1 then [linkDown q] else []) ++ (if tok.getLsbD 3 then [linkUp q] else [])

/-- Take n tokens from each link, all or none (R37, R230). -/
def takeTokens (tok : Vector (BitVec 4) 8) (ls : List (Fin 8)) (n : Nat) : Option (Vector (BitVec 4) 8) :=
  if ls.all fun l => n ≤ (tok.get l).toNat then
    some (ls.foldl (fun t l => t.set l.val (t.get l - BitVec.ofNat 4 n) l.isLt) tok)
  else none

/-- The wait cause when the links cannot give n tokens: the predecessor's link is named first (R63). -/
def tokenWait (tok : Vector (BitVec 4) 8) (q : SeqId) (bits : BitVec 4) (n : Nat) : Wait :=
  if bits.getLsbD 0 ∧ (tok.get (linkUp (predSeq q))).toNat < n then .tokPred else .tokSucc

/-- Make the held signals whose links have room; the others stay held (R39, R230). -/
def makeSignals (c : Ctx) (q : SeqId) : Ctx :=
  let x := c.seqs.get q
  let fits (t : Vector (BitVec 4) 8) (h : Fin 8 × Nat) : Bool := (t.get h.1).toNat + h.2 ≤ 15
  let t := (x.held.filter (fits c.tok)).foldl (fun t h => t.set h.1.val (t.get h.1 + BitVec.ofNat 4 h.2) h.1.isLt) c.tok
  { c with tok := t, seqs := c.seqs.set q { x with held := x.held.filter fun h => !fits c.tok h } }

end Sys2Proof.Machine
end

