-- ==== Sys2Proof/Machine/Tasks.lean ====
section
/-! DEFINITION. Buffers and their counts (R79-R83), job control blocks (R76-R78), edge queues (R68-R70), tasks (R75),
status entries (R393) and wake writes (R264). -/

namespace Sys2Proof.Machine
open Sys2Proof

/-! ## Reference counts (R81, R82) -/

/-- One more reference. -/
def RegEnt.inc (e : RegEnt) : RegEnt := { e with refcnt := e.refcnt + 1 }
/-- The buffer is freed: LIVE clears and GEN rises, or RETIRED is set at the wrap (R81). -/
def RegEnt.free (e : RegEnt) : RegEnt :=
  if e.gen = BitVec.allOnes 16 then { e with live := false, retired := true, refcnt := 0, rtref := false }
  else { e with live := false, gen := e.gen + 1, refcnt := 0, rtref := false }
/-- One reference fewer; the change to 0 frees the buffer (R81). -/
def RegEnt.dec (e : RegEnt) : RegEnt := if e.refcnt ≤ 1 then e.free else { e with refcnt := e.refcnt - 1 }

/-- Change the registry entry of a live buffer at a generation. -/
def State.modReg (s : State) (d : BitVec 4) (name : BitVec 32) (gen : BitVec 16) (f : RegEnt → RegEnt) : State :=
  s.modDom d fun x => { x with reg := x.reg.map fun e => if e.name = name && e.gen = gen && e.live then f e else e }

/-- Count a copy of a capability at its home; an imported one is counted at the exporting home (R81, R256). -/
def State.incRef (s : State) (d : BitVec 4) (c : BitVec 128) : State :=
  if capImp c then s else s.modReg d (capName c) (capGen c) RegEnt.inc
/-- Drop a copy's reference; a stale copy changes no count (R82). -/
def State.decRef (s : State) (d : BitVec 4) (c : BitVec 128) : State :=
  if capImp c || capStale c then s else s.modReg d (capName c) (capGen c) RegEnt.dec
/-- A further reference would pass 2^32 - 1 (R81). The count of an imported capability stands at its exporting home,
whose answer is free here. -/
def State.refFull (s : State) (d : BitVec 4) (c : BitVec 128) : Bool × State :=
  if capImp c then s.freeBool
  else match (s.dom d).regOf (capName c) with
    | some e => (e.refcnt == BitVec.allOnes 32, s)
    | none => (false, s)

/-! ## Status entries and wake writes -/

/-- A status entry before the arbiter stamps it (R393). -/
def mkStatus (tag : BitVec 32) (op status : Nat) (result : Word) : BitVec 256 :=
  put 256 0 32 tag.toNat ||| put 256 32 8 op ||| put 256 40 8 status ||| put 256 64 64 result.toNat

/-- Room in the status ring by the count that the device read last; where that says full, it reads STHEAD again (R385). -/
def State.stLook (s : State) (d : BitVec 4) (x : SubQ) : Bool × State :=
  if (x.sttail - x.sthead).toNat < 2 ^ x.n then (true, s)
  else
    let (v, s) := s.readIdx d x.ctl 0x0C
    (decide ((x.sttail - v).toNat < 2 ^ x.n), s.modQ d x.num fun y => { y with sthead := v })
/-- The status ring has room (R385). -/
def State.stRoom (s : State) (d : BitVec 4) (x : SubQ) : Bool := (s.stLook d x).1

/-- Write a status entry, stamped, to a queue's status ring; with no room it waits (R387, R393). -/
def State.putStatus (s : State) (d : BitVec 4) (q : BitVec 6) (e : BitVec 256) : State :=
  match s.findQ d q with
  | none => s
  | some x =>
    let (room, s) := if x.stwait.isEmpty then s.stLook d x else (false, s)
    if room then
      let ((n, g), s) := s.arbitrate
      let e := setFld (setFld e 128 64 n.toNat) 192 64 g.toNat
      let s := s.writeHost d (x.stat.toNat + 32 * (x.sttail.toNat % 2 ^ x.n)) (toBytes e)
      let s := s.modQ d q fun y => { y with sttail := y.sttail + 1 }
      (s.putIdx d x.ctl 0x08 (x.sttail + 1)).queueIrq d q
    else s.modQ d q fun y => { y with stwait := y.stwait ++ [e] }

/-- A wake write into the package: the wake word of a domain's carve (R262, R264). -/
def State.wakeLocal (s : State) (d : BitVec 4) (idx : Nat) (v : Word) : State := s.writeCarve d (8 * idx) (toBytes v)

/-- A wake write made for a domain and job at a window-5 pointer. One that names another package leaves over the fabric: for a
context, whose eight bytes are counted for it (R140, R264) unless no up port leads there (R435); otherwise for the SCH. A
pointer that is not of window 5, or whose index is at or above WAKEN, has no wake word: nothing is written (log entry 44). -/
def State.wakeWrite (s : State) (d : BitVec 4) (job : BitVec 32) (c : Option Ctx) (ptr v : Word) : State :=
  let pkg := fld ptr 48 12
  if fld ptr 60 4 ≠ 5 then s
  else if pkg = 0xFFF ∨ pkg = s.pkg.pkgno.toNat then
    if fld ptr 3 45 < (s.dom d).waken then s.wakeLocal d (fld ptr 3 45) v else s
  else match c with
    | none => (s.sendPacket { dom := d, job := job, src := 27 } (fldv ptr 48 12) none (vcOf ptr) (toBytes v)).2
    | some c =>
      let (lost, s) := s.sendPieces c ptr (fldv ptr 48 12) none (toBytes v)
      if lost = 0 then s.mapCtxs fun k => if k.id = c.id then { k with pend := k.pend + 8 } else k
      else s.report c.bnd.dom (s.queueOf c) (refusalRec c ptr none)

/-! ## Job control blocks (R76-R78) -/

def State.jcb (s : State) (b : BitVec 12) : Option Jcb := sget none s.jcbs b.toNat
def State.setJcb (s : State) (b : BitVec 12) (j : Option Jcb) : State := { s with jcbs := sput none s.jcbs b.toNat j }

/-- C equals E: DONE, DONEGTS, the wake write and the completion entry (R78). -/
def State.jcbDone (s : State) (b : BitVec 12) (j : Jcb) : State :=
  let s := s.setJcb b (some { j with done := true, donegts := s.gts })
  let s := if j.wake = 0 then s else s.wakeWrite j.dom j.job none j.wake (j.count.setWidth 64)
  s.putStatus j.dom j.queue (mkStatus j.job 0x80 0 (BitVec.ofNat 64 (b.toNat + j.count.toNat * 2 ^ 16)))

/-- One completion posted to a block that is not DONE (R77, R78). -/
def State.jcbPost (s : State) (b : BitVec 12) (j : Jcb) : State :=
  let j := { j with count := j.count + 1 }
  if j.count = j.expect then s.jcbDone b j else s.setJcb b (some j)

/-- An automatic post: discarded with a QERR record when DONE is set, or when the block is not live (R76, R78). -/
def State.autoPost (s : State) (b : BitVec 12) (c : Ctx) : State :=
  match s.jcb b with
  | none => s.qerrBlock c b
  | some j => if j.done then s.qerrBlock c b else s.jcbPost b j

/-! ## Tasks (R75, R78, R81) -/

/-- An end performed for the context in focus. The automatic post of a task whose block has been freed is none (R76). -/
def State.performEnd (s : State) (e : HeldEnd) : State :=
  match e with
  | .auto b => if (s.jcb b).isSome then s.autoPost b s.ctx else s
  | .join b => s.autoPost b s.ctx
  | .drop c => s.decRef s.domOf c
/-- Ends performed now, or, in an open harvest region, held back until it commits (R57, log entry 45). -/
def State.makeEnds (s : State) (es : List HeldEnd) : State :=
  if s.ctx.id.harv ∧ s.ctx.rgns ≠ [] then s.modCtx fun c => { c with ends := c.ends ++ es } else es.foldl State.performEnd s

/-- What the end of a context's task brings: its automatic post, and a drop of every slot installed in it. -/
def Ctx.taskEnds (c : Ctx) : List HeldEnd :=
  match c.task with
  | none => []
  | some t =>
    (match t.jcb with
      | some b => if t.posted then [] else [HeldEnd.auto b]
      | none => []) ++
    c.table.filterMap fun e => match e.2 with
      | some x => if x.inst then some (HeldEnd.drop x.cap) else none
      | none => none

/-- The task of the context in focus ends: its automatic post, and a drop of every slot installed in it. -/
def State.endTask (s : State) : State :=
  match s.ctx.task with
  | none => s
  | some _ =>
    (s.makeEnds s.ctx.taskEnds).modCtx fun c => { c with
      task := none
      table := c.table.filter fun e => match e.2 with
        | some x => !x.inst
        | none => false }

/-! ## Edge queues (R68-R70) -/

def Edge.depth (e : Edge) : Nat := 2 ^ e.log2d
def Edge.free (e : Edge) : Nat := e.depth - e.slots.length
/-- Position of the slot the next pop takes: the first published one before any unpublished one. -/
def popAt : List ESlot → Option Nat
  | [] => none
  | .published :: _ => some 0
  | .reserved :: _ => none
  | _ :: t => (popAt t).map (· + 1)
/-- Published records that can be popped before an unpublished slot. -/
def fillOf : List ESlot → Nat
  | [] => 0
  | .reserved :: _ => 0
  | .published :: t => fillOf t + 1
  | _ :: t => fillOf t
def Edge.fill (e : Edge) : Nat := fillOf e.slots
/-- EDGESTAT (R68). -/
def Edge.stat (e : Edge) : Word := put 64 0 17 e.free ||| put 64 17 17 e.fill ||| put 64 34 17 (e.slots.length - e.fill)
/-- Slots at the head whose records are gone pass to FREE, in order (R70). -/
def trimSlots (head depth : Nat) : List ESlot → Nat × List ESlot
  | .behind :: t => trimSlots ((head + 1) % depth) depth t
  | l => (head, l)
def Edge.trim (e : Edge) : Edge :=
  let (h, l) := trimSlots e.head e.depth e.slots
  { e with head := h, slots := l }
/-- Ring offset in the carve of the i-th slot from the head (R67, R68). -/
def Edge.slotAddr (e : Edge) (i : Nat) : Nat := e.ring.toNat + 64 * ((e.head + i) % e.depth)

def State.graph (s : State) (d : BitVec 4) (g : BitVec 32) : Option Graph := (s.dom d).graphs.find? fun x => x.id == g
def State.modGraph (s : State) (d : BitVec 4) (g : BitVec 32) (f : Graph → Graph) : State :=
  s.modDom d fun x => { x with graphs := x.graphs.map fun y => if y.id = g then f y else y }
def State.edge (s : State) (d : BitVec 4) (e : EdgeId) : Option Edge :=
  match s.graph d e.graph with
  | none => none
  | some g => g.edges.find? fun x => x.num == e.num
def State.modEdge (s : State) (d : BitVec 4) (e : EdgeId) (f : Edge → Edge) : State :=
  s.modGraph d e.graph fun g => { g with edges := g.edges.map fun x => if x.num = e.num then f x else x }

/-- The edge of an input or output port of the context in focus (R66). -/
def State.portEdge (s : State) (out : Bool) (port : Nat) : EdgeId :=
  { graph := s.ctx.bnd.graph, num := ((if out then s.ctx.bnd.outE else s.ctx.bnd.inE).getD port 0xFFFF) }

/-- The 64 bytes of the i-th slot from the head. -/
def State.slotRec (s : State) (d : BitVec 4) (e : Edge) (i : Nat) : BitVec 512 :=
  ofBytes 512 (s.carveBytes d (e.slotAddr i) 64)

/-- Row and position of a context in the slot table's order (R395). -/
def slotOrder (c : CtxId) : Nat :=
  (c.loc.sock.toNat * 128 + c.loc.core.toNat * 8 + c.loc.part.toNat) * 8 + c.pos.toNat + (if c.harv then 4 else 0)

/-- A context of a domain waits for a record of an edge. -/
def popsOn (c : Ctx) (d : BitVec 4) (e : EdgeId) : Bool := c.bnd.dom == d && c.seqs.sc.wait == .edge e.graph e.num false
/-- It sleeps on the pop (R54). -/
def sleepsOn (c : Ctx) (d : BitVec 4) (e : EdgeId) : Bool :=
  (c.cst == .sleep || (c.cst == .parked && c.was == .sleep)) && popsOn c d e
/-- Its pop is tried again. -/
def Ctx.popAgain (c : Ctx) : Ctx := { c with seqs := { c.seqs with sc := { c.seqs.sc with wait := .none } } }

/-- A record has come to an edge: it wakes at most one sleeper, the first in slot-table order, and contexts that wait for one
without sleeping try their pop again (R54, R55). -/
def State.wakeSleeper (s : State) (d : BitVec 4) (e : EdgeId) : State :=
  let cs := s.ctxs.filter fun c => sleepsOn c d e
  let first := match cs with
    | [] => none
    | c0 :: _ => some (cs.foldl (fun (a b : Ctx) => if slotOrder b.id < slotOrder a.id then b else a) c0).id
  s.mapCtxs fun (x : Ctx) =>
    if some x.id = first then wakeCtx x.popAgain
    else if popsOn x d e && !sleepsOn x d e then x.popAgain
    else x

/-- Reserve the tail slot, write the record, publish it and wake a sleeper (R69, R54). The slot exists. -/
def State.pushEdge (s : State) (d : BitVec 4) (e : EdgeId) (r : BitVec 512) : State :=
  match s.edge d e with
  | none => s
  | some x =>
    let s := s.writeCarve d (x.slotAddr x.slots.length) (toBytes r)
    let s := s.modEdge d e fun y => { y with slots := y.slots ++ [.published] }
    s.wakeSleeper d e

/-- Take the record of the i-th slot: an owner releases it, a harvest context holds it (R70). -/
def State.takeSlot (s : State) (d : BitVec 4) (e : EdgeId) (i : Nat) (c : CtxId) : State :=
  s.modEdge d e fun y =>
    ({ y with slots := y.slots.set i (if c.harv then .held c else .behind), popped := y.popped + 1 }).trim

/-- The edges whose records a context holds, one for each record. -/
def State.heldOn (s : State) (d : BitVec 4) (c : CtxId) : List EdgeId :=
  ((s.dom d).graphs.map fun g => (g.edges.map fun e =>
    (e.slots.filter fun y => y == ESlot.held c).map fun _ => { graph := g.id, num := e.num }).flatten).flatten

/-- A harvest region commits or restarts: its held slots are released, or returned as records that have come again (R70,
R54). -/
def State.settleSlots (s : State) (d : BitVec 4) (c : CtxId) (commit : Bool) : State :=
  let back := if commit then [] else s.heldOn d c
  back.foldl (fun s e => s.wakeSleeper d e) <| s.modDom d fun x => { x with graphs := x.graphs.map fun g => { g with edges := g.edges.map fun e =>
    let back := (e.slots.filter fun y => y == ESlot.held c).length
    ({ e with
      slots := e.slots.map fun y => if y = ESlot.held c then (if commit then .behind else .published) else y
      popped := if commit then e.popped else e.popped - back }).trim } }

/-! ## Work records (R74) -/

def recJcb (r : BitVec 512) : BitVec 12 := fldv r 0 12
def recJcbv (r : BitVec 512) : Bool := bitAt r 12
def recNcap (r : BitVec 512) : Nat := fld r 13 2
def recSlot (r : BitVec 512) (n : Nat) : BitVec 8 := fldv r (16 + 8 * n) 8
def recCap (r : BitVec 512) (n : Nat) : BitVec 128 := fldv r (64 + 128 * n) 128
/-- A reserved bit of the header is set. -/
def recReserved (r : BitVec 512) : Bool := bitAt r 15 || fld r 40 8 ≠ 0

/-- Two of the slots that a record names are equal. -/
def recTwice (r : BitVec 512) : Option (BitVec 8) :=
  ((upTo (recNcap r)).find? fun n => (upTo n).any fun m => recSlot r m == recSlot r n).map (recSlot r)

/-- A capability as a pop installs it: STALE when its generation is not the registry's (R83). The registry of an imported one
stands at its exporting home, whose answer is free here. -/
def State.installed (s : State) (c : BitVec 128) : Slot × State :=
  let (stale, s) := if capImp c then s.freeBool else (!(s.dom s.domOf).liveCap c, s)
  ({ cap := if stale then setFld c 57 1 1 else c, tmpl := false, inst := true }, s)

/-- Install the record's capabilities at their slots. -/
def State.installRec (s : State) (r : BitVec 512) : State :=
  (upTo (recNcap r)).foldl (init := s) fun s n =>
    let (x, s) := s.installed (recCap r n)
    s.modCtx fun c => c.setSlot (recSlot r n) (some x)

/-- The buffer table of a new task: the template as bound, overridden by the record (R83). -/
def State.loadTable (s : State) (r : BitVec 512) : State :=
  let put (t : Sparse (Option Slot)) (x : BitVec 8 × BitVec 128) :=
    sput none t x.1.toNat (some { cap := x.2, tmpl := true, inst := false })
  (s.modCtx fun c => { c with table := c.bnd.tmpl.foldl put [] }).installRec r

end Sys2Proof.Machine
end

