-- ==== Sys2Proof/Machine/Issue.lean ====
section
/-! DEFINITION. Issuing one instruction: the decode checks of R198 that need the machine, token waits and signals,
waits, page faults (R117-R120) and idempotent regions (R118, R231, R232). -/

namespace Sys2Proof.Machine
open Sys2Proof

/-! ## The decode checks of R198 -/

/-- Scratchpad banks of a class (R97). -/
def banksOf (cls : Nat) : Nat := if cls = 1 then 64 else 32

/-- The opcode exists on the class of the core in focus (R272, R300). -/
def onCore (cls : Nat) (sh : Shape) : Bool :=
  match sh with
  | .bad _ _ => false
  | .xr op _ | .xe op _ =>
    let n := op.toNat
    if 0xB0 ≤ n ∧ n ≤ 0xBB then cls == 4
    else if 0xC0 ≤ n ∧ n ≤ 0xCF then cls == 1 || cls == 2
    else if 0xD0 ≤ n ∧ n ≤ 0xD7 then cls == 2
    else if 0xDB ≤ n ∧ n ≤ 0xDD then cls == 7
    else true
  | _ => true

/-- A control-register number of the map of R268. -/
def crKnown (cls : Nat) (cr : BitVec 12) : Bool :=
  let n := cr.toNat
  n ≤ 0x00A || (0x100 ≤ n && n < 0x100 + banksOf cls) || (0x140 ≤ n && n ≤ 0x17F)

/-- The core in focus has an engine queue (R143, R330). -/
def hasQueue (cls q : Nat) : Bool :=
  match q with
  | 0 => true
  | 1 => cls == 1 || cls == 2
  | 2 => cls == 2
  | 3 => cls == 7
  | _ => true

/-- The refused values that depend on the kernel, the node or the core, with their BIT (cause 0x7). The spec states the port
bound for pops and pushes only; that estat is refused in the same way is the model's choice (log entry 46). -/
def dynBad (s : State) (i : Instr) : Option Nat :=
  let port (x : BitVec 12) (n : Nat) : Option Nat := if n ≤ fld x 0 2 then some 52 else none
  let listed (n : BitVec 12) : Bool := s.ctx.bnd.rgns.any fun r => r.1 == n && r.2.getLsbD (seqCode s.turn)
  match i with
  | .crr f | .crw f => if crKnown s.cls f.x then none else some 52
  | .eget f | .ejoin f | .etry f => port f.x s.ctx.bnd.inE.length
  | .eput f | .eputs f => port f.x s.ctx.bnd.outE.length
  | .estat f => port f.x (if f.f.getLsbD 0 then s.ctx.bnd.outE.length else s.ctx.bnd.inE.length)
  | .mscl _ => if s.cls = 1 then none else some 6
  | .rgnb f => if listed f.x && s.sq.rgn.isNone then none else some 52
  | .rgne f => if listed f.x && s.sq.rgn == some f.x then none else some 52
  | _ => none

/-- The dictionary entry of a parcel (R194): bank 0 for owners, 1 for harvest contexts. -/
def State.dictEntry (s : State) (n : BitVec 10) : Word := sget 0 (if s.ctx.id.harv then s.core.dict1 else s.core.dict0) n.toNat

/-- FMT of R199 and R416. -/
def fmtOf (s : State) (sh : Shape) : Nat := if s.parcel.isSome then 2 else if sh.len = 8 then 1 else 0

/-- An ILLOP of the instruction, its word as decoded: the entry for a parcel (R199). -/
def illopOf (s : State) (sh : Shape) (cause bit : Nat) : Trap :=
  match s.parcel with
  | some n => illop cause 2 n.toNat bit (s.dictEntry n)
  | none => illop cause (if sh.len = 8 then 1 else 0) 0 bit (wordOf sh)

/-- The first decode check that fails, in the order of R198. -/
def decodeTrap (s : State) (sh : Shape) (c : Checks) (dyn : Option Nat) : Option Trap :=
  if !onCore s.cls sh then some (illopOf s sh 1 0xFF)
  else if !sh.mayIssue s.turn then some (illopOf s sh 6 0xFF)
  else match firstBad c.z with
  | some b => some (illopOf s sh 2 b)
  | none =>
  match firstBad c.e with
  | some b => some (illopOf s sh 7 b)
  | none =>
  match dyn with
  | some b => some (illopOf s sh 7 b)
  | none =>
  match c.o.findSome? Opnd.refused with
  | some b => some (illopOf s sh 3 b)
  | none =>
  match c.o.findSome? Opnd.beyond with
  | some b => some (illopOf s sh 8 b)
  | none =>
  match c.o.findSome? Opnd.tile with
  | some b => if s.cls = 1 ∨ s.cls = 2 then none else some (illopOf s sh 9 b)
  | none => none

/-! ## Waits and SLEEP (R55) -/

/-- The first signal that a sequencer holds because its link stands too high (R39, R230). -/
def Seqr.heldUp (x : Seqr) (tok : Vector (BitVec 4) 8) : Option (Fin 8) :=
  (x.held.find? fun h => decide (15 < (tok.get h.1).toNat + h.2)).map (·.1)
/-- The sequencer is halted, stopped or waits, or a signal that it cannot make holds it. -/
def Seqr.stopped (x : Seqr) (tok : Vector (BitVec 4) 8) : Bool :=
  match x.run with
  | .running => x.wait != .none || (x.heldUp tok).isSome
  | _ => true
/-- It waits on an edge pop or an address wait, a parked page among them (R55, R120). -/
def Seqr.sleeps (x : Seqr) : Bool :=
  match x.run, x.wait with
  | .running, .edge _ _ false => true
  | .running, .addr _ _ _ _ _ _ => x.woke.isNone
  | .running, .page _ => true
  | .running, .slot _ => true
  | _, _ => false
/-- A running context whose sequencers are all stopped, one of them asleep, enters SLEEP (R55). -/
def Ctx.settle (c : Ctx) : Ctx :=
  if c.cst = .run ∧ (allSeqs.all fun q => (c.seqs.get q).stopped c.tok) ∧ (allSeqs.any fun q => (c.seqs.get q).sleeps) then
    { c with cst := .sleep }
  else c

/-- A wait on a coupling inside the context (R63): an instruction that meets one has not issued (R35). -/
def Wait.internal : Wait → Bool
  | .tokPred => true
  | .tokSucc => true
  | .dqEmpty => true
  | .dqFull => true
  | .boEmpty => true
  | .boFull => true
  | _ => false
/-- A blocked instruction: tokens, queues and program counter as before it, the wait recorded; what else it may leave stands
(R35, R41). Free values it drew are not drawn again. One that waits for anything but an operand, a token or a page has issued;
one that waits for a page is executed again (R120). -/
def State.blocked (s : State) (keep : State) (w : Wait) : State :=
  let keep := { keep with parcel := none, fresh := keep.fresh + 1 }
  let sent := match w with
    | .page _ => false
    | _ => s.sq.sent || !w.internal
  let x := { keep.sq with pc := s.sq.pc, wait := w, timed := false, sent := sent }
  (keep.setSq x).modCtx fun c => Ctx.settle { c with tok := s.ctx.tok, q := s.ctx.q, vq := s.ctx.vq, bo := s.ctx.bo }

/-! ## Idempotent regions -/

/-- The checkpoint of the context as it stands (R118, R171). -/
def Ctx.checkpoint (c : Ctx) : Checkpoint :=
  { seqs := c.seqs, tok := c.tok, q := c.q, vq := c.vq, bo := c.bo, srs := c.srs, task := c.task, table := c.table }
/-- A sequencer of a checkpoint restored over one that has gone on: the line it issued from last and its last shares stay what
they are (R333), and a push that it was waiting to make stands only if it has not been made since (R237). -/
def resumed (now then_ : Seqr) : Seqr :=
  { then_ with sent := false, fetch := now.fetch, uses := now.uses, pushing := if now.pushing = then_.pushing then then_.pushing else none }
/-- A checkpoint restored; registers keep what they hold (R118). -/
def Ctx.restore (c : Ctx) (k : Checkpoint) : Ctx :=
  { c with seqs := k.seqs.map fun q x => resumed (c.seqs.get q) x, tok := k.tok, q := k.q, vq := k.vq, bo := k.bo, srs := k.srs }

/-- A region's listed sequencers. -/
def listedSeqs (m : BitVec 4) : List SeqId := allSeqs.filter fun q => m.getLsbD (seqCode q)

/-- When every listed sequencer has executed its rgnb, the region opens and its checkpoint is recorded (R232). -/
def Ctx.tryOpen (c : Ctx) (n : BitVec 12) (m : BitVec 4) : Ctx :=
  if (listedSeqs m).all fun q => (c.seqs.get q).atB && (c.seqs.get q).rgn == some n then
    let c := { c with seqs := c.seqs.map fun q x => if m.getLsbD (seqCode q) then { x with atB := false, wait := .none } else x }
    { c with rgns := { num := n, mask := m, chk := c.checkpoint } :: c.rgns }
  else c

/-- A sequencer has executed the rgnb of a region (R232). -/
def Ctx.openAt (c : Ctx) (q : SeqId) : Ctx :=
  match (c.seqs.get q).rgn with
  | none => c
  | some n => match c.bnd.rgns.find? fun r => r.1 == n with
    | none => c
    | some r => c.tryOpen n r.2

/-- Release the provisional pops of a region (R232). -/
def unmark {α : Type} (n : BitVec 12) (q : List (QEnt α)) : List (QEnt α) := q.filter fun e => !(e.mark == some n)

/-- A region commits in the context: its pops are released and its sequencers go on (R232). -/
def Ctx.commitRgn (c : Ctx) (n : BitVec 12) (m : BitVec 4) : Ctx :=
  let go (q : SeqId) (x : Seqr) : Seqr :=
    if m.getLsbD (seqCode q) then { x with atE := false, rgn := none, wait := .none } else x
  { c with
    q := c.q.map (unmark n), vq := c.vq.map (unmark n), bo := unmark n c.bo
    rgns := c.rgns.filter fun r => r.num ≠ n
    seqs := c.seqs.map go }

/-- Every listed sequencer has executed its rgne. -/
def Ctx.allAtEnd (c : Ctx) (n : BitVec 12) (m : BitVec 4) : Bool :=
  (listedSeqs m).all fun q => (c.seqs.get q).atE && (c.seqs.get q).rgn == some n

/-- The commit of a region settles what a sequencer has held back: the region lists it, or no other open one does. -/
def Ctx.settles (c : Ctx) (n : BitVec 12) (m : BitVec 4) (q : SeqId) : Bool :=
  m.getLsbD (seqCode q) || !(c.rgns.any fun r => r.num != n && r.mask.getLsbD (seqCode q))
/-- Bytes that the buffered stores write to other packages. -/
def Ctx.sbufPeer (c : Ctx) : Nat :=
  ((c.sbuf.filter fun e => e.sp == .peer).map fun e => popCount e.mask).foldl (· + ·) 0
/-- The bytes fit PEND (R140). -/
def Ctx.pendFits (c : Ctx) : Bool := decide (c.pend.toNat + c.sbufPeer ≤ 2 ^ 40 - 1)
/-- Buffered pushes to each edge fit its free slots (R70). -/
def State.pushesFit (s : State) : Bool :=
  s.ctx.pushes.all fun p =>
    match s.edge s.domOf p.edge with
    | some e => (s.ctx.pushes.filter fun x => x.edge == p.edge).length ≤ e.free
    | none => false

/-- The buffered runs of one block: first byte and bytes of each. -/
def maskRuns (m : BitVec 64) : Nat → Nat → List (Nat × Nat)
  | 0, _ => []
  | k + 1, i =>
    if !m.getLsbD i then maskRuns m k (i + 1)
    else match maskRuns m k (i + 1) with
      | (j, n) :: t => if j = i + 1 then (i, n + 1) :: t else (i, 1) :: (j, n) :: t
      | [] => [(i, 1)]
/-- One block of buffered stores performed (R57). -/
def State.performBlock (s : State) (e : SbEnt) : State :=
  let bs := (upTo 64).filter fun k => e.mask.getLsbD k
  let ps := bs.map e.place
  let vs : List Byte := bs.map fun k => fldv e.data (8 * k) 8
  match e.sp with
  | .host => s.hostPut s.domOf ps vs
  | .peer =>
    (maskRuns e.mask 64 0).foldl (init := s) fun s r =>
      s.peerSend (e.ptr + BitVec.ofNat 64 r.1) e.peer ((upTo r.2).map fun k => fldv e.data (8 * (r.1 + k)) 8)
  | _ => s.writePlaces ps vs
/-- The commit of a harvest region: buffered stores in the order their blocks were taken, held pops released, ends of tasks
and posts made, pushes reserved and published together after the core's update-only lines are merged, transferred slots
emptied (R57, R70, R72, R139, R237). What has been committed no restart of another region undoes. -/
def State.harvestCommit (s : State) (n : BitVec 12) (m : BitVec 4) : State :=
  let d := s.domOf
  let s := if s.ctx.settles n m .st then (s.ctx.sbuf.foldl State.performBlock s).modCtx fun c => { c with sbuf := [] } else s
  let s := if s.ctx.settles n m .sc then
      let s := s.settleSlots d s.ctx.id true
      let s := s.ctx.ends.foldl State.performEnd s
      let s := if s.ctx.pushes = [] then s else s.mergeOwn
      let s := s.ctx.pushes.foldl (init := s) fun s p =>
        (p.xfer.foldl (fun s k => s.modCtx fun c => c.setSlot k none) s).pushEdge d p.edge p.bits
      s.modCtx fun c => { c with
        pushes := [], ends := []
        rgns := c.rgns.map fun r => { r with chk := { r.chk with task := c.task, table := c.table } } }
    else s
  s.modCtx fun c => c.commitRgn n m

/-- What a harvest region's restart undoes outside its registers: buffered stores and pushes, counted shares, provisional
pops with the task and the table they made, and what was held back (R58, R237). -/
def State.harvestUndo (s : State) : State :=
  let s := (s.ctx.pushes.map (·.shares)).flatten.foldl (fun s c => s.decRef s.domOf c) s
  let s := s.settleSlots s.domOf s.ctx.id false
  s.modCtx fun c =>
    let c := { c with sbuf := [], pushes := [], ends := [] }
    match c.rgns.getLast? with
    | some r => { c with task := r.chk.task, table := r.chk.table }
    | none => c

/-- The shares of a push that a sequencer waits to make, when the checkpoint does not hold that push (R237). -/
def lostShares (now then_ : Seqr) : List (BitVec 128) :=
  if now.pushing = then_.pushing then [] else (now.pushing.map (·.shares)).getD []
/-- The open regions abort and the oldest checkpoint is restored; that region stands open again (R118, R120). -/
def State.abortRgn (s : State) : State :=
  match s.ctx.rgns.getLast? with
  | none => s
  | some r =>
    let s := if s.ctx.id.harv then s.harvestUndo else s
    let made := (allSeqs.map fun q => lostShares (s.ctx.seqs.get q) (r.chk.seqs.get q)).flatten
    let s := made.foldl (fun s c => s.decRef s.domOf c) s
    s.modCtx fun c => { c.restore r.chk with rgns := [{ r with dirty := false }] }

/-- A page fault (R120, R233): an owner in a clean region and a harvest context in a region abort it and wait whole;
otherwise the faulting sequencer alone waits at its instruction. Where several regions of the context are open, the rule's "the
region" is all of them: they abort together, to the oldest checkpoint, when every one is clean, whether or not one lists the
faulting sequencer (log entry 47). -/
def State.pageFault (s keep : State) (va : BitVec 52) : State :=
  let back := s.blocked keep (.page va)
  if s.ctx.rgns ≠ [] ∧ (s.ctx.id.harv ∨ s.ctx.rgns.all fun r => !r.dirty) then
    let stop (_ : SeqId) (x : Seqr) : Seqr := if x.run = .running then { x with wait := .page va } else x
    back.abortRgn.modCtx fun c => Ctx.settle { c with
      seqs := c.seqs.map stop
      cst := if c.cst = .sleep then .run else c.cst }
  else back

/-! ## Issue -/

/-- Tokens each token bit moves: n for tokn, otherwise one (R37, R230). -/
def tokCount (sh : Shape) : Nat :=
  match sh with
  | .xr 0x2F f => fld f.x 0 4
  | _ => 1

/-- A saturating step of a validation counter (R363). -/
def Ctx.count (c : Ctx) (n : Nat) (by_ : Nat) : Ctx :=
  { c with vblk := vset c.vblk n (BitVec.ofNat 32 (sat32 (vget c.vblk n).toNat by_)) }

/-- After a coupling may have changed, every sequencer that waits on one evaluates its wait again. -/
def Seqr.recheck (x : Seqr) : Seqr := if x.wait.internal then { x with wait := .none } else x

/-- An instruction completes: its signals are made or held, its waits are over, a sleeping context runs (R37-R39). -/
def State.finish (s : State) (q : SeqId) (sig : List (Fin 8)) (n : Nat) : State :=
  let seqs := s.ctx.seqs.map fun _ => Seqr.recheck
  let x := seqs.get q
  let x := { x with
    held := x.held ++ sig.map fun l => (l, n)
    wait := if x.atB || x.atE then .marker else .none
    woke := none, timed := false, sent := false, pushing := none, skip := false, wpos := none, wva := none }
  let c := { s.ctx with seqs := seqs.set q x, cst := if s.ctx.cst = .sleep then .run else s.ctx.cst }
  let c := if x.atB then c.openAt q else c
  let c := if (c.seqs.get q).atB || (c.seqs.get q).atE then c else makeSignals c q
  { s with parcel := none, ctx := (c.count 14 1).settle }

/-- The state in which an instruction takes effect: tokens consumed, program counter at the next instruction. -/
def State.started (s : State) (tok : Vector (BitVec 4) 8) (len : Nat) : State :=
  { s with ctx := { s.ctx with
    tok := tok
    seqs := s.ctx.seqs.set s.turn { s.sq with pc := s.sq.pc + BitVec.ofNat 52 len, uses := [] } } }

/-- What becomes of an instruction's effect. -/
def State.conclude (s : State) (sh : Shape) (r : Except Stop (Unit × State)) : State :=
  match r with
  | .ok ((), s') => s'.finish s.turn (signalLinks s.turn sh.tok) (tokCount sh)
  | .error (.trap t) => s.raise (fillLease t (fmtOf s sh) sh.opcode.toNat s.part.lent.toNat)
  | .error (.block w keep) => s.blocked (keep.getD s) w
  | .error (.page va keep) => s.pageFault keep va

/-- The faulting instruction after an answer of skip: an inactive slot, whose tokens wait and signal (R394, R48). -/
def State.inactive (s : State) (tok : BitVec 4) (n len : Nat) : State :=
  match takeTokens s.ctx.tok (waitLinks s.turn tok) n with
  | none => s.blocked s (tokenWait s.ctx.tok s.turn tok n)
  | some t => (s.started t len).finish s.turn (signalLinks s.turn tok) n

/-- ISSUE (R198, R37, R40, R41) of a layout's word with its checks: the decode checks, the token waits, the effect,
the signals. -/
def issueAs (sh : Shape) (c : Checks) (dyn : Option Nat) (body : Eff Unit) (s : State) :
    Host.Outcome State Fault Refusal :=
  if s.sq.skip then .next (s.inactive sh.tok (tokCount sh) (s.len sh.len))
  else match decodeTrap s sh c dyn with
  | some t => .next (s.raise t)
  | none =>
    match takeTokens s.ctx.tok (waitLinks s.turn sh.tok) (tokCount sh) with
    | none => .next (s.blocked s (tokenWait s.ctx.tok s.turn sh.tok (tokCount sh)))
    | some tok => .next (s.conclude sh (body (s.started tok (s.len sh.len))))

/-- ISSUE of an instruction. -/
def issue (i : Instr) (body : Eff Unit) (s : State) : Host.Outcome State Fault Refusal :=
  issueAs (shape i) (checks i) (dynBad s i) body s

end Sys2Proof.Machine
end

