-- ==== Sys2Proof/Machine/Fetch.lean ====
section
/-! DEFINITION. Fetching an instruction's bytes through the instruction cache of the core in focus (R105, R122, R183,
R333, R334). The cache is kept most recently used line first. -/

namespace Sys2Proof.Machine
open Sys2Proof

/-- The 64-byte line of a domain virtual address. -/
def lineOf (a : BitVec 52) : BitVec 46 := fldv a 6 46
/-- Set of the instruction cache (R105). -/
def lineSet (l : BitVec 46) : BitVec 8 := fldv l 0 8

/-- A line of the instruction cache. -/
def Core.iline (c : Core) (d : BitVec 4) (l : BitVec 46) : Option ILine := c.icache.find? fun x => x.dom == d && x.line == l

/-- A line enters the cache; its set keeps the four most recently used (R105). -/
def Core.iput (c : Core) (x : ILine) : Core :=
  let rest := c.icache.filter fun y => !(y.dom == x.dom && y.line == x.line)
  let mine := (rest.filter fun y => lineSet y.line == lineSet x.line).take 3
  { c with icache := x :: rest.filter fun y => lineSet y.line != lineSet x.line || mine.contains y }

/-- A hit makes the line the most recently used one. -/
def Core.iuse (c : Core) (d : BitVec 4) (l : BitVec 46) : Core :=
  match c.iline d l with
  | none => c
  | some x => { c with icache := x :: c.icache.filter fun y => !(y.dom == d && y.line == l) }

/-- One parcel at an even address, or the line that is absent. -/
def State.parcelAt (s : State) (a : BitVec 52) : Except (BitVec 52) (BitVec 16) :=
  match s.core.iline s.domOf (lineOf a) with
  | none => .error a
  | some x => .ok (fldv (x.data >>> (8 * fld a 0 6)) 0 16)

/-- k parcels from an address on, lowest first. -/
def State.parcels (s : State) (a : BitVec 52) : Nat → Except (BitVec 52) Nat
  | 0 => .ok 0
  | k + 1 =>
    match s.parcelAt a with
    | .error e => .error e
    | .ok p =>
      match State.parcels s (a + 2) k with
      | .error e => .error e
      | .ok r => .ok (p.toNat + 65536 * r)

/-- The word of the instruction at the program counter of the sequencer in turn, zero-extended, or the address of the
first byte whose line is absent (R183, R333). -/
def State.fetchWord (s : State) : Except (BitVec 52) Word :=
  let pc := s.sq.pc
  match s.parcelAt pc with
  | .error e => .error e
  | .ok p =>
    match s.parcels pc (lenOfParcel (fldv p 4 2) / 2) with
    | .error e => .error e
    | .ok w => .ok (BitVec.ofNat 64 w)

/-- A line is present or its fill is pending. -/
def State.lineKnown (s : State) (l : BitVec 46) : Bool :=
  (s.core.iline s.domOf l).isSome || s.core.fills.any fun x => x.dom == s.domOf && x.line == l

/-- What the walk of an instruction line finds: its physical address, or the cause of R122 (R334). -/
def State.walkLine (s : State) (l : BitVec 46) : Except (Nat × State) (Nat × State) :=
  let va : BitVec 52 := l ++ (0 : BitVec 6)
  let found (e : TlbEnt) (s : State) : Except (Nat × State) (Nat × State) :=
    let pa := e.pa.toNat + va.toNat % 2 ^ e.bits
    if e.layout ≠ 0 ∨ e.tagOf pa ≠ 0 then .error (3, s)
    else if s.poisoned { sp := .phys, a := pa } then .error (4, s)
    else .ok (pa, s)
  match s.tlbFind s.domOf va with
  | some (true, e) => found e s
  | some (false, e) => found e (s.tlbInsert e)
  | none =>
    let s := s.mergeAll
    match s.walk s.domOf va with
    | .ok e => found e ((s.tlbWalked e).tlbInsert e)
    | .invalid _ => .error (1, s)
    | .malformed ea lvl => .error (2, s.walkRecord s.ctx (some (s.turn, s.sq.pc)) va ea lvl)

/-- A line requested: its fill is pending from now on. -/
def State.requestLine (s : State) (l : BitVec 46) (pa : Nat) : State :=
  s.modCore fun c => { c with fills := c.fills ++ [{ dom := s.domOf, line := l, pa := BitVec.ofNat 52 pa }] }

/-- A prefetch of a line: one that fails is dropped and leaves nothing behind (R122, R248, R333). -/
def State.prefetchLine (s : State) (l : BitVec 46) : State :=
  if s.lineKnown l then s
  else match s.walkLine l with
    | .error _ => s
    | .ok (pa, s) => s.requestLine l pa

/-- The sequencer in turn enters the line of its instruction: the next line is fetched ahead (R333). The hit makes
the lines of the instruction the most recently used. -/
def State.enter (s : State) : State :=
  let pc := s.sq.pc
  let n := match s.parcelAt pc with
    | .ok p => lenOfParcel (fldv p 4 2)
    | .error _ => 2
  let s := s.modCore fun c => (c.iuse s.domOf (lineOf (pc + BitVec.ofNat 52 (n - 2)))).iuse s.domOf (lineOf pc)
  if s.sq.fetch = some (lineOf pc) then s
  else (s.setSq { s.sq with fetch := some (lineOf pc) }).prefetchLine (lineOf pc + 1)

/-- DEMAND_FETCH (R333, R334): the line that the next instruction of a sequencer lacks is requested; a walk that fails
raises IFETCH, with the fetch address. -/
def execDemandFetch (q : SeqId) (s : State) : Host.Outcome State Fault Refusal :=
  let s := { s with turn := q }
  match s.fetchWord with
  | .ok _ => .next s
  | .error a =>
    if s.lineKnown (lineOf a) then .next s
    else match s.walkLine (lineOf a) with
      | .ok (pa, s) => .next (s.requestLine (lineOf a) pa)
      | .error (cause, s) => .next (s.raise (ifetch cause (a.zeroExtend 64)))

/-- FILL_ARRIVAL (R333): the oldest pending fill of a line arrives, with the bytes that memory holds now. One whose
line is poisoned by then brings nothing. -/
def execFillArrival (line : BitVec 46) (s : State) : Host.Outcome State Fault Refusal :=
  match s.core.fills.find? fun x => x.line == line with
  | none => .next s
  | some x =>
    let s := (s.mergeLine (x.pa.toNat / 64)).modCore fun c => { c with fills := c.fills.erase x }
    if s.poisoned { sp := .phys, a := x.pa.toNat } then .next s
    else .next (s.modCore fun c => c.iput { dom := x.dom, line := x.line, data := ofBytes 512 (Memory.getN s.mem x.pa.toNat 64) })

end Sys2Proof.Machine
end

