-- ==== Sys2Proof/Machine/Scalar.lean ====
section
/-! DEFINITION. Integer arithmetic, immediates, addresses and bit fields (spec/08 R212-R218), but halt, which stands in
Machine/Control.lean. -/

namespace Sys2Proof.Machine
open Sys2Proof

/-- A two-source W32 form: D := op A B in an active slot (R211, R212). -/
def alu2 (f : W32) (op : Word → Word → Word) : Eff Unit := whenSlot32 f do
  let a ← rS f.a
  let b ← rS f.b
  wS f.d (op a b)
/-- An immediate W32 form: the immediate takes the place of B (R213). -/
def aluI (f : W32) (op : Word → Word → Word) : Eff Unit := whenSlot32 f do
  let a ← rS f.a
  wS f.d (op a (f.b.zeroExtend 64))
/-- A one-source W32 form (R215). -/
def alu1 (f : W32) (op : Word → Word) : Eff Unit := whenSlot32 f do
  let a ← rS f.a
  wS f.d (op a)
/-- A W64 immediate form (R216). -/
def aluL (f : XI) (op : Word → BitVec 32 → Word) : Eff Unit := whenSlot f.pred f.sense do
  let a ← rS f.a
  wS f.d (op a f.imm)

/-- 1 when the condition holds, else 0 (R212). -/
def flag1 (b : Bool) : Word := if b then 1 else 0
/-- B[5:0] (R212). -/
def shAmt (b : Word) : Nat := fld b 0 6

/-- Number of leading zero bits; 64 of 0 (R215). -/
def clz64 (a : Word) : Word := BitVec.ofNat 64 (((upTo 64).find? fun k => a.getLsbD (63 - k)).getD 64)
/-- Number of trailing zero bits; 64 of 0 (R215). -/
def ctz64 (a : Word) : Word := BitVec.ofNat 64 (((upTo 64).find? fun k => a.getLsbD k).getD 64)
/-- High half of the signed product (R214). -/
def mulhS (a b : Word) : Word := BitVec.ofInt 64 (a.toInt * b.toInt / 2 ^ 64)
/-- High half of the product of naturals (R214). -/
def mulhU (a b : Word) : Word := BitVec.ofNat 64 (a.toNat * b.toNat / 2 ^ 64)
/-- Quotient truncated toward zero; all ones by 0 (R214). -/
def divS (a b : Word) : Word := if b = 0 then BitVec.allOnes 64 else a.sdiv b
def divU (a b : Word) : Word := if b = 0 then BitVec.allOnes 64 else a / b
/-- Remainder with the sign of A; A by 0 (R214). -/
def remS (a b : Word) : Word := if b = 0 then a else a.srem b
def remU (a b : Word) : Word := if b = 0 then a else a % b
/-- Sign or zero extension of a field of len bits at pos (R218). -/
def extField (sg : Bool) (a : Word) (pos len : Nat) : Word :=
  let v := fld a pos len
  if sg ∧ 2 ^ (len - 1) ≤ v then BitVec.ofInt 64 ((v : Int) - 2 ^ len) else BitVec.ofNat 64 v
/-- pos and len of bext and bins (R218). -/
def posOf (x : BitVec 12) : Nat := fld x 0 6
def lenField (x : BitVec 12) : Nat := fld x 6 6 + 1

/-- add (R212): A plus B. -/
def execAdd (f : W32) (s : State) : Host.Outcome State Fault Refusal :=
  issue (.add f) (alu2 f fun a b => a + b) s

/-- sub (R212): A minus B. -/
def execSub (f : W32) (s : State) : Host.Outcome State Fault Refusal :=
  issue (.sub f) (alu2 f fun a b => a - b) s

/-- and (R212): A and B. -/
def execAnd (f : W32) (s : State) : Host.Outcome State Fault Refusal :=
  issue (.and f) (alu2 f fun a b => a &&& b) s

/-- or (R212): A or B. -/
def execOr (f : W32) (s : State) : Host.Outcome State Fault Refusal :=
  issue (.or f) (alu2 f fun a b => a ||| b) s

/-- xor (R212): A xor B. -/
def execXor (f : W32) (s : State) : Host.Outcome State Fault Refusal :=
  issue (.xor f) (alu2 f fun a b => a ^^^ b) s

/-- andn (R212): A and not B. -/
def execAndn (f : W32) (s : State) : Host.Outcome State Fault Refusal :=
  issue (.andn f) (alu2 f fun a b => a &&& ~~~b) s

/-- orn (R212): A or not B. -/
def execOrn (f : W32) (s : State) : Host.Outcome State Fault Refusal :=
  issue (.orn f) (alu2 f fun a b => a ||| ~~~b) s

/-- sll (R212): A shifted left by B[5:0]. -/
def execSll (f : W32) (s : State) : Host.Outcome State Fault Refusal :=
  issue (.sll f) (alu2 f fun a b => a <<< shAmt b) s

/-- srl (R212): A shifted right by B[5:0], zeros entering. -/
def execSrl (f : W32) (s : State) : Host.Outcome State Fault Refusal :=
  issue (.srl f) (alu2 f fun a b => a >>> shAmt b) s

/-- sra (R212): A shifted right by B[5:0], copies of A[63] entering. -/
def execSra (f : W32) (s : State) : Host.Outcome State Fault Refusal :=
  issue (.sra f) (alu2 f fun a b => a.sshiftRight (shAmt b)) s

/-- rol (R212): A rotated left by B[5:0]. -/
def execRol (f : W32) (s : State) : Host.Outcome State Fault Refusal :=
  issue (.rol f) (alu2 f fun a b => a.rotateLeft (shAmt b)) s

/-- min (R212): the lesser as integers. -/
def execMin (f : W32) (s : State) : Host.Outcome State Fault Refusal :=
  issue (.min f) (alu2 f fun a b => if a.sle b then a else b) s

/-- max (R212): the greater as integers. -/
def execMax (f : W32) (s : State) : Host.Outcome State Fault Refusal :=
  issue (.max f) (alu2 f fun a b => if b.sle a then a else b) s

/-- minn (R212): the lesser as naturals. -/
def execMinn (f : W32) (s : State) : Host.Outcome State Fault Refusal :=
  issue (.minn f) (alu2 f fun a b => if a.ule b then a else b) s

/-- maxn (R212): the greater as naturals. -/
def execMaxn (f : W32) (s : State) : Host.Outcome State Fault Refusal :=
  issue (.maxn f) (alu2 f fun a b => if b.ule a then a else b) s

/-- ceq (R212): 1 if A = B. -/
def execCeq (f : W32) (s : State) : Host.Outcome State Fault Refusal :=
  issue (.ceq f) (alu2 f fun a b => flag1 (a == b)) s

/-- cne (R212): 1 if A differs from B. -/
def execCne (f : W32) (s : State) : Host.Outcome State Fault Refusal :=
  issue (.cne f) (alu2 f fun a b => flag1 (a != b)) s

/-- clt (R212): 1 if s(A) < s(B). -/
def execClt (f : W32) (s : State) : Host.Outcome State Fault Refusal :=
  issue (.clt f) (alu2 f fun a b => flag1 (a.slt b)) s

/-- cltn (R212): 1 if u(A) < u(B). -/
def execCltn (f : W32) (s : State) : Host.Outcome State Fault Refusal :=
  issue (.cltn f) (alu2 f fun a b => flag1 (a.ult b)) s

/-- cle (R212): 1 if s(A) ≤ s(B). -/
def execCle (f : W32) (s : State) : Host.Outcome State Fault Refusal :=
  issue (.cle f) (alu2 f fun a b => flag1 (a.sle b)) s

/-- clen (R212): 1 if u(A) ≤ u(B). -/
def execClen (f : W32) (s : State) : Host.Outcome State Fault Refusal :=
  issue (.clen f) (alu2 f fun a b => flag1 (a.ule b)) s

/-- addi (R213): A plus B, B the immediate. -/
def execAddi (f : W32) (s : State) : Host.Outcome State Fault Refusal :=
  issue (.addi f) (aluI f fun a b => a + b) s

/-- andi (R213): A and B, B the immediate. -/
def execAndi (f : W32) (s : State) : Host.Outcome State Fault Refusal :=
  issue (.andi f) (aluI f fun a b => a &&& b) s

/-- ori (R213): A or B, B the immediate. -/
def execOri (f : W32) (s : State) : Host.Outcome State Fault Refusal :=
  issue (.ori f) (aluI f fun a b => a ||| b) s

/-- xori (R213): A xor B, B the immediate. -/
def execXori (f : W32) (s : State) : Host.Outcome State Fault Refusal :=
  issue (.xori f) (aluI f fun a b => a ^^^ b) s

/-- slli (R213): A shifted left by B[5:0], B the immediate. -/
def execSlli (f : W32) (s : State) : Host.Outcome State Fault Refusal :=
  issue (.slli f) (aluI f fun a b => a <<< shAmt b) s

/-- srli (R213): A shifted right by B[5:0], zeros entering, B the immediate. -/
def execSrli (f : W32) (s : State) : Host.Outcome State Fault Refusal :=
  issue (.srli f) (aluI f fun a b => a >>> shAmt b) s

/-- srai (R213): A shifted right by B[5:0], copies of A[63] entering, B the immediate. -/
def execSrai (f : W32) (s : State) : Host.Outcome State Fault Refusal :=
  issue (.srai f) (aluI f fun a b => a.sshiftRight (shAmt b)) s

/-- roli (R213): A rotated left by B[5:0], B the immediate. -/
def execRoli (f : W32) (s : State) : Host.Outcome State Fault Refusal :=
  issue (.roli f) (aluI f fun a b => a.rotateLeft (shAmt b)) s

/-- mul (R214): low half of the product. -/
def execMul (f : W32) (s : State) : Host.Outcome State Fault Refusal :=
  issue (.mul f) (alu2 f fun a b => a * b) s

/-- mulh (R214): high half of the signed product. -/
def execMulh (f : W32) (s : State) : Host.Outcome State Fault Refusal :=
  issue (.mulh f) (alu2 f fun a b => mulhS a b) s

/-- mulhn (R214): high half of the product of naturals. -/
def execMulhn (f : W32) (s : State) : Host.Outcome State Fault Refusal :=
  issue (.mulhn f) (alu2 f fun a b => mulhU a b) s

/-- div (R214): signed quotient. -/
def execDiv (f : W32) (s : State) : Host.Outcome State Fault Refusal :=
  issue (.div f) (alu2 f fun a b => divS a b) s

/-- divn (R214): quotient of naturals. -/
def execDivn (f : W32) (s : State) : Host.Outcome State Fault Refusal :=
  issue (.divn f) (alu2 f fun a b => divU a b) s

/-- rem (R214): signed remainder. -/
def execRem (f : W32) (s : State) : Host.Outcome State Fault Refusal :=
  issue (.rem f) (alu2 f fun a b => remS a b) s

/-- remn (R214): remainder of naturals. -/
def execRemn (f : W32) (s : State) : Host.Outcome State Fault Refusal :=
  issue (.remn f) (alu2 f fun a b => remU a b) s

/-- mov (R215): A. -/
def execMov (f : W32) (s : State) : Host.Outcome State Fault Refusal :=
  issue (.mov f) (alu1 f fun a => a) s

/-- neg (R215): 0 minus A. -/
def execNeg (f : W32) (s : State) : Host.Outcome State Fault Refusal :=
  issue (.neg f) (alu1 f fun a => 0 - a) s

/-- not (R215): not A. -/
def execNot (f : W32) (s : State) : Host.Outcome State Fault Refusal :=
  issue (.not f) (alu1 f fun a => ~~~a) s

/-- clz (R215): leading zero bits. -/
def execClz (f : W32) (s : State) : Host.Outcome State Fault Refusal :=
  issue (.clz f) (alu1 f fun a => clz64 a) s

/-- ctz (R215): trailing zero bits. -/
def execCtz (f : W32) (s : State) : Host.Outcome State Fault Refusal :=
  issue (.ctz f) (alu1 f fun a => ctz64 a) s

/-- popc (R215): one bits. -/
def execPopc (f : W32) (s : State) : Host.Outcome State Fault Refusal :=
  issue (.popc f) (alu1 f fun a => BitVec.ofNat 64 (popCount a)) s

/-- sextw (R215): A[31:0] sign-extended. -/
def execSextw (f : W32) (s : State) : Host.Outcome State Fault Refusal :=
  issue (.sextw f) (alu1 f fun a => (a.setWidth 32).signExtend 64) s

/-- zextw (R215): A[31:0] zero-extended. -/
def execZextw (f : W32) (s : State) : Host.Outcome State Fault Refusal :=
  issue (.zextw f) (alu1 f fun a => (a.setWidth 32).zeroExtend 64) s

/-- nop (R215): no effect beyond its tokens. -/
def execNop (f : W32) (s : State) : Host.Outcome State Fault Refusal :=
  issue (.nop f) (pure ()) s

/-- li (R216): the sign-extended immediate. -/
def execLi (f : XI) (s : State) : Host.Outcome State Fault Refusal :=
  issue (.li f) (whenSlot f.pred f.sense (wS f.d (f.imm.signExtend 64))) s

/-- lih (R216): IMM32 above A[31:0]. -/
def execLih (f : XI) (s : State) : Host.Outcome State Fault Refusal :=
  issue (.lih f) (aluL f fun a i => (i ++ (0 : BitVec 32)) ||| (a.setWidth 32).zeroExtend 64) s

/-- addl (R216): A plus the sign-extended immediate. -/
def execAddl (f : XI) (s : State) : Host.Outcome State Fault Refusal :=
  issue (.addl f) (aluL f fun a i => a + i.signExtend 64) s

/-- andl (R216): A and the sign-extended immediate. -/
def execAndl (f : XI) (s : State) : Host.Outcome State Fault Refusal :=
  issue (.andl f) (aluL f fun a i => a &&& i.signExtend 64) s

/-- orl (R216): A or the zero-extended immediate. -/
def execOrl (f : XI) (s : State) : Host.Outcome State Fault Refusal :=
  issue (.orl f) (aluL f fun a i => a ||| i.zeroExtend 64) s

/-- xorl (R216): A xor the zero-extended immediate. -/
def execXorl (f : XI) (s : State) : Host.Outcome State Fault Refusal :=
  issue (.xorl f) (aluL f fun a i => a ^^^ i.zeroExtend 64) s

/-- mull (R216): low half of A times the sign-extended immediate. -/
def execMull (f : XI) (s : State) : Host.Outcome State Fault Refusal :=
  issue (.mull f) (aluL f fun a i => a * i.signExtend 64) s

/-- mkptr (R217): a generic pointer from a window, a slot and an offset. -/
def execMkptr (f : XR) (s : State) : Host.Outcome State Fault Refusal :=
  issue (.mkptr f) (whenSlot f.pred f.sense do
    let a ← rS f.a
    let w : BitVec 4 := fldv f.x 0 4
    wS f.d (if w = 2 ∨ w = 3 then w ++ (fldv f.x 4 8 : BitVec 8) ++ a.setWidth 52 else w ++ a.setWidth 60)) s
/-- sel (R218): A if bit 0 of C is 1, else B. -/
def execSel (f : XR) (s : State) : Host.Outcome State Fault Refusal :=
  issue (.sel f) (whenSlot f.pred f.sense do
    let a ← rS f.a
    let b ← rS f.b
    let c ← rP f.c
    wS f.d (if c.getLsbD 0 then a else b)) s
/-- bext (R218): a field of A, zero- or sign-extended. -/
def execBext (f : XR) (s : State) : Host.Outcome State Fault Refusal :=
  issue (.bext f) (whenSlot f.pred f.sense do
    let a ← rS f.a
    wS f.d (extField (f.f.getLsbD 0) a (posOf f.x) (lenField f.x))) s
/-- bins (R218): A with a field replaced by the low bits of B. -/
def execBins (f : XR) (s : State) : Host.Outcome State Fault Refusal :=
  issue (.bins f) (whenSlot f.pred f.sense do
    let a ← rS f.a
    let b ← rS f.b
    wS f.d (setFld a (posOf f.x) (lenField f.x) b.toNat)) s

end Sys2Proof.Machine
end

