-- ==== Sys2Proof/Machine/Memory.lean ====
section
/-! DEFINITION. Loads, stores, prefetch and maintenance, circular buffers (spec/09 R240-R250). -/

namespace Sys2Proof.Machine
open Sys2Proof

/-! ## Scalar accesses (R244) -/

/-- A word of n bytes sign- or zero-extended. -/
def extend (sg : Bool) (n : Nat) (bs : List Byte) : Word := extField sg (BitVec.ofNat 64 (leNat bs)) 0 (8 * n)

/-- Load checked bytes of one scalar access. -/
def load1 (need : BitVec 7) (r : Req) : Eff (List Byte) := do
  let pss ← access need true false false [r]
  loadBytes r (pss.headD [])
/-- Store bytes of one scalar access. -/
def store1 (need : BitVec 7) (r : Req) (bs : List Byte) : Eff Unit := do
  let pss ← access need false true false [r]
  storeBytes [(r, pss.headD [], bs)]

/-- ld (R244): the bytes at ea, zero- or sign-extended; then the base update. -/
def execLd (f : XM) (s : State) : Host.Outcome State Fault Refusal :=
  issue (.ld f) (whenSlot f.pred f.sense do
    let (ea, u) ← eaXM f
    readyS f.t
    let n := widthOf f.wd
    let bs ← load1 needRD { ptr := ea, n := n, lane := 0xFF }
    wS f.t (extend (f.f.getLsbD 0) n bs)
    postUpd u) s
/-- st (R244): the low bytes of T at ea; then the base update. -/
def execSt (f : XM) (s : State) : Host.Outcome State Fault Refusal :=
  issue (.st f) (whenSlot f.pred f.sense do
    let (ea, u) ← eaXM f
    let x ← rS f.t
    let n := widthOf f.wd
    leaseNoStore [{ ptr := ea, n := n, lane := 0xFF }]
    store1 needWR { ptr := ea, n := n, lane := 0xFF } (leBytes n x.toNat)
    postUpd u) s

/-! ## Vector accesses (R246, R247) -/

/-- The active lanes in ascending order. -/
def lanesOf (m : Mask) : List Nat := (upTo 64).filter fun i => m.getLsbD i

/-- Loads of lanes: the accesses of all active lanes are checked, lowest lane first, before any byte moves. -/
def loadLanes (sg : Bool) (rs : List Req) : Eff (List (Nat × Lane)) := do
  let pss ← access needRD true false false rs
  Eff.collect (rs.zip pss) fun rp => do
    let bs ← loadBytes rp.1 rp.2
    pure (rp.1.lane, (extend sg rp.1.n bs).setWidth 32)
/-- A vector with the given lanes. -/
def ofPairs (l : List (Nat × Lane)) : Vec := l.foldl (fun v x => v ||| put 2048 (32 * x.1) 32 x.2.toNat) 0

/-- Stores of lanes, written in ascending lane order (R247). -/
def storeLanes (need : BitVec 7) (rs : List Req) (x : Vec) : Eff Unit := do
  let pss ← access need false true false rs
  storeBytes ((rs.zip pss).map fun rp => (rp.1, rp.2, leBytes rp.1.n (lane x rp.1.lane).toNat))

/-- Lane i at ea + 4i (R246). -/
def unitReqs (ea : Word) (m : Mask) : List Req :=
  (lanesOf m).map fun i => { ptr := ea + BitVec.ofNat 64 (4 * i), n := 4, lane := i }
/-- The j-th active lane at ea + 4j (R246). -/
def packReqs (ea : Word) (m : Mask) : List Req :=
  ((lanesOf m).zip (upTo 64)).map fun ij => { ptr := ea + BitVec.ofNat 64 (4 * ij.2), n := 4, lane := ij.1 }
/-- Lane i at A + OFF13 + zext(B[i]) (R246). -/
def indexReqs (base : Word) (b : Vec) (n : Nat) (m : Mask) : List Req :=
  (lanesOf m).map fun i => { ptr := base + (lane b i).zeroExtend 64, n := n, lane := i }

/-- A vector load from an address that all lanes share. -/
def vload (f : XM) (reqs : Word → Mask → List Req) : Eff Unit := whenLanes f.pred f.sense fun m => do
  let (ea, u) ← eaXM f
  readyV f.t
  let l ← loadLanes false (reqs ea m)
  wV f.t m (ofPairs l)
  postUpd u
/-- A vector store to an address that all lanes share. -/
def vstore (f : XM) (reqs : Word → Mask → List Req) : Eff Unit := whenLanes f.pred f.sense fun m => do
  let (ea, u) ← eaXM f
  let x ← rV f.t
  leaseNoStore (reqs ea m)
  storeLanes needWR (reqs ea m) x
  postUpd u

/-- vld (R246). -/
def execVld (f : XM) (s : State) : Host.Outcome State Fault Refusal := issue (.vld f) (vload f unitReqs) s
/-- vst (R246). -/
def execVst (f : XM) (s : State) : Host.Outcome State Fault Refusal := issue (.vst f) (vstore f unitReqs) s
/-- vldx (R246): a gather by lane offsets. -/
def execVldx (f : XM) (s : State) : Host.Outcome State Fault Refusal :=
  issue (.vldx f) (whenLanes f.pred f.sense fun m => do
    let a ← rS f.a
    let b ← rV f.b
    readyV f.t
    let l ← loadLanes (f.f.getLsbD 0) (indexReqs (a + f.off.signExtend 64) b (widthOf f.wd) m)
    wV f.t m (ofPairs l)) s
/-- vstx (R246): a scatter by lane offsets. -/
def execVstx (f : XM) (s : State) : Host.Outcome State Fault Refusal :=
  issue (.vstx f) (whenLanes f.pred f.sense fun m => do
    let a ← rS f.a
    let b ← rV f.b
    let x ← rV f.t
    leaseNoStore (indexReqs (a + f.off.signExtend 64) b (widthOf f.wd) m)
    storeLanes needWR (indexReqs (a + f.off.signExtend 64) b (widthOf f.wd) m) x) s
/-- vldk (R246): consecutive words to the active lanes. -/
def execVldk (f : XM) (s : State) : Host.Outcome State Fault Refusal := issue (.vldk f) (vload f packReqs) s
/-- vstk (R246): the active lanes to consecutive words. -/
def execVstk (f : XM) (s : State) : Host.Outcome State Fault Refusal := issue (.vstk f) (vstore f packReqs) s

/-! ## Prefetch and maintenance (R248) -/

/-- Lines acted on: n from F, from the line of ea on. -/
def linesFrom (ea : Word) (f : BitVec 5) : List Word :=
  (upTo (f.toNat + 1)).map fun k => BitVec.ofNat 64 (ea.toNat / 64 * 64 + 64 * k)

/-- pf (R248): a placement hint; it reads its address and changes nothing that the model holds. -/
def execPf (f : XM) (s : State) : Host.Outcome State Fault Refusal :=
  issue (.pf f) (whenSlot f.pred f.sense do
    let _ ← eaXM f
    pure ()) s
/-- ipf (R248): each line is requested for the instruction cache; one that fails is dropped. -/
def execIpf (f : XM) (s : State) : Host.Outcome State Fault Refusal :=
  issue (.ipf f) (whenSlot f.pred f.sense do
    let (ea, _) ← eaXM f
    Eff.each (linesFrom ea f.f) fun a =>
      if fld a 52 12 = 0 then Eff.mod fun s => s.prefetchLine (fldv a 6 46) else pure ()) s
/-- icinv (R248): the named lines, or all, leave the instruction cache, and every byte fetched ahead is discarded. -/
def execIcinv (f : XM) (s : State) : Host.Outcome State Fault Refusal :=
  issue (.icinv f) (whenSlot f.pred f.sense do
    let (ea, _) ← eaXM f
    let ls := (linesFrom ea f.f).map fun a => (fldv a 6 46 : BitVec 46)
    Eff.mod fun s => s.modCore fun c => { c with
      icache := c.icache.filter fun x => !(f.m == 1 || (x.dom == s.domOf && ls.contains x.line))
      fills := [] }) s
/-- dcwb (R248): checks without a right and without poison; the lines' update-only partials are merged. -/
def execDcwb (f : XM) (s : State) : Host.Outcome State Fault Refusal :=
  issue (.dcwb f) (whenSlot f.pred f.sense do
    let (ea, _) ← eaXM f
    let rs : List Req := (linesFrom ea f.f).map fun a => { ptr := a, n := 64, lane := 0xFF }
    let xs ← Eff.collect rs (checkReq 0 false)
    Eff.each (dedup (xs.map (·.2)).flatten) fun e => Eff.mod fun s => s.touch e false
    Eff.each (xs.map (·.1)).flatten fun p => Eff.mod fun s => s.mergeAt [p]) s

/-! ## Circular buffers (R102-R104, R250) -/

def cbOf (x : BitVec 12) : BitVec 5 := fldv x 0 5
def State.cb (s : State) (b : BitVec 5) : Cbd := s.core.cbd.get b.toFin
def State.setCb (s : State) (b : BitVec 5) (c : Cbd) : State :=
  s.modCore fun k => { k with cbd := k.cbd.set b.toNat c b.isLt }
def Cbd.slots (c : Cbd) : Nat := c.nslotm1.toNat + 1
/-- Slot size in bytes. -/
def Cbd.size (c : Cbd) : Nat := 2 ^ (6 + c.log2sz.toNat)
/-- Window-0 pointer of slot k (R250). -/
def Cbd.ptr (c : Cbd) (k : Nat) : Word := BitVec.ofNat 64 ((c.base.toNat + k * c.size) % 2 ^ 24)
/-- The four operations of R104. -/
def Cbd.reserve (c : Cbd) : Cbd := { c with free := c.free - 1, resv := c.resv + 1, tail := (c.tail + 1) % c.slots }
def Cbd.commit (c : Cbd) : Cbd := { c with resv := c.resv - 1, fill := c.fill + 1 }
def Cbd.acquire (c : Cbd) : Cbd := { c with fill := c.fill - 1, acq := c.acq + 1, head := (c.head + 1) % c.slots }
def Cbd.release (c : Cbd) : Cbd := { c with acq := c.acq - 1, free := c.free + 1 }

/-- The descriptor of a form: LEASE in a harvest context, ALLOC cause 0x3 when it is disabled or undeclared (R250). -/
def useCb (b : BitVec 5) : Eff Cbd := do
  leaseHarv
  let c ← Eff.gets fun s => s.cb b
  let decl ← Eff.gets fun s => s.ctx.bnd.cbd.getLsbD b.toNat
  Eff.check (c.en && decl) (alloc 3 0 0)
  pure c

/-- cbres (R250): reserve the slot at TAIL. -/
def execCbres (f : XR) (s : State) : Host.Outcome State Fault Refusal :=
  issue (.cbres f) (whenSlot f.pred f.sense do
    let c ← useCb (cbOf f.x)
    if c.free = 0 then Eff.block .engine else pure ()
    Eff.mod fun s => s.setCb (cbOf f.x) c.reserve
    wS f.d (c.ptr c.tail)) s
/-- cbcmt (R250): commit the oldest slot that a context holds reserved. -/
def execCbcmt (f : XR) (s : State) : Host.Outcome State Fault Refusal :=
  issue (.cbcmt f) (whenSlot f.pred f.sense do
    let c ← useCb (cbOf f.x)
    Eff.check (decide (c.resv ≠ 0)) (alloc 3 0 0)
    Eff.mod fun s => s.setCb (cbOf f.x) c.commit) s
/-- cbacq (R250): acquire the slot at HEAD. -/
def execCbacq (f : XR) (s : State) : Host.Outcome State Fault Refusal :=
  issue (.cbacq f) (whenSlot f.pred f.sense do
    let c ← useCb (cbOf f.x)
    if c.fill = 0 then Eff.block .engine else pure ()
    Eff.mod fun s => s.setCb (cbOf f.x) c.acquire
    wS f.d (c.ptr c.head)) s
/-- cbrel (R250): release the oldest acquired slot. -/
def execCbrel (f : XR) (s : State) : Host.Outcome State Fault Refusal :=
  issue (.cbrel f) (whenSlot f.pred f.sense do
    let c ← useCb (cbOf f.x)
    Eff.check (decide (c.acq ≠ 0)) (alloc 3 0 0)
    Eff.mod fun s => s.setCb (cbOf f.x) c.release) s

end Sys2Proof.Machine
end

