-- ==== Sys2Proof/Machine/Sync.lean ====
section
/-! DEFINITION. Atomics, acquires and releases, fences, semaphores, barriers, waits and wake writes (spec/09 R241,
R257-R265). -/

namespace Sys2Proof.Machine
open Sys2Proof

/-! ## Scopes (R124, R133, R138-R141) -/

/-- LEASE cause 0x2 for a scope wider than CTX in a harvest context (R133). -/
def scopeHarv (m : BitVec 3) : Eff Unit := if m = 0 then pure () else leaseHarv
/-- What a release or fence does before it takes effect, in order: at PKG and wider the core's update-only lines are merged at
their homes, at INST in the L2; at FAB it then waits until PEND is 0 (R139, R141). -/
def releaseAt (m : BitVec 3) : Eff Unit := do
  if 2 ≤ m.toNat then Eff.mod State.mergeOwn else pure ()
  let wait ← Eff.gets fun s => m == 4 && s.ctx.pend != 0
  if wait then Eff.blockKeep .memory else pure ()
/-- The scope that a form has on a word: on window 0 one wider than CORE acts as CORE (R136). -/
def scopeOn (m : BitVec 3) (ea : Word) : BitVec 3 := if fld ea 60 4 = 0 ∧ 1 < m.toNat then 1 else m

/-- An address with its low bits treated as 0 (R241). -/
def aligned (ea : Word) (w : Nat) : Word := BitVec.ofNat 64 (ea.toNat / w * w)

/-! ## Read, modify, write (R257) -/

/-- One word read and written as one indivisible operation. A word of another package is acted on at its exporting
home: its old value is free here, its line may be poisoned there (R116), and its bytes count in PEND. -/
def rmwPlaces (r : Req) (ps : List Place) (op : Nat → Nat) : Eff Nat := do
  if fld r.ptr 60 4 = 3 then do
    let bad ← Eff.modGet State.freeBool
    if bad then Eff.trap (poisonTrap r.ptr) else pure ()
    let bs ← Eff.modGet fun s => s.freeBytes r.n
    let sent ← Eff.modGet fun s => s.freeBytes r.n
    fun s => peerWrite r.ptr (s.peerOf r.ptr) sent s
    pure (leNat bs)
  else if fld r.ptr 60 4 = 4 then do
    let bs ← Eff.modGet fun s => s.readHost s.domOf ps
    Eff.mod fun s => s.hostPut s.domOf ps (leBytes r.n (op (leNat bs)))
    pure (leNat bs)
  else do
    let bs ← Eff.modGet fun s => s.readPlaces ps
    let old := leNat bs
    Eff.mod fun s => s.writePlaces ps (leBytes r.n (op old))
    pure old

/-- An atomic on the word of w bytes that contains ea. -/
def rmw (ea : Word) (w : Nat) (op : Nat → Nat) : Eff Nat := do
  let r : Req := { ptr := aligned ea w, n := w, lane := 0xFF }
  let pss ← access needAT true true true [r]
  rmwPlaces r (pss.headD []) op

/-- The ordering of F[4:3]: bit 0 acquire, bit 1 release. -/
def ordRel (f : BitVec 5) : Bool := f.getLsbD 4

/-- The address of an AM 0 form. -/
def eaOff (f : XM) : Eff Word := do
  let a ← rS f.a
  pure (a + f.off.signExtend 64)

/-- amo (R257): T := old; the word takes op(old, B). -/
def execAmo (f : XM) (s : State) : Host.Outcome State Fault Refusal :=
  issue (.amo f) (whenSlot f.pred f.sense do
    leaseHarv
    let ea ← eaOff f
    let b ← rS f.b
    readyS f.t
    if ordRel f.f then releaseAt (scopeOn f.m ea) else pure ()
    let w := widthOf f.wd
    let old ← rmw ea w fun v => commOp (fldv f.f 0 3) w v b.toNat
    wS f.t (BitVec.ofNat 64 old)
    dirty) s
/-- cas (R257): B is written when the word equals T, or whatever it holds under .swap. -/
def execCas (f : XM) (s : State) : Host.Outcome State Fault Refusal :=
  issue (.cas f) (whenSlot f.pred f.sense do
    leaseHarv
    let ea ← eaOff f
    let b ← rS f.b
    let t ← rS f.t
    readyS f.t
    if ordRel f.f then releaseAt (scopeOn f.m ea) else pure ()
    let w := widthOf f.wd
    let old ← rmw ea w fun v => if f.f.getLsbD 0 ∨ v = fld t 0 (8 * w) then fld b 0 (8 * w) else v
    wS f.t (BitVec.ofNat 64 old)
    dirty) s

/-- amof's operation on codes of FP32 or FP64, with its flags (R177, R257). -/
def amofOp (f : BitVec 5) (w a b : Nat) : Nat × BitVec 7 :=
  let F := if w = 4 then fp32 else fp64
  let x := F.dec a
  let y := F.dec b
  match fld f 0 2 with
  | 0 => deliver F 0 0 false (Ext.sum false [x, y])
  | 1 => (F.enc (minX x y), 0)
  | _ => (F.enc (maxX x y), 0)

/-- amof (R257): a floating atomic rounded RNE; its flags go to FPFLG when T is written. -/
def execAmof (f : XM) (s : State) : Host.Outcome State Fault Refusal :=
  issue (.amof f) (whenSlot f.pred f.sense do
    leaseHarv
    let ea ← eaOff f
    let b ← rS f.b
    readyS f.t
    if ordRel f.f then releaseAt (scopeOn f.m ea) else pure ()
    let w := widthOf f.wd
    let y := fld b 0 (8 * w)
    let old ← rmw ea w fun v => (amofOp f.f w v y).1
    wS f.t (BitVec.ofNat 64 old)
    setFlags (amofOp f.f w old y).2
    dirty) s

/-! ## Commutative updates (R106-R108, R257) -/

/-- Combine an operand into the update-only line of the core in focus; a line of another operation or width is merged
first, and a 257th line merges the oldest. -/
def State.combine (s : State) (op : BitVec 3) (w a v : Nat) : State :=
  let line := a / 64
  let k := a % 64 / w
  let upd (u : UpdLine) : UpdLine :=
    let old := if u.mask.getLsbD k then fld u.part (8 * w * k) (8 * w) else commId op w
    { u with mask := u.mask ||| bitTo 16 k true, part := setFld u.part (8 * w * k) (8 * w) (commOp op w old v) }
  match s.core.uol.find? fun u => u.line == line with
  | some u =>
    if u.op = op ∧ u.wide = (w == 8) then
      s.modCore fun c => { c with uol := c.uol.map fun x => if x.line = line then upd x else x }
    else
      (s.mergeLine line).modCore fun c => { c with
        uol := c.uol ++ [upd { line := line, op := op, wide := w == 8, mask := 0, part := 0 }] }
  | none =>
    let s := if 256 ≤ s.core.uol.length then
        match s.core.uol with
        | [] => s
        | u :: _ => s.mergeLine u.line
      else s
    s.modCore fun c => { c with uol := c.uol ++ [upd { line := line, op := op, wide := w == 8, mask := 0, part := 0 }] }

/-- One commutative update on checked places: buffered in a line of the core, or an atomic at the home (R106). -/
def cupdAt (op : BitVec 3) (buffered : Bool) (r : Req) (ps : List Place) (v : Nat) : Eff Unit := do
  if buffered && fld r.ptr 60 4 == 2 then
    match ps with
    | [] => pure ()
    | p :: _ => Eff.mod fun s => s.combine op r.n p.a v
  else do
    let _ ← rmwPlaces r ps fun x => commOp op r.n x v
    pure ()

/-- The pages of an update are RC or UNORD; words of another package, whose pages its home knows, count as neither. One STRONG
or HTSO word makes the whole instruction obey the higher rank (R106, R128). -/
def loose (xs : List (Req × List Place × List TlbEnt)) : Bool :=
  xs.all fun x => fld x.1.ptr 60 4 == 3 || (fld x.1.ptr 60 4 == 2 && x.2.2.all fun e => e.ord == 1 || e.ord == 2)
/-- The first checked word that is poisoned where its update is made at the home (R116). -/
def State.poisonAt (s : State) (xs : List (Req × List Place × List TlbEnt)) : Option Trap :=
  if loose xs then none else (xs.find? fun x => x.2.1.any s.poisoned).map fun x => poisonTrap x.1.ptr

/-- The checks of the words in lane order; a word that fails gives way to a poisoned one of a lower lane (R87, R240). -/
def cupdCheck (seen : List (Req × List Place × List TlbEnt)) : List Req → Eff (List (Req × List Place × List TlbEnt))
  | [] => fun s => match s.poisonAt seen with
    | some t => .error (.trap t)
    | none => .ok (seen, s)
  | r :: rest => fun s => match checkReq needAT false r s with
    | .error e => .error (match s.poisonAt seen with
      | some t => .trap t
      | none => e)
    | .ok ((ps, es), s) => cupdCheck (seen ++ [(r, ps, es)]) rest s

/-- Commutative updates of several words: all are checked first. -/
def cupdAll (op : BitVec 3) (rs : List (Req × Nat)) : Eff Unit := do
  let xs ← cupdCheck [] (rs.map (·.1))
  let t ← Eff.gets fun s => s.strictCheck true (rs.map (·.1))
  match t with
  | some t => Eff.trap t
  | none => pure ()
  strictShared true true (rs.map (·.1))
  Eff.each (dedup (xs.map (·.2.2)).flatten) fun e => Eff.mod fun s => s.touch e true
  Eff.each (rs.zip xs) fun z => cupdAt op (loose xs) z.1.1 z.2.2.1 z.1.2

/-- cupd (R257): the commutative update with operand T. -/
def execCupd (f : XM) (s : State) : Host.Outcome State Fault Refusal :=
  issue (.cupd f) (whenSlot f.pred f.sense do
    leaseHarv
    let ea ← eaOff f
    let t ← rS f.t
    let w := widthOf f.wd
    cupdAll (fldv f.f 0 3) [({ ptr := aligned ea w, n := w, lane := 0xFF }, fld t 0 (8 * w))]
    dirty) s

/-- The word accesses of an indexed vector atomic (R241, R246). -/
def wordReqs (base : Word) (b : Vec) (m : Mask) : List Req :=
  (indexReqs base b 4 m).map fun r => { r with ptr := aligned r.ptr 4 }

/-- vcupd (R257): cupd of T[i] at a_i, in ascending lane order. -/
def execVcupd (f : XM) (s : State) : Host.Outcome State Fault Refusal :=
  issue (.vcupd f) (whenLanes f.pred f.sense fun m => do
    leaseHarv
    let a ← rS f.a
    let b ← rV f.b
    let t ← rV f.t
    cupdAll (fldv f.f 0 3) ((wordReqs (a + f.off.signExtend 64) b m).map fun r => (r, (lane t r.lane).toNat))
    dirty) s
/-- vamo (R257): amo of T[i] at a_i, in ascending lane order; T[i] := old. -/
def execVamo (f : XM) (s : State) : Host.Outcome State Fault Refusal :=
  issue (.vamo f) (whenLanes f.pred f.sense fun m => do
    leaseHarv
    let a ← rS f.a
    let b ← rV f.b
    let t ← rV f.t
    readyV f.t
    let rs := wordReqs (a + f.off.signExtend 64) b m
    let pss ← access needAT true true true rs
    let l ← Eff.collect (rs.zip pss) fun rp => do
      let old ← rmwPlaces rp.1 rp.2 fun v => commOp (fldv f.f 0 3) 4 v (lane t rp.1.lane).toNat
      pure (rp.1.lane, BitVec.ofNat 32 old)
    wV f.t m (ofPairs l)
    dirty) s

/-! ## Acquires, releases, fences (R258, R259) -/

/-- ldacq (R258): the word, as an acquire. -/
def execLdacq (f : XM) (s : State) : Host.Outcome State Fault Refusal :=
  issue (.ldacq f) (whenSlot f.pred f.sense do
    scopeHarv f.m
    let ea ← eaOff f
    readyS f.t
    let w := widthOf f.wd
    let r : Req := { ptr := aligned ea w, n := w, lane := 0xFF }
    let pss ← access needRD true false true [r]
    let bs ← loadBytes r (pss.headD [])
    wS f.t (BitVec.ofNat 64 (leNat bs))) s
/-- strel (R258): T written as a release. In a harvest context a scope wider than CTX raises LEASE cause 0x2 before a store without a
region raises cause 0x4 (log entry 61). -/
def execStrel (f : XM) (s : State) : Host.Outcome State Fault Refusal :=
  issue (.strel f) (whenSlot f.pred f.sense do
    scopeHarv f.m
    let ea ← eaOff f
    let t ← rS f.t
    let w := widthOf f.wd
    let r : Req := { ptr := aligned ea w, n := w, lane := 0xFF }
    leaseNoStore [r]
    releaseAt (scopeOn f.m ea)
    let pss ← access needWR false true true [r]
    storeBytes [(r, pss.headD [], leBytes w t.toNat)]) s
/-- fence (R259): at FAB it waits until PEND is 0; every access of the model is already performed. -/
def execFence (f : XR) (s : State) : Host.Outcome State Fault Refusal :=
  issue (.fence f) (whenSlot f.pred f.sense do
    scopeHarv f.m
    releaseAt f.m
    if f.m = 0 then pure () else dirty) s

/-! ## Semaphores (R260) -/

def semOf (x : BitVec 12) : BitVec 6 := fldv x 0 6
def State.semCount (s : State) (n : BitVec 6) : BitVec 16 := s.core.sem.get n.toFin
def State.setSem (s : State) (n : BitVec 6) (v : BitVec 16) : State :=
  s.modCore fun c => { c with sem := c.sem.set n.toNat v n.isLt }

/-! Signals and waits on one semaphore take effect in the order in which they reach the core (R260). -/

/-- One that reached the semaphores still waits there: a running sequencer of a resident context, or an entry at the head of its
queue. -/
def State.semLive (s : State) (w : SemWait) : Bool :=
  match w.who with
  | .inl (c, q) => s.resident c && (s.findCtx c).any fun k => (k.seqs.get q).run == .running && (k.seqs.get q).wait == .sem
  | .inr n =>
    let heads := [s.core.copyq.head?, s.core.matq.head?, s.core.gathq.head?, s.core.colq.head?] ++ s.xfq.map fun e => e.2.head?
    heads.any fun e => e.any fun e => e.num == n
/-- Those that wait to do the same to a semaphore and came before. -/
def State.semAhead (s : State) (n : BitVec 6) (sig : Bool) (who : Sum (CtxId × SeqId) Nat) : Nat :=
  ((s.core.semq.takeWhile fun w => w.who != who).filter fun w => w.sem == n && w.signal == sig && s.semLive w).length
/-- A signal, or a wait, takes effect when the count and those before it let it; otherwise it keeps its place. -/
def State.semTry (s : State) (n : BitVec 6) (sig : Bool) (who : Sum (CtxId × SeqId) Nat) : Bool × State :=
  let c := (s.semCount n).toNat
  let k := s.semAhead n sig who
  let other (w : SemWait) : Bool := w.who != who
  if (if sig then decide (c + k < 0xFFFF) else decide (k < c)) then
    (true, (s.setSem n (if sig then s.semCount n + 1 else s.semCount n - 1)).modCore fun x => { x with semq := x.semq.filter other })
  else
    let w : SemWait := { sem := n, signal := sig, who := who }
    (false, s.modCore fun x => { x with
      semq := if x.semq.contains w then x.semq else (x.semq.filter fun y => other y && s.semLive y) ++ [w] })
/-- A sequencer signals, or waits. -/
def semOp (n : BitVec 6) (sig : Bool) : Eff Unit := do
  let done ← Eff.modGet fun s => s.semTry n sig (.inl (s.ctx.id, s.turn))
  if done then pure () else Eff.blockKeep .sem

/-- semsig (R260). -/
def execSemsig (f : XR) (s : State) : Host.Outcome State Fault Refusal :=
  issue (.semsig f) (whenSlot f.pred f.sense do
    leaseHarv
    releaseAt f.m
    semOp (semOf f.x) true) s
/-- semwait (R260). -/
def execSemwait (f : XR) (s : State) : Host.Outcome State Fault Refusal :=
  issue (.semwait f) (whenSlot f.pred f.sense do
    leaseHarv
    semOp (semOf f.x) false) s
/-- semget (R260). -/
def execSemget (f : XR) (s : State) : Host.Outcome State Fault Refusal :=
  issue (.semget f) (whenSlot f.pred f.sense do
    leaseHarv
    let n ← Eff.gets fun s => s.semCount (semOf f.x)
    wS f.d (n.zeroExtend 64)) s

/-! ## Barriers (R261) -/

/-- The access to a barrier object. -/
def barReq (a : Word) : Req := { ptr := aligned a 16, n := 16, lane := 0xFF }
/-- The fields of a barrier object. -/
def barN (v : Nat) : Nat := v % 2 ^ 32
def barArr (v : Nat) : Nat := v / 2 ^ 32 % 2 ^ 32
def barGen (v : Nat) : Nat := v / 2 ^ 64 % 2 ^ 32
def barMk (n arr gen : Nat) : Nat := n + arr * 2 ^ 32 + gen * 2 ^ 64
/-- One arrival: when ARR reaches N the next phase begins. -/
def barArrive (v : Nat) : Nat :=
  let arr := (barArr v + 1) % 2 ^ 32
  if arr = barN v then barMk (barN v) 0 ((barGen v + 1) % 2 ^ 32) else barMk (barN v) arr (barGen v)
/-- The object read. -/
def barRead (a : Word) : Eff Nat := do
  let pss ← access needRD true false true [barReq a]
  let bs ← loadBytes (barReq a) (pss.headD [])
  pure (leNat bs)

/-- barinit (R261): N := B, no arrivals, phase 0; a B of 0 raises CAPF cause 0x4. -/
def execBarinit (f : XR) (s : State) : Host.Outcome State Fault Refusal :=
  issue (.barinit f) (whenSlot f.pred f.sense do
    leaseHarv
    let a ← rS f.a
    let b ← rS f.b
    let r := barReq a
    let pss ← access needWR false true true [r]
    if fld b 0 32 = 0 then
      Eff.trap (capf 4 (if fld a 60 4 = 2 ∨ fld a 60 4 = 3 then fld a 52 8 else 0) needWR.toNat 0xFF r.ptr (r.ptr + 15))
    else pure ()
    storeBytes [(r, pss.headD [], leBytes 16 (barMk (fld b 0 32) 0 0))]
    dirty) s
/-- bararr (R261): a release, then D := GEN and one arrival. -/
def execBararr (f : XR) (s : State) : Host.Outcome State Fault Refusal :=
  issue (.bararr f) (whenSlot f.pred f.sense do
    leaseHarv
    let a ← rS f.a
    readyS f.d
    releaseAt (scopeOn f.m a)
    let pss ← access needAT true true true [barReq a]
    let old ← rmwPlaces (barReq a) (pss.headD []) barArrive
    wS f.d (BitVec.ofNat 64 (barGen old))
    dirty) s
/-- barwait (R261): blocks while GEN = B. -/
def execBarwait (f : XR) (s : State) : Host.Outcome State Fault Refusal :=
  issue (.barwait f) (whenSlot f.pred f.sense do
    leaseHarv
    let a ← rS f.a
    let b ← rS f.b
    let v ← barRead a
    if barGen v = fld b 0 32 then Eff.block .barrier else pure ()) s
/-- bartest (R261): D := 1 when GEN differs from B. -/
def execBartest (f : XR) (s : State) : Host.Outcome State Fault Refusal :=
  issue (.bartest f) (whenSlot f.pred f.sense do
    leaseHarv
    let a ← rS f.a
    let b ← rS f.b
    readyS f.d
    let v ← barRead a
    wS f.d (if barGen v = fld b 0 32 then 0 else 1)) s

/-! ## Waits and wakes (R262-R264) -/

/-- The MEM home of a word in memory has 4,096 wait slots (R121); other storages have none that the spec counts. -/
def slotHome (p : Place) : Option (BitVec 6) :=
  let k : BitVec 6 := BitVec.ofNat 6 (p.a / 2 ^ 46)
  if p.sp = .phys ∧ classOf k = 5 then some k else none
/-- MEM home of a virtual address of a domain, while its page is there. -/
def State.homeOf (s : State) (d : BitVec 4) (va : BitVec 52) : Option (BitVec 6) :=
  match s.walk d va with
  | .ok e => slotHome { sp := .phys, a := e.pa.toNat + (va.toNat - e.va.toNat) }
  | _ => none
/-- A sequencer of a domain's context holds a wait slot of a home, or waits for one from a position before the given one; one
that has been woken keeps its position until it has a slot again. -/
def State.waitsBefore (s : State) (d : BitVec 4) (x : Seqr) (home : BitVec 6) (pos : Nat) : Bool :=
  match x.wait with
  | .addr sp a _ _ _ _ => x.woke.isNone && slotHome { sp := sp, a := a } == some home
  | .slot k => k == home && x.wpos.any fun n => n < pos
  | .none => (x.wpos.any fun n => n < pos) && x.wva.any fun va => s.homeOf d va == some home
  | _ => false
/-- The sequencer in turn, at a position, has a wait slot of a home. -/
def State.slotFree (s : State) (home : BitVec 6) (pos : Nat) : Bool :=
  ((s.ctxs.map fun c => ((allSeqs.filter fun q => !(c.id == s.ctx.id && q == s.turn) && 
    s.waitsBefore c.bnd.dom (c.seqs.get q) home pos).length)).foldl (· + ·) 0) < 4096
/-- The sequencer in turn has a position among the waiters: the one it keeps, or the next. -/
def State.placed (s : State) : Nat × State :=
  match s.sq.wpos with
  | some n => (n, s)
  | none => (s.waitNext, { s.setSq { s.sq with wpos := some s.waitNext } with waitNext := s.waitNext + 1 })
/-- The same for an access, whose virtual address is kept. -/
def State.placedAt (s : State) (r : Req) : Nat × State :=
  let (n, s) := s.placed
  (n, s.setSq { s.sq with wva := if fld r.ptr 60 4 = 2 then some (s.vaOf r.ptr) else none })
/-- An address wait registers at its word: it keeps the position it has, and without a free wait slot it waits for one, ahead
of every later waiter (R121). -/
def register (r : Req) (p : Place) (w : Wait) : Eff Unit := fun s =>
  match slotHome p with
  | none => .error (.block w none)
  | some home =>
    let (pos, s) := s.placedAt r
    .error (.block (if s.slotFree home pos then w else .slot home) (some s))
/-- The access of an address wait: on a page that is not resident it parks in its position (R121). -/
def waitAccess (r : Req) : Eff (List Place) := fun s =>
  match access needRD true false false [r] s with
  | .error (.page va keep) => .error (.page va (keep.placedAt r).2)
  | .error e => .error e
  | .ok (pss, s) => .ok (pss.headD [], s)

/-- The wait of waitw and waitwt: the value of the evaluation that ended it; otherwise an evaluation now, which ends
it when the condition fails or, for waitwt, whose T holds a deadline on entry, when gts() has reached that (R263). -/
def addrWait (f : XM) (timed : Bool) : Eff Unit := do
  scopeHarv f.m
  let ea ← eaOff f
  let b ← rS f.b
  let deadline ← if timed then some <$> rS f.t else pure none
  readyS f.t
  let w := widthOf f.wd
  let lt := f.f.getLsbD 0
  let r : Req := { ptr := aligned ea w, n := w, lane := 0xFF }
  let ps ← waitAccess r
  let woke ← Eff.gets fun s => s.sq.woke
  match woke with
  | some v => wS f.t v
  | none => do
    let bs ← loadBytes r ps
    let v : Word := BitVec.ofNat 64 (leNat bs)
    let b' : Word := BitVec.ofNat 64 (fld b 0 (8 * w))
    let late ← Eff.gets fun s => match deadline with
      | some t => t.ule s.gts
      | none => false
    if waitHolds lt v b' ∧ !late then
      match ps with
      | [] => Eff.block .memory
      | p :: _ => register r p (.addr p.sp p.a w b' lt deadline)
    else wS f.t v

/-- waitw (R263). -/
def execWaitw (f : XM) (s : State) : Host.Outcome State Fault Refusal :=
  issue (.waitw f) (whenSlot f.pred f.sense (addrWait f false)) s
/-- waitwt (R263): T holds the deadline on entry, and is read after A and B (R43). -/
def execWaitwt (f : XM) (s : State) : Host.Outcome State Fault Refusal :=
  issue (.waitwt f) (whenSlot f.pred f.sense (addrWait f true)) s

/-- The index check of a wake write (R262, R264). -/
def State.wakeCheck (s : State) (ptr : Word) : Option Trap :=
  let r : Req := { ptr := ptr, n := 8, lane := 0xFF }
  match checkWindow r with
  | some t => some t
  | none =>
    if fld ptr 60 4 ≠ 5 ∨ (s.dom s.domOf).waken ≤ fld ptr 3 45 then some (capf 6 0 0 0xFF ptr (ptr + 7)) else none

/-- wake (R264): T written to a wake word as a release; to another package it leaves over the fabric. -/
def execWake (f : XM) (s : State) : Host.Outcome State Fault Refusal :=
  issue (.wake f) (whenSlot f.pred f.sense do
    leaseHarv
    let ea ← eaOff f
    let t ← rS f.t
    let ptr := aligned ea 8
    let bad ← Eff.gets fun s => s.wakeCheck ptr
    match bad with
    | some t => Eff.trap t
    | none => pure ()
    releaseAt (scopeOn f.m ea)
    let here ← Eff.gets fun s => fld ptr 48 12 == 0xFFF || fld ptr 48 12 == s.pkg.pkgno.toNat
    if here then Eff.mod fun s => s.wakeLocal s.domOf (fld ptr 3 45) t
    else fun s => peerWrite ptr (s.peerOf ptr) (toBytes t) s
    dirty) s

/-- gts (R265): D := gts(). -/
def execGts (f : XR) (s : State) : Host.Outcome State Fault Refusal :=
  issue (.gts f) (whenSlot f.pred f.sense do
    let g ← Eff.gets fun s => s.gts
    wS f.d g) s

end Sys2Proof.Machine
end

