-- ==== Sys2Proof/Machine/Edges.lean ====
section
/-! DEFINITION. Edge pops and pushes and job control blocks (spec/08 R233-R239). -/

namespace Sys2Proof.Machine
open Sys2Proof

/-! ## Pops (R235) -/

/-- The port of an edge form. -/
def portOf (x : BitVec 12) : Nat := fld x 0 2
/-- Words 0 to 7 of a record (R234). -/
def recWords (r : BitVec 512) : List Word := (upTo 8).map fun k => fldv r (64 * k) 64
/-- A record from its words. -/
def recOf (ws : List Word) : BitVec 512 := (ws.zip (upTo 8)).foldl (fun r w => r ||| put 512 (64 * w.2) 64 w.1.toNat) 0

/-- The slot for which a join pop raises CAPF cause 0x8: loaded already, or named twice (R83, R235). -/
def State.joinClash (s : State) (r : BitVec 512) : Option (BitVec 8) :=
  ((upTo (recNcap r)).find? fun n =>
    (s.slot (recSlot r n)).isSome || (upTo n).any fun m => recSlot r m == recSlot r n).map (recSlot r)

/-- Load what a record brings to a new task or to the current one (R76, R78, R83). -/
def State.takeRecord (s : State) (join : Bool) (r : BitVec 512) : State :=
  if join then
    let s := s.installRec r
    if recJcbv r then s.makeEnds [.join (recJcb r)] else s
  else
    (s.loadTable r).modCtx fun c => { c with
      task := some { jcb := if recJcbv r && (s.jcb (recJcb r)).isSome then some (recJcb r) else none, posted := false } }

/-- The record at the head of an edge with its position, when FILL is not 0. -/
def State.headRec (s : State) (e : EdgeId) : Option (Nat × BitVec 512) :=
  match s.edge s.domOf e with
  | none => none
  | some x => (popAt x.slots).map fun i => (i, s.slotRec s.domOf x i)

/-- Take the head record: its checks, its loading, its slot, its words (R235). -/
def popRecord (join : Bool) (e : EdgeId) (i : Nat) (r : BitVec 512) (d : BitVec 6) : Eff Unit := do
  let clash ← Eff.gets fun s => if join then s.joinClash r else recTwice r
  match clash with
  | some k => Eff.trap (capfSlot 8 k.toNat)
  | none => pure ()
  Eff.mod fun s => (s.takeRecord join r).takeSlot s.domOf e i s.ctx.id
  wGroup d (recWords r)
  dirty

/-- A pop that waits: a new-task pop ends the current task at issue, whatever it then waits for (R235, R78). -/
def waitPop (join : Bool) (f : XR) : Eff Unit := whenSlot f.pred f.sense do
  leaseNoRegion
  if join then pure ()
  else do
    let had ← Eff.gets fun s => s.ctx.task.isSome
    if had then dirty else pure ()
    Eff.mod State.endTask
  let e ← Eff.gets fun s => s.portEdge false (portOf f.x)
  let h ← Eff.gets fun s => s.headRec e
  match h with
  | none => Eff.blockKeep (.edge e.graph e.num false)
  | some (i, r) => popRecord join e i r f.d

/-- eget (R235): the new-task pop. -/
def execEget (f : XR) (s : State) : Host.Outcome State Fault Refusal := issue (.eget f) (waitPop false f) s
/-- ejoin (R235): the join pop. -/
def execEjoin (f : XR) (s : State) : Host.Outcome State Fault Refusal := issue (.ejoin f) (waitPop true f) s
/-- etry (R235): a pop without waiting; C tells whether a record was taken. -/
def execEtry (f : XR) (s : State) : Host.Outcome State Fault Refusal :=
  issue (.etry f) (whenSlot f.pred f.sense do
    leaseNoRegion
    readyS f.c
    let e ← Eff.gets fun s => s.portEdge false (portOf f.x)
    let h ← Eff.gets fun s => s.headRec e
    match h with
    | none => wS2 f.c 0
    | some (i, r) => do
      if f.f.getLsbD 0 then pure () else Eff.mod State.endTask
      popRecord (f.f.getLsbD 0) e i r f.d
      wS2 f.c 1) s

/-! ## Pushes (R236, R237) -/

/-- The fields of a capability request (R236). -/
def reqSrc (q : BitVec 128) : BitVec 8 := fldv q 0 8
def reqXfr (q : BitVec 128) : Bool := bitAt q 8
def reqRights (q : BitVec 128) : BitVec 7 := fldv q 16 7
def reqLimit (q : BitVec 128) : BitVec 52 := fldv q 64 52
/-- A reserved bit of a request is set. -/
def reqReserved (q : BitVec 128) : Bool := fld q 9 7 ≠ 0 || fld q 23 41 ≠ 0 || fld q 116 12 ≠ 0

/-- The first check of R236 that request n fails: its cause. -/
def State.reqCause (s : State) (r : BitVec 512) (n : Nat) : Option Nat :=
  let q := recCap r n
  match s.slot (reqSrc q) with
  | none => some 1
  | some x =>
    if capStale x.cap then some 3
    else if !subRights (if reqXfr q then needTR else needSH) (capRights x.cap) ||
        !subRights (reqRights q) (capRights x.cap) || (capLimit x.cap).ult (reqLimit q) then some 4
    else if reqXfr q && x.tmpl then some 0xA
    else if (upTo n).any fun m =>
        (reqSrc (recCap r m) == reqSrc q && (reqXfr q || reqXfr (recCap r m))) || recSlot r m == recSlot r n then some 8
    else none

/-- The first request that fails, with its cause (R236). -/
def State.reqBad (s : State) (r : BitVec 512) : Option (Nat × BitVec 8) :=
  (upTo (recNcap r)).findSome? fun n => (s.reqCause r n).map fun c => (c, reqSrc (recCap r n))

/-- The capability that a request forms (R236). -/
def State.formed (s : State) (q : BitVec 128) : BitVec 128 :=
  match s.slot (reqSrc q) with
  | none => 0
  | some x => mkCap (capName x.cap) (capGen x.cap) (reqRights q) (capImp x.cap) false (reqLimit q) (capPeer x.cap)

/-- The push that a record group asks for: every request replaced by its capability, the slots that transfers empty,
the copies that shares count. -/
def State.formPush (s : State) (e : EdgeId) (r : BitVec 512) : PushBuf :=
  let ns := upTo (recNcap r)
  { edge := e
    bits := ns.foldl (fun b n => setFld b (64 + 128 * n) 128 (s.formed (recCap r n)).toNat) r
    xfer := (ns.filter fun n => reqXfr (recCap r n)).map fun n => reqSrc (recCap r n)
    shares := (ns.filter fun n => !reqXfr (recCap r n)).map fun n => s.formed (recCap r n) }

/-- Count one share at its home; CAPF cause 0x9 when the count is full (R81, R88). -/
def shareCount (c : BitVec 128) : Eff Unit := do
  let full ← Eff.modGet fun s => s.refFull s.domOf c
  if full then Eff.trap (capfSlot 9 0) else Eff.mod fun s => s.incRef s.domOf c

/-- The checks of a push and its shares (R237); none when a reserved bit turns the record away. -/
def preparePush (e : EdgeId) (r : BitVec 512) : Eff (Option PushBuf) := do
  if recReserved r || (upTo (recNcap r)).any fun n => reqReserved (recCap r n) then do
    Eff.mod fun s => s.pktbad s.ctx 9 (some (s.turn, s.ipc (s.len 8))) 0
    pure none
  else do
    let live ← Eff.gets fun s => match s.jcb (recJcb r) with
      | some j => j.dom == s.domOf
      | none => false
    if recJcbv r ∧ !live then Eff.trap (jcbord 5 (recJcb r).toNat) else pure ()
    let bad ← Eff.gets fun s => s.reqBad r
    match bad with
    | some (c, k) => Eff.trap (capfSlot c k.toNat)
    | none => pure ()
    let p ← Eff.gets fun s => s.formPush e r
    Eff.each ((upTo (recNcap r)).filter fun n => !reqXfr (recCap r n)) fun n => do
      let c ← Eff.gets fun s => s.formed (recCap r n)
      shareCount c
    pure (some p)

/-- The edge has a free slot. -/
def State.hasRoom (s : State) (e : EdgeId) : Bool :=
  match s.edge s.domOf e with
  | some x => 0 < x.free
  | none => false

/-- Reserve, write and publish, as a release at PKG scope (R72, R139): the core's update-only lines are merged first.
Transferred slots are emptied (R237). -/
def commitPush (p : PushBuf) : Eff Unit := do
  Eff.mod State.mergeOwn
  Eff.mod fun s => (p.xfer.foldl (fun s k => s.modCtx fun c => c.setSlot k none) s).pushEdge s.domOf p.edge p.bits
  dirty

/-- eput once its record is formed: buffered in a harvest context; otherwise pushed, or kept with its shares until a
slot is free (R237). -/
def finishPush (p : PushBuf) : Eff Unit := do
  let harv ← Eff.gets fun s => s.ctx.id.harv
  if harv then Eff.mod fun s => s.modCtx fun c => { c with pushes := c.pushes ++ [p] }
  else do
    let room ← Eff.gets fun s => s.hasRoom p.edge
    if room then commitPush p
    else do
      if p.shares = [] then pure () else dirty
      Eff.mod fun s => s.setSq { s.sq with pushing := some p }
      Eff.blockKeep (.edge p.edge.graph p.edge.num true)

/-- eput (R237): a push that waits for its slot is resumed at its reservation, whatever its predicate has become. -/
def execEput (f : XR) (s : State) : Host.Outcome State Fault Refusal :=
  issue (.eput f) (do
    let held ← Eff.gets fun s => s.sq.pushing
    match held with
    | some p => finishPush p
    | none => whenSlot f.pred f.sense do
      leaseNoRegion
      let e ← Eff.gets fun s => s.portEdge true (portOf f.x)
      let ws ← rGroup f.a 8
      let p ← preparePush e (recOf ws)
      match p with
      | none => pure ()
      | some p => finishPush p) s

/-- eputs (R237): a push that does not wait; C tells how it ended. In a harvest context it raises LEASE cause 0x2, with a region open
or not (log entry 61). -/
def execEputs (f : XR) (s : State) : Host.Outcome State Fault Refusal :=
  issue (.eputs f) (whenSlot f.pred f.sense do
    leaseHarv
    readyS f.c
    let e ← Eff.gets fun s => s.portEdge true (portOf f.x)
    let ws ← rGroup f.a 8
    let s0 ← get
    let p ← preparePush e (recOf ws)
    match p with
    | none => wS2 f.c 2
    | some p => do
      let room ← Eff.gets fun s => s.hasRoom e
      if room then do
        commitPush p
        wS2 f.c 1
      else do
        set s0
        wS2 f.c 0) s

/-- estat (R238): EDGESTAT of the edge on a port. -/
def execEstat (f : XR) (s : State) : Host.Outcome State Fault Refusal :=
  issue (.estat f) (whenSlot f.pred f.sense do
    let x ← Eff.gets fun s => match s.edge s.domOf (s.portEdge (f.f.getLsbD 0) (portOf f.x)) with
      | some e => e.stat
      | none => 0
    wS f.d x) s

/-! ## Job control blocks (R77, R239) -/

/-- The block that the current task holds, with the task. -/
def State.heldJcb (s : State) : Option (BitVec 12 × Jcb × Task) :=
  match s.ctx.task with
  | none => none
  | some t => match t.jcb with
    | none => none
    | some b => (s.jcb b).map fun j => (b, j, t)

/-- jraise (R239): E rises by A. JCBORD cause 0x2 names no block: the number in its INFO is not stated, and 0 here, as in
jpost (log entry 48). -/
def execJraise (f : XR) (s : State) : Host.Outcome State Fault Refusal :=
  issue (.jraise f) (whenSlot f.pred f.sense do
    leaseHarv
    let a ← rS f.a
    let h ← Eff.gets State.heldJcb
    match h with
    | none => Eff.trap (jcbord 2 0)
    | some (b, j, t) => do
      Eff.check (!t.posted) (jcbord 1 b.toNat)
      Eff.check (!j.done) (jcbord 6 b.toNat)
      Eff.check (decide (a.toNat < 2 ^ 48 ∧ j.expect.toNat + a.toNat ≤ 2 ^ 48 - 1)) (jcbord 3 b.toNat)
      Eff.mod fun s => s.setJcb b (some { j with expect := j.expect + a.setWidth 48 })
      dirty) s
/-- jpost (R239): as a release at PKG scope, one completion is posted, and the task is marked posted. -/
def execJpost (f : XR) (s : State) : Host.Outcome State Fault Refusal :=
  issue (.jpost f) (whenSlot f.pred f.sense do
    leaseHarv
    let h ← Eff.gets State.heldJcb
    match h with
    | none => Eff.trap (jcbord 2 0)
    | some (b, j, t) => do
      Eff.check (!t.posted) (jcbord 1 b.toNat)
      Eff.check (!j.done) (jcbord 4 b.toNat)
      Eff.mod State.mergeOwn
      Eff.mod fun s => s.modCtx fun c => { c with task := some { t with posted := true } }
      Eff.mod fun s => s.jcbPost b j
      dirty) s
/-- jstat (R239): what the block of the task holds; 0 without one. -/
def execJstat (f : XR) (s : State) : Host.Outcome State Fault Refusal :=
  issue (.jstat f) (whenSlot f.pred f.sense do
    let h ← Eff.gets State.heldJcb
    wS f.d (match h with
      | none => 0
      | some (_, j, t) =>
        match fld f.f 0 2 with
        | 0 => j.expect.zeroExtend 64
        | 1 => j.count.zeroExtend 64
        | 2 => bitTo 64 0 j.done ||| bitTo 64 1 t.posted ||| bitTo 64 2 true
        | _ => j.donegts)) s

end Sys2Proof.Machine
end

