-- ==== Sys2Proof/Machine/System.lean ====
section
/-! DEFINITION. Capabilities, control registers, discovery, lending (spec/09 R255, R256, R266-R269; spec/01 R22-R26;
spec/16 R378, R379). -/

namespace Sys2Proof.Machine
open Sys2Proof

/-! ## Capabilities (R255, R256) -/

/-- The fields of a slot request. -/
def srSrc (a : Word) : BitVec 8 := fldv a 0 8
def srDst (a : Word) : BitVec 8 := fldv a 8 8
def srRights (a : Word) : BitVec 7 := fldv a 16 7

/-- The slot named in X[7:0]. -/
def slotOf (x : BitVec 12) : BitVec 8 := fldv x 0 8

/-- A loaded slot, or CAPF cause 0x1. -/
def needSlot (k : BitVec 8) : Eff Slot := do
  let x ← Eff.gets fun s => s.slot k
  match x with
  | none => Eff.trap (capfSlot 1 k.toNat)
  | some x => pure x

/-- The checks that capshr and capxfr share, up to cause 0x8 (R255). -/
def capRequest (need : BitVec 7) (a b : Word) : Eff Slot := do
  let k := (srSrc a).toNat
  let x ← needSlot (srSrc a)
  Eff.check (!capStale x.cap) (capfSlot 3 k)
  Eff.check (subRights need (capRights x.cap) && subRights (srRights a) (capRights x.cap) &&
    decide (b.toNat ≤ (capLimit x.cap).toNat)) (capfSlot 4 k)
  let loaded ← Eff.gets fun s => (s.slot (srDst a)).isSome
  Eff.check (!loaded && srDst a != srSrc a) (capfSlot 8 (srDst a).toNat)
  pure x

/-- The copy that a slot request forms. -/
def capCopy (x : Slot) (a b : Word) : Slot :=
  { cap := mkCap (capName x.cap) (capGen x.cap) (srRights a) (capImp x.cap) false (fldv b 0 52) (capPeer x.cap)
    tmpl := false, inst := true }

/-- Set or empty a slot of the context in focus. -/
def putSlot (k : BitVec 8) (v : Option Slot) : Eff Unit := Eff.mod fun s => s.modCtx fun c => c.setSlot k v

/-- capshr (R255): a counted copy with narrower rights and limit. -/
def execCapshr (f : XR) (s : State) : Host.Outcome State Fault Refusal :=
  issue (.capshr f) (whenSlot f.pred f.sense do
    leaseHarv
    let a ← rS f.a
    let b ← rS f.b
    let x ← capRequest needSH a b
    shareCount x.cap
    putSlot (srDst a) (some (capCopy x a b))
    dirty) s
/-- capxfr (R255): the copy takes the place of the source. -/
def execCapxfr (f : XR) (s : State) : Host.Outcome State Fault Refusal :=
  issue (.capxfr f) (whenSlot f.pred f.sense do
    leaseHarv
    let a ← rS f.a
    let b ← rS f.b
    let x ← capRequest needTR a b
    Eff.check (!x.tmpl) (capfSlot 10 (srSrc a).toNat)
    putSlot (srDst a) (some (capCopy x a b))
    putSlot (srSrc a) none
    dirty) s
/-- capdrop (R255): the slot is emptied and its reference dropped, unless the copy is stale (R82). -/
def execCapdrop (f : XR) (s : State) : Host.Outcome State Fault Refusal :=
  issue (.capdrop f) (whenSlot f.pred f.sense do
    leaseHarv
    let x ← needSlot (slotOf f.x)
    Eff.check (!x.tmpl) (capfSlot 10 (slotOf f.x).toNat)
    Eff.mod fun s => s.decRef s.domOf x.cap
    putSlot (slotOf f.x) none
    dirty) s
/-- caprd (R255): half of a slot's capability; an empty slot reads zero. -/
def execCaprd (f : XR) (s : State) : Host.Outcome State Fault Refusal :=
  issue (.caprd f) (whenSlot f.pred f.sense do
    let c ← Eff.gets fun s => match s.slot (slotOf f.x) with
      | some x => x.cap
      | none => 0
    wS f.d (fldv c (if f.f.getLsbD 0 then 64 else 0) 64)) s
/-- capnar (R255): rights and limit narrowed in place. -/
def execCapnar (f : XR) (s : State) : Host.Outcome State Fault Refusal :=
  issue (.capnar f) (whenSlot f.pred f.sense do
    leaseHarv
    let a ← rS f.a
    let b ← rS f.b
    let k := (slotOf f.x).toNat
    let x ← needSlot (slotOf f.x)
    Eff.check (!capStale x.cap) (capfSlot 3 k)
    Eff.check (subRights (fldv a 0 7) (capRights x.cap) && decide (b.toNat ≤ (capLimit x.cap).toNat)) (capfSlot 4 k)
    let cap := mkCap (capName x.cap) (capGen x.cap) (fldv a 0 7) (capImp x.cap) false (fldv b 0 52) (capPeer x.cap)
    putSlot (slotOf f.x) (some { x with cap := cap })) s

/-- The token of an export: NAME, GEN and RIGHTS without XP; LIMIT and PEER; KEY (R256). -/
def tokenWords (c : BitVec 128) (pkg : BitVec 12) (key : Word) : List Word :=
  [put 64 0 32 (capName c).toNat ||| put 64 32 16 (capGen c).toNat ||| put 64 48 6 (capRights c).toNat,
   put 64 0 52 (capLimit c).toNat ||| put 64 52 12 pkg.toNat, key]

/-- capexp (R255, R256): an export under a fresh key, counted at the home. -/
def execCapexp (f : XR) (s : State) : Host.Outcome State Fault Refusal :=
  issue (.capexp f) (whenSlot f.pred f.sense do
    leaseHarv
    let k := (slotOf f.x).toNat
    let x ← needSlot (slotOf f.x)
    Eff.check (!capImp x.cap) (capfSlot 2 k)
    Eff.check (!capStale x.cap) (capfSlot 3 k)
    Eff.check (subRights needXP (capRights x.cap)) (capfSlot 4 k)
    shareCount x.cap
    let key ← Eff.gets fun s => s.nextKey
    let pkg ← Eff.gets fun s => s.pkg.pkgno
    Eff.mod fun s => { s with nextKey := s.nextKey + 1 }
    Eff.mod fun s => s.modDom s.domOf fun d => { d with exps := d.exps ++
      [{ key := key, name := capName x.cap, gen := capGen x.cap, rights := capRights x.cap &&& ~~~needXP,
         limit := capLimit x.cap, used := false }] }
    wGroup f.d (tokenWords x.cap pkg key)) s

/-- capimp (R255, R256): the capability of a token, when its exporting home accepts it. That home is another package,
so its answer is free; a token of this package is always refused. -/
def execCapimp (f : XR) (s : State) : Host.Outcome State Fault Refusal :=
  issue (.capimp f) (whenSlot f.pred f.sense do
    leaseHarv
    let ws ← rGroup f.a 3
    let a := ws.getD 0 0
    let b := ws.getD 1 0
    let k := slotOf f.x
    let loaded ← Eff.gets fun s => (s.slot k).isSome
    Eff.check (!loaded) (capfSlot 8 k.toNat)
    let no ← Eff.modGet State.freeBool
    let own ← Eff.gets fun s => (fldv b 52 12 : BitVec 12) == s.pkg.pkgno
    Eff.check (!no && !own) (capfSlot 7 k.toNat)
    let cap := mkCap (fldv a 0 32) (fldv a 32 16) (fldv a 48 7 &&& ~~~needXP) true false (fldv b 0 52) (fldv b 52 12)
    putSlot k (some { cap := cap, tmpl := false, inst := true })) s

/-! ## Control registers (R268, R269) -/

/-- CTXID (R32). -/
def Ctx.ctxid (c : Ctx) : Word :=
  put 64 0 6 c.id.loc.sock.toNat ||| put 64 6 4 c.id.loc.core.toNat ||| put 64 10 3 c.id.loc.part.toNat |||
  bitTo 64 13 c.id.harv ||| put 64 16 16 c.bnd.stage.toNat ||| put 64 32 32 c.bnd.job.toNat
/-- TOKCNT (R41). -/
def Ctx.tokcnt (c : Ctx) : Word := (upTo 8).foldl (fun w k => w ||| put 64 (4 * k) 4 (vget c.tok k).toNat) 0
/-- QOCC (R46). -/
def Ctx.qocc (c : Ctx) : Word :=
  (upTo 8).foldl (fun w k => w ||| put 64 (4 * k) 4 (qLen (vget c.q k))) 0 |||
  (upTo 4).foldl (fun w k => w ||| put 64 (32 + 4 * k) 4 (qLen (vget c.vq k))) 0 |||
  put 64 48 6 (qLen c.bo) ||| put 64 54 10 (if c.id.harv then 0 else c.defq.length)
/-- ROTC (R93). -/
def Seqr.rotc (x : Seqr) : Word := put 64 0 4 x.vrb.toNat ||| put 64 4 3 x.prb.toNat
/-- A region whose sequencers all stand at its end is kept from committing by the bytes that it would send (R140). -/
def Ctx.pendHolds (c : Ctx) : Bool := c.id.harv && !c.pendFits && c.rgns.any fun r => c.allAtEnd r.num r.mask
/-- PENDB (R140): FULL while a sequencer is held, at its instruction or at the end of its region. -/
def Ctx.pendb (c : Ctx) : Word :=
  c.pend.zeroExtend 64 ||| bitTo 64 40 ((allSeqs.any fun q => (c.seqs.get q).wait == .pend) || c.pendHolds)
/-- LENDST as the owner reads it (R269). -/
def Part.lendst (p : Part) : Word :=
  put 64 0 16 p.lent.toNat ||| bitTo 64 16 (p.lease != .vacant) ||| bitTo 64 17 (p.lease == .held) |||
  put 64 32 16 p.scrub.toNat
/-- WAKEA (R269). -/
def State.wakea (s : State) : Word := put 64 0 21 (s.dom s.domOf).waken ||| put 64 32 12 s.pkg.pkgno.toNat
/-- A circular-buffer descriptor and its state (R102, R103). -/
def Cbd.word (c : Cbd) : Word :=
  put 64 0 24 c.base.toNat ||| put 64 24 4 c.log2sz.toNat ||| put 64 28 8 c.nslotm1.toNat ||| bitTo 64 36 c.en
def Cbd.state (c : Cbd) : Word :=
  put 64 0 9 c.free ||| put 64 9 9 c.fill ||| put 64 18 9 (c.resv + c.eresv + c.acq) ||| put 64 27 8 c.head ||| put 64 35 8 c.tail

/-- What crr reads (R268). -/
def State.creg (s : State) (n : Nat) : Word :=
  match n with
  | 0x000 => s.ctx.ctxid
  | 0x001 => s.ctx.tokcnt
  | 0x002 => s.ctx.qocc
  | 0x003 => s.sq.rotc
  | 0x004 => s.ctx.fpctl.zeroExtend 64
  | 0x005 => s.ctx.fpflg.zeroExtend 64
  | 0x006 => s.ctx.engflg.zeroExtend 64
  | 0x007 => s.ctx.cesr.zeroExtend 64
  | 0x008 => s.ctx.pendb
  | 0x009 => if s.ctx.id.harv then 0 else s.part.lendst
  | 0x00A => s.wakea
  | _ =>
    if n < 0x140 then (s.core.spfmt.get (Fin.ofNat 64 n)).zeroExtend 64
    else if n < 0x160 then (s.cb (BitVec.ofNat 5 n)).word
    else (s.cb (BitVec.ofNat 5 n)).state

/-- A copy entry of the context in focus has not finished converting: its code is not set (R172). -/
def State.converting (s : State) : Bool := s.core.copyq.any fun e => e.own == s.ctx.id && e.fin.isNone
/-- An access to CESR waits until the context's earlier copies have finished converting (R172). -/
def waitCesr (n : BitVec 12) : Eff Unit := do
  let busy ← Eff.gets fun s => n == 7 && s.converting
  if busy then Eff.block .engine else pure ()

/-- crr (R268): D takes a control register. -/
def execCrr (f : XR) (s : State) : Host.Outcome State Fault Refusal :=
  issue (.crr f) (whenSlot f.pred f.sense do
    waitCesr f.x
    let x ← Eff.gets fun s => s.creg f.x.toNat
    wS f.d x) s

/-- A write of SPFMT: ignored whole with a reserved format or rounding (R99). -/
def State.writeSpfmt (s : State) (b : BitVec 6) (v : Word) : State :=
  if 0x14 ≤ fld v 0 5 ∨ 5 ≤ fld v 5 3 then s
  else s.modCore fun k => { k with spfmt := k.spfmt.set b.toNat (fldv v 0 9) b.isLt }
/-- A write of CESR: 0 stores 0x5D2E9A63 (R172). -/
def State.writeCesr (s : State) (v : Word) : State :=
  s.modCtx fun c => { c with cesr := if fld v 0 32 = 0 then 0x5D2E9A63 else fldv v 0 32 }
/-- A write of FPCTL: 5 to 7 are ignored whole (R163). -/
def State.writeFpctl (s : State) (v : Word) : State :=
  if 5 ≤ fld v 0 3 then s else s.modCtx fun c => { c with fpctl := fldv v 0 3 }
/-- A write of FPFLG or ENGFLG clears the bits written as 1 (R180, R182). -/
def State.clearFlags (s : State) (eng : Bool) (v : Word) : State :=
  if eng then s.modCtx fun c => { c with engflg := c.engflg &&& ~~~(fldv v 0 7) }
  else s.modCtx fun c => { c with fpflg := c.fpflg &&& ~~~(fldv v 0 7) }
/-- A write of a sequencer's ROTC (R93). -/
def State.writeRotc (s : State) (q : SeqId) (v : Word) : State :=
  s.modCtx fun c => { c with seqs := c.seqs.set q { c.seqs.get q with vrb := fldv v 0 4, prb := fldv v 4 3 } }

/-- The ring of a descriptor word runs beyond the kernel's declared ranges (R102). -/
def State.ringBad (s : State) (v : Word) : Bool :=
  let lo := fld v 0 24
  let hi := lo + (fld v 28 8 + 1) * 2 ^ (6 + fld v 24 4)
  (firstOutside s.ctx.bnd.spm hi (s.ctx.bnd.spm.length + 1) lo).isSome
/-- The descriptor that a word describes, with its state at enable (R102, R103); a reserved size is not written (R4). -/
def cbdOf (old : BitVec 4) (v : Word) : Cbd :=
  { base := fldv v 0 24, log2sz := if 13 ≤ fld v 24 4 then old else fldv v 24 4, nslotm1 := fldv v 28 8, en := bitAt v 36,
    free := if bitAt v 36 then fld v 28 8 + 1 else 0 }
/-- A write that clears EN: the state becomes zero (R102, R104). -/
def State.cbdOff (s : State) (b : BitVec 5) (v : Word) : State := s.setCb b (cbdOf (s.cb b).log2sz v)
/-- A write that sets EN on a disabled descriptor: ignored with a reserved size or a BASE that is not a multiple of 64;
`none` when the ring is not the kernel's (R102). -/
def State.cbdOn (s : State) (b : BitVec 5) (v : Word) : Option State :=
  if 13 ≤ fld v 24 4 ∨ fld v 0 24 % 64 ≠ 0 then some s
  else if s.ringBad v then none
  else some (s.setCb b (cbdOf (s.cb b).log2sz v))
/-- A write of a circular-buffer descriptor (R102). -/
def State.writeCbd (s : State) (b : BitVec 5) (v : Word) : Option State :=
  if !bitAt v 36 then some (s.cbdOff b v)
  else if (s.cb b).en then some s
  else s.cbdOn b v

/-- The write of a control register (R268). -/
def writeCreg (n : BitVec 12) (v : Word) : Eff Unit :=
  match n.toNat with
  | 0x003 => Eff.mod fun s => s.writeRotc s.turn v
  | 0x004 => Eff.mod fun s => s.writeFpctl v
  | 0x005 => Eff.mod fun s => s.clearFlags false v
  | 0x006 => Eff.mod fun s => s.clearFlags true v
  | 0x007 => Eff.mod fun s => s.writeCesr v
  | 0x009 => leaseHarv
  | k =>
    if 0x100 ≤ k ∧ k < 0x140 then do
      leaseHarv
      Eff.mod fun s => s.writeSpfmt (fldv n 0 6) v
    else if 0x140 ≤ k ∧ k < 0x160 then do
      leaseHarv
      let r ← Eff.gets fun s => s.writeCbd (fldv n 0 5) v
      match r with
      | some t => set t
      | none => Eff.trap (alloc 3 0 0)
    else pure ()

/-- crw (R268): a control register takes A; a write to a read-only one is ignored whole. -/
def execCrw (f : XR) (s : State) : Host.Outcome State Fault Refusal :=
  issue (.crw f) (whenSlot f.pred f.sense do
    let a ← rS f.a
    waitCesr f.x
    writeCreg f.x a) s

/-! ## The register writes as operations of the table (R93, R99, R102, R104, R163, R172, R181) -/

/-- CBD_ENABLE: a descriptor write that carries EN = 1; a ring outside the declared ranges raises ALLOC cause 0x3 on
the writing sequencer. -/
def execCbdEnable (b : BitVec 5) (v : Word) (s : State) : Host.Outcome State Fault Refusal :=
  match s.writeCbd b (v ||| 2 ^ 36) with
  | some t => .next t
  | none => .next (s.raise (alloc 3 0 0))
/-- CBD_DISABLE: a descriptor write that clears EN. -/
def execCbdDisable (b : BitVec 5) (v : Word) (s : State) : Host.Outcome State Fault Refusal :=
  .next (s.cbdOff b (v &&& ~~~(2 ^ 36 : Word)))
/-- SPFMT_WRITE. -/
def execSpfmtWrite (b : BitVec 6) (v : Word) (s : State) : Host.Outcome State Fault Refusal :=
  if b.toNat < banksOf s.cls then .next (s.writeSpfmt b v) else .next s
/-- CESR_WRITE: it waits for the earlier copies of the context. -/
def execCesrWrite (v : Word) (s : State) : Host.Outcome State Fault Refusal :=
  .next (if s.converting then s else s.writeCesr v)
/-- FPFLG_CLEAR. -/
def execFpflgClear (eng : Bool) (v : Word) (s : State) : Host.Outcome State Fault Refusal := .next (s.clearFlags eng v)
/-- FPCTL_WRITE. -/
def execFpctlWrite (v : Word) (s : State) : Host.Outcome State Fault Refusal := .next (s.writeFpctl v)
/-- ROTC_WRITE. -/
def execRotcWrite (q : SeqId) (v : Word) (s : State) : Host.Outcome State Fault Refusal := .next (s.writeRotc q v)

/-! ## Discovery (R22-R26, R267, R378, R379) -/

/-- CRC-32C (R26, R321): one byte, reflected polynomial 0x82F63B78. -/
def crcByte (c : BitVec 32) (b : Byte) : BitVec 32 :=
  (upTo 8).foldl (fun (c : BitVec 32) _ => if c.getLsbD 0 then (c >>> 1) ^^^ 0x82F63B78 else c >>> 1) (c ^^^ b.zeroExtend 32)
def crc32c (bs : List Byte) : BitVec 32 := ~~~(bs.foldl crcByte (BitVec.allOnes 32))

/-- A socket's population entry, chiplet present. -/
def Pkg.popAt (p : Pkg) (s : Nat) : Pop := p.pop.get (Fin.ofNat 64 s)
def Pkg.isPresent (p : Pkg) (s : Nat) : Bool := (p.popAt s).state == 2
/-- The population bytes of a socket (R26). -/
def Pkg.popWord (p : Pkg) (s : Nat) : BitVec 32 :=
  let e := p.popAt s
  put 32 0 4 (designMap.getD s 0) ||| put 32 4 2 e.state.toNat ||| put 32 8 16 e.cores.toNat ||| put 32 24 8 (popCount e.cores)
/-- The 32 bytes of a socket entry (R24). -/
def Pkg.entry (p : Pkg) (s : Nat) : List Byte :=
  let e := p.popAt s
  toBytes (p.popWord s) ++ toBytes e.clsinfo ++ toBytes e.cstep ++ List.replicate 22 0

/-- Classes that run contexts (R272). -/
def isCompute (cls : Nat) : Bool := cls == 1 || cls == 2 || cls == 3 || cls == 4 || cls == 7
/-- The distinct pairs of class and stepping of the present compute and FIO sockets, in ascending socket order (R378). -/
def Pkg.tables (p : Pkg) : List (Nat × BitVec 16) :=
  dedup (((upTo 64).filter fun s => p.isPresent s && isCompute (designMap.getD s 0)).map fun s =>
    (designMap.getD s 0, (p.popAt s).cstep))
/-- LCLASS of a class and stepping: never 0 (R378). -/
def lclassOf (cls : Nat) (cstep : BitVec 16) : Nat := Config.lclass cls cstep.toNat % 65535 + 1

/-- Opcode numbers of the W32 map that are assigned (R200). -/
def assigned32 (n : Nat) : Bool :=
  (0x01 ≤ n && n ≤ 0x15) || (0x18 ≤ n && n ≤ 0x26) || (0x28 ≤ n && n ≤ 0x34) || (0x40 ≤ n && n ≤ 0x58)
/-- Opcode numbers of the W64 map that are assigned (R201). -/
def assigned64 (n : Nat) : Bool :=
  (0x01 ≤ n && n ≤ 0x0B) || (0x10 ≤ n && n ≤ 0x1D) || (0x20 ≤ n && n ≤ 0x3B) || (0x40 ≤ n && n ≤ 0x59) || (0x60 ≤ n && n ≤ 0x73) ||
  (0x78 ≤ n && n ≤ 0x7C) || (0x80 ≤ n && n ≤ 0x8E) || (0x90 ≤ n && n ≤ 0xA5) || (0xB0 ≤ n && n ≤ 0xBB) ||
  (0xC0 ≤ n && n ≤ 0xDF)
/-- An opcode of the W64 map exists on a class (R272, R300). -/
def classHas (cls n : Nat) : Bool :=
  if 0xB0 ≤ n ∧ n ≤ 0xBB then cls == 4
  else if 0xC0 ≤ n ∧ n ≤ 0xCF then cls == 1 || cls == 2
  else if 0xD0 ≤ n ∧ n ≤ 0xD7 then cls == 2
  else if 0xDB ≤ n ∧ n ≤ 0xDD then cls == 7
  else true
/-- Loads, for L1LAT (R379). -/
def isLoad (n : Nat) : Bool := n == 0x40 || n == 0x42 || n == 0x44 || n == 0x46 || n == 0x60
/-- Entry n of a latency table (R379). -/
def latEntry (cls : Nat) (cstep : BitVec 16) (n : Nat) : BitVec 32 :=
  let lc := lclassOf cls cstep
  let has := if n < 128 then assigned32 n else assigned64 (n - 128) && classHas cls (n - 128)
  if !has then 0
  else put 32 0 8 (Config.lat cls lc n) ||| put 32 8 4 (Config.rpt cls lc n % 15 + 1) |||
    (if 128 ≤ n ∧ isLoad (n - 128) then put 32 16 8 (Config.l1lat cls lc n) else 0)

/-- The latency area (R378, R379). -/
def Pkg.latency (p : Pkg) : List Byte :=
  let ts := p.tables
  leBytes 2 1 ++ leBytes 1 ts.length ++ List.replicate 13 0 ++
  ((ts.zip (upTo ts.length)).map fun t =>
    leBytes 1 t.1.1 ++ toBytes t.1.2 ++ leBytes 1 0 ++ leBytes 4 (16 + 16 * ts.length + 1536 * t.2) ++
    leBytes 2 (lclassOf t.1.1 t.1.2) ++ List.replicate 6 0).flatten ++
  (ts.map fun t => ((upTo 384).map fun n => toBytes (latEntry t.1 t.2 n)).flatten).flatten

/-- TBLLEN (R378). -/
def Pkg.tbllen (p : Pkg) : Nat := 0x850 + 1552 * p.tables.length

/-- The header (R23). -/
def Pkg.header (p : Pkg) : List Byte :=
  let present := (upTo 64).filter p.isPresent
  let nctx := (present.map fun s => if isCompute (designMap.getD s 0) then 8 * popCount (p.popAt s).cores else 0).sum
  leBytes 2 1 ++ toBytes p.stepping ++ toBytes p.bin ++ leBytes 1 present.length ++ leBytes 2 0 ++ toBytes p.pkgid ++
  toBytes (crc32c ((upTo 64).map fun s => toBytes (p.popWord s)).flatten) ++ leBytes 2 nctx ++ leBytes 2 0 ++
  leBytes 4 0x840 ++ leBytes 4 p.tbllen ++
  ((upTo 8).map fun k => leBytes 1 (present.filter fun s => designMap.getD s 0 == k + 1).length).flatten ++
  List.replicate 24 0

/-- The 8 bytes of the discovery table at an offset that is a multiple of 8 (R22, R267). -/
def Pkg.discovery (p : Pkg) (off : Nat) : Word :=
  let from_ (l : List Byte) (o : Nat) : Word := BitVec.ofNat 64 (leNat ((l.drop o).take 8))
  if p.tbllen ≤ off then 0
  else if off < 0x40 then from_ p.header off
  else if off < 0x840 then from_ (p.entry ((off - 0x40) / 32)) ((off - 0x40) % 32)
  else from_ p.latency (off - 0x840)

/-- disc (R267): 8 bytes of the discovery table. -/
def execDisc (f : XR) (s : State) : Host.Outcome State Fault Refusal :=
  issue (.disc f) (whenSlot f.pred f.sense do
    let a ← rS f.a
    let x ← Eff.gets fun s => s.pkg.discovery (a.toNat / 8 * 8)
    wS f.d x) s

/-! ## Lending (R266, R414) -/

/-- lend (R266): the named ranges are lent and will be zeroed. -/
def execLend (f : XR) (s : State) : Host.Outcome State Fault Refusal :=
  issue (.lend f) (whenSlot f.pred f.sense do
    leaseHarv
    let a ← rS f.a
    let ok ← Eff.gets fun s => s.ctx.bnd.crit && decide (fld a 0 16 < 2 ^ s.ctx.bnd.lend.length)
    Eff.check ok (lease 6 0xFF 0 0)
    Eff.mod fun s =>
      let p := s.part
      let new : BitVec 16 := fldv a 0 16 &&& ~~~p.lent
      s.setPart { p with lent := p.lent ||| new, scrub := p.scrub ||| new }
    dirty) s
/-- reclaim (R266, R414): the lease is revoked; named lent ranges come back and will be zeroed, and the harvest
context will restart its region. -/
def execReclaim (f : XR) (s : State) : Host.Outcome State Fault Refusal :=
  issue (.reclaim f) (whenSlot f.pred f.sense do
    leaseHarv
    let a ← rS f.a
    Eff.mod fun s =>
      let p := s.part
      let back : BitVec 16 := fldv a 0 16 &&& p.lent
      (s.setPart { p with
        lent := p.lent &&& ~~~back
        scrub := p.scrub ||| back
        lease := if p.lease = .held then .parked else p.lease
        restart := p.restart || (p.lease != .vacant && back != 0) }).parkHarvest s.ctx.id.loc
    dirty) s

/-- SCRUB_DONE (R417): the zeroing of a range of the owner in focus ends; its bytes are zero, its poison is gone, and
accesses that wait for it proceed. -/
def execScrubDone (k : BitVec 4) (s : State) : Host.Outcome State Fault Refusal :=
  let p := s.part
  if !p.scrub.getLsbD k.toNat then .next s
  else match s.lendRanges[k.toNat]? with
    | none => .next s
    | some r =>
      let s := s.modCore fun c => { c with
        spad := sclear c.spad r.lo r.len
        spois := sclear c.spois (r.lo / 64) (r.len / 64) }
      .next (s.setPart { p with scrub := p.scrub &&& ~~~(bitTo 16 k.toNat true) })

end Sys2Proof.Machine
end

