-- ==== Sys2Proof/Machine/Engine.lean ====
section
/-! DEFINITION. What every engine shares: queues, tickets and status words, posting, accesses, the run of the entry at
the head of a queue and its end (spec/05 R143-R147; spec/09 R252-R254; spec/11 R300-R302, R311, R312). -/

namespace Sys2Proof.Machine
open Sys2Proof

/-! ## Queues (R143) -/

/-- The engine queues that a core reaches. -/
inductive QId where
  | copy | mat | gath | col
  | xf (sock : BitVec 6) (q : BitVec 2)
  deriving DecidableEq, Repr

/-- Key of a transform queue. -/
def xfKey (sock : BitVec 6) (q : BitVec 2) : Nat := 4 * sock.toNat + q.toNat
/-- The entries of a queue, oldest first. -/
def State.equeue (s : State) : QId → List EngEnt
  | .copy => s.core.copyq
  | .mat => s.core.matq
  | .gath => s.core.gathq
  | .col => s.core.colq
  | .xf k q => sget [] s.xfq (xfKey k q)
def State.setEqueue (s : State) (q : QId) (l : List EngEnt) : State :=
  match q with
  | .copy => s.modCore fun c => { c with copyq := l }
  | .mat => s.modCore fun c => { c with matq := l }
  | .gath => s.modCore fun c => { c with gathq := l }
  | .col => s.modCore fun c => { c with colq := l }
  | .xf k j => { s with xfq := sput [] s.xfq (xfKey k j) l }
/-- Entries that a queue holds (R252, R300). -/
def QId.depth : QId → Nat
  | .copy => 64
  | .mat => 32
  | .gath => 32
  | .col => 16
  | .xf _ _ => 64

/-! ## Tickets (R252, R254, R301) -/

/-- The ticket families with their ENGINE codes (R312). -/
inductive Family where
  | mat | spa | xf | col | cpy
  deriving DecidableEq, Repr

def Family.engine : Family → Nat
  | .mat => 0
  | .spa => 1
  | .xf => 2
  | .col => 3
  | .cpy => 4
def Ctx.fam (c : Ctx) : Family → Fam
  | .mat => c.mat
  | .spa => c.spa
  | .xf => c.xf
  | .col => c.col
  | .cpy => c.cpy
def Ctx.setFam (c : Ctx) (f : Family) (x : Fam) : Ctx :=
  match f with
  | .mat => { c with mat := x }
  | .spa => { c with spa := x }
  | .xf => { c with xf := x }
  | .col => { c with col := x }
  | .cpy => { c with cpy := x }
/-- The family of an entry; a fence has no ticket (R330). -/
def EngBody.family : EngBody → Option Family
  | .copy _ => some .cpy
  | .gath _ _ _ => some .spa
  | .csrmm _ _ _ _ _ _ => some .spa
  | .csrgo _ _ => some .spa
  | .xform _ _ => some .xf
  | .coll _ => some .col
  | .fence _ _ => none
  | _ => some .mat

/-- A ticket is issued. -/
def Fam.issue (x : Fam) : Fam := { x with last := x.last + 1, pending := x.pending ++ [x.last + 1] }
/-- A ticket finishes; only the 64 most recent tickets are kept. -/
def Fam.finish (x : Fam) (r : TickRes) : Fam :=
  { x with
    pending := x.pending.erase r.tk
    recent := (r :: x.recent).filter fun y => x.last.toNat < y.tk.toNat + 64
    nerr := if r.code = 0 ∨ x.nerr = BitVec.allOnes 32 then x.nerr else x.nerr + 1 }
/-- CODE and POIS of a ticket. -/
def Fam.code (x : Fam) (t : Word) : BitVec 8 × Bool :=
  if t = 0 then (0, false)
  else if x.last.ult t then (0xFD, false)
  else if t.toNat + 64 ≤ x.last.toNat then (0xFE, false)
  else match x.recent.find? fun y => y.tk == t with
    | some y => (y.code, y.pois)
    | none => if x.pending.contains t then (0xFF, false) else (0xFE, false)
/-- The status word of a ticket (R254). -/
def Fam.status (x : Fam) (t : Word) : Word :=
  put 64 0 8 (x.code t).1.toNat ||| bitTo 64 8 (x.code t).2 ||| put 64 16 16 x.pending.length ||| put 64 32 32 x.nerr.toNat

/-- A wait form: every entry up to ticket u(A) has finished; D takes its status word (R254, R301). -/
def ticketWait (fam : Family) (d a : BitVec 6) : Eff Unit := do
  leaseHarv
  let t ← rS a
  let busy ← Eff.gets fun s => (s.ctx.fam fam).pending.any fun p => p.ule t
  if busy then Eff.block .engine else pure ()
  let w ← Eff.gets fun s => (s.ctx.fam fam).status t
  wS d w
/-- A status form. -/
def ticketStat (fam : Family) (d a : BitVec 6) : Eff Unit := do
  leaseHarv
  let t ← rS a
  let w ← Eff.gets fun s => (s.ctx.fam fam).status t
  wS d w

/-! ## Posting -/

/-- INFO of a PKTBAD record about an engine entry (R454). -/
def engInfo (cause : Nat) (fam : Family) (tk : Word) : BitVec 128 :=
  put 128 0 8 cause ||| put 128 8 8 fam.engine ||| put 128 64 64 tk.toNat

/-- The semaphore fields of layout XE, when enabled (R146). -/
def semField (en : BitVec 1) (n : BitVec 6) : Option (BitVec 6) := if en = 1 then some n else none

/-- A post turned away: it takes its ticket, finishes at once with code 0x04 and is reported (R252, R454). -/
def rejectPost (fam : Family) (d : BitVec 6) : Eff Unit := do
  let tk ← Eff.gets fun s => (s.ctx.fam fam).last + 1
  Eff.mod fun s => s.modCtx fun c => c.setFam fam (((c.fam fam).issue).finish { tk := tk, code := 4 })
  Eff.mod fun s => s.pktbad s.ctx (engInfo 0x0A fam tk) (some (s.turn, s.ipc (s.len 8))) 0
  wS d (BitVec.ofNat 64 tk.toNat)
  dirty

/-- A queue has room, or the post waits (R63, R300). -/
def waitRoom (q : QId) : Eff Unit := do
  let full ← Eff.gets fun s => decide (q.depth ≤ (s.equeue q).length)
  if full then Eff.block .engine else pure ()

/-- The shadow words that describe an entry (R311): indices of the last step made, ticket, steps, state. -/
def shadowWords (idx : List Nat) (tk : Word) (steps state : Nat) : Vector Word 3 :=
  #v[(idx.take 4).zip (upTo 4) |>.foldl (fun w x => w ||| put 64 (16 * x.2) 16 x.1) 0,
     put 64 0 16 (idx.getD 4 0) ||| put 64 16 16 (idx.getD 5 0) ||| put 64 32 32 tk.toNat,
     put 64 0 48 steps ||| put 64 48 2 state]

/-- Entries that the shadow words describe. -/
def EngBody.shadowed : EngBody → Bool
  | .nest _ _ _ _ _ => true
  | .gath _ _ _ => true
  | .csrgo _ _ => true
  | _ => false

/-- An entry enters a queue under the next accept number; the shadow words describe it from now on. -/
def State.accept (s : State) (q : QId) (tk : Word) (sw ss : Option (BitVec 6)) (body : EngBody) : State :=
  let e : EngEnt := { num := s.accNext, own := s.ctx.id, tk := tk, sw := sw, ss := ss, body := body }
  let s := { s.setEqueue q (s.equeue q ++ [e]) with accNext := s.accNext + 1 }
  if body.shadowed then s.modCtx fun c => { c with shadow := shadowWords [] tk 0 1, shnum := e.num } else s

/-- A post accepted: its ticket is issued and reaches D; the post is a release at CORE, or at PKG for a queue outside
the core (R144, R252). -/
def acceptPost (fam : Family) (q : QId) (d : BitVec 6) (sw ss : Option (BitVec 6)) (body : EngBody) : Eff Unit := do
  waitRoom q
  match q with
  | .xf _ _ => releaseAt 2
  | .col => releaseAt 2
  | _ => pure ()
  let tk ← Eff.gets fun s => (s.ctx.fam fam).last + 1
  Eff.mod fun s => s.modCtx fun c => c.setFam fam (c.fam fam).issue
  Eff.mod fun s => s.accept q tk sw ss body
  wS d tk
  dirty

/-! ## Accesses of a running entry (R87, R116, R117, R253) -/

/-- How an access of an entry ends: with a result; with the code that ends the entry and, for code 0x08, the failing
pointer; or with a wait, and the state that it leaves. -/
inductive Acc (α : Type) where
  | ok (a : α) (s : State)
  | stop (code : BitVec 8) (ptr : Word) (s : State)
  | wait (s : State)

def Acc.bind {α β : Type} (x : Acc α) (f : α → State → Acc β) : Acc β :=
  match x with
  | .ok a s => f a s
  | .stop c p s => .stop c p s
  | .wait s => .wait s

/-- What the layout of a page and the tag of a frame must be: each other's equal, or a given code; a destination's tag
is not compared (R115, R325). -/
inductive TagRule where
  | same
  | source (l : BitVec 4)
  | dest (l : BitVec 4)

def TagRule.ok (r : TagRule) (layout tag : BitVec 4) : Bool :=
  match r with
  | .same => layout == tag
  | .source l => layout == l && tag == l
  | .dest l => layout == l

/-- Translation of an entry's window-2 bytes; a walk that fails parks the entry (R117). -/
def engTranslate (rule : TagRule) : List (Nat × Nat × Nat) → State → Acc (List Frame)
  | [], s => .ok [] s
  | (o, va, n) :: rest, s =>
    let v := BitVec.ofNat 52 va
    match s.translate s.domOf v { dom := s.domOf, va := v, ctx := none, eng := s.entry.map fun k => (k, s.ctx.id) } none with
    | .error s => .wait s
    | .ok (e, s) =>
      (engTranslate rule rest s).bind fun fs s => .ok ({ off := o, pa := e.pa.toNat + va % 2 ^ e.bits, n := n, ent := e } :: fs) s

/-- The checks of one access: steps 1 to 3 of R87 as its slot stands now, a scrub in progress, then translation and tags:
its places, and its translated groups. -/
def engPlaces (need : BitVec 7) (rule : TagRule) (r : Req) (s : State) : Acc (List Place × List Frame) :=
  if r.n = 0 then .ok ([], []) s
  else match s.checkStatic need r with
    | some _ => .stop 8 r.ptr s
    | none =>
      if fld r.ptr 60 4 = 0 ∧ (firstInside (s.masked s.part.scrub) (fld r.ptr 0 60) (fld r.ptr 0 60 + r.n)).isSome then .wait s
      else if fld r.ptr 60 4 = 2 then
        (engTranslate rule (frames (s.vaOf r.ptr).toNat r.n) s).bind fun fs s =>
          if fs.any fun f => !rule.ok f.ent.layout (f.ent.tagOf f.pa) then .stop 1 0 s
          else .ok ((fs.map fun f => run .phys f.pa f.n).flatten, fs) s
      else .ok (s.direct r, []) s

/-- One hotness count for each request of up to 256 bytes that an access makes to a page (R123). -/
def State.touchAll (s : State) (fs : List Frame) (wr : Bool) : State :=
  fs.foldl (fun s f => (cutAt 256 f.pa f.n).foldl (fun s _ => s.touch f.ent wr) s) s

/-- One access of an entry: its checks, and its hotness counts. -/
def engAccess (need : BitVec 7) (wr : Bool) (rule : TagRule) (r : Req) (s : State) : Acc (List Place) :=
  (engPlaces need rule r s).bind fun x s => .ok x.1 (s.touchAll x.2 wr)

/-- The reads of an entry: bytes, and for each whether its line is poisoned. A read of a peer leaves as a request of one flit
(R453); the answer is free, and a refusal ends the entry with code 0x02 (R253). -/
def engRead (need : BitVec 7) (rule : TagRule) (r : Req) (s : State) : Acc (List Byte × List Bool) :=
  (engAccess need false rule r s).bind fun ps s =>
    if fld r.ptr 60 4 = 3 then
      if !s.netRoom s.ctx.sender 0 then .wait s
      else
        let (sent, s) := s.askPeer s.ctx r.ptr
        let (no, s) := s.freeBool
        if no || !sent then .stop 2 r.ptr s
        else
          let (bs, s) := s.freeBytes r.n
          let (p, s) := s.freeNat
          .ok (bs, (upTo bs.length).map fun k => p.testBit ((fld r.ptr 0 6 + k) / 64)) s
    else if fld r.ptr 60 4 = 4 then
      let (bs, s) := s.readHost s.domOf ps
      .ok (bs, ps.map fun _ => false) s
    else
      let (bs, s) := s.readPlaces ps
      .ok (bs, ps.map s.poisoned) s

/-- Poison the lines of places. -/
def State.poison (s : State) (ps : List Place) : State :=
  (dedup (ps.map fun p => ({ sp := p.sp, a := p.a / 64 } : Place))).foldl (init := s) fun s l =>
    s.setPois l.sp (sput false (s.poisOf l.sp) l.a true)

/-- Bytes written at checked places, with poison where it travels with them; host memory may refuse them (R429). -/
def engPut (ps : List Place) (bs : List Byte) (pois : List Bool) (s : State) : State :=
  if ps.any fun p => p.sp == .host then s.hostPut s.domOf ps bs
  else (s.writePlaces ps bs).poison (((ps.zip pois).filter (·.2)).map (·.1))

/-- The writes of an entry. A peer write leaves the package; its bytes were counted in PEND at acceptance (R140). One that no
up port can carry is refused: code 0x02 (R253, R435). -/
def engWrite (fam : Family) (tk : Word) (need : BitVec 7) (rule : TagRule) (r : Req) (bs : List Byte) (pois : List Bool)
    (s : State) : Acc Unit :=
  (engAccess need true rule r s).bind fun ps s =>
    if fld r.ptr 60 4 = 3 then
      if !s.netRoom s.ctx.sender bs.length then .wait s
      else
      let (lost, s) := s.sendPieces s.ctx r.ptr (s.peerOf r.ptr) (some (BitVec.ofNat 8 fam.engine, tk)) bs
      if lost = 0 then .ok () s else .stop 2 r.ptr s
    else .ok () (engPut ps bs pois s)

/-! ## The run of a queue's head -/

/-- How a step of an entry ends: it goes on or waits, or its work is done with a code. `ptr` is the failing pointer of
codes 0x02 and 0x08. -/
inductive EngRes where
  | more (e : EngEnt) (s : State)
  | done (e : EngEnt) (code : BitVec 8) (ptr : Word) (s : State)

/-- An access's result within a step of an entry. -/
def Acc.step {α : Type} (x : Acc α) (e : EngEnt) (f : α → State → EngRes) : EngRes :=
  match x with
  | .ok a s => f a s
  | .stop c p s => .done e c p s
  | .wait s => .more e s

/-- The head of a queue replaced. -/
def State.setHead (s : State) (q : QId) (e : EngEnt) : State := s.setEqueue q (e :: (s.equeue q).tail)

/-- POISDEF (R312): tile, engine, first row, rows, ticket, with the first poisoned pointer in ADDR. -/
def State.poisdef (s : State) (fam : Family) (tk : Word) (p : BitVec 8 × Nat × Word × Nat) : State :=
  let r := s.ctx.recF 0x82
  s.report s.domOf (s.queueOf s.ctx) (mkRec { r with
    poisoned := true, addr := p.2.2.1
    info := put 128 0 8 p.1.toNat ||| put 128 8 8 fam.engine ||| put 128 16 16 p.2.1 |||
      put 128 32 16 (min p.2.2.2 0xFFFF) ||| put 128 64 64 tk.toNat })

/-- A normal end: the entry signals (R253, R325). -/
def normalEnd (code : BitVec 8) : Bool := code == 0 || code == 5 || code == 7

/-- Window-3 bytes of a copy that it never sent (R140). -/
def EngEnt.unsent (e : EngEnt) (total : Nat) : Nat := total - e.sent

/-- The shadow words when an entry that they describe has moved (R311). -/
def State.updShadow (s : State) (e : EngEnt) (idx : List Nat) (state : Nat) : State :=
  if e.body.shadowed && s.ctx.shnum == e.num then
    s.modCtx fun c => { c with shadow := shadowWords idx e.tk e.prog state }
  else s

/-- An entry's flags reach ENGFLG, before anything tells that it has completed (R147, R182). -/
def State.postFlags (s : State) (e : EngEnt) : EngEnt × State :=
  ({ e with flags := 0 }, s.modCtx fun c => { c with engflg := c.engflg ||| e.flags })

/-- What an entry leaves behind when its code is set: the POISDEF record, its flags in ENGFLG, its ticket, the shadow
words. It leaves its queue. `idx` are the indices of its last step. -/
def State.retire (s : State) (q : QId) (e : EngEnt) (code : BitVec 8) (idx : List Nat) (unsent : Nat) : State :=
  let s := s.setEqueue q (s.equeue q).tail
  match e.body.family with
  | none => s
  | some fam =>
    let s := match e.pois with
      | some p => s.poisdef fam e.tk p
      | none => s
    let s := s.modCtx fun c => { c with
      engflg := c.engflg ||| e.flags, pend := c.pend - BitVec.ofNat 40 unsent }
    let r : TickRes := { tk := e.tk, code := code, pois := e.pois.isSome, nbad := BitVec.ofNat 64 e.bads.length,
                         first := match e.bads with
                           | [] => BitVec.allOnes 64
                           | b :: _ => BitVec.ofNat 64 b }
    (s.modCtx fun c => c.setFam fam ((c.fam fam).finish r)).updShadow e idx 3

/-- The end of an entry: it waits for its peer writes, then for room in the semaphore it signals, then retires. One that ends
early does not signal: R325 says so of transforms, and of the others the spec says nothing (log entry 49). -/
def State.endEntry (s : State) (q : QId) (e : EngEnt) (code : BitVec 8) (idx : List Nat) (unsent : Nat) : State :=
  let keep := s.setHead q { e with fin := some code }
  let out := match e.body.family with
    | none => false
    | some fam => s.peers.any fun p => p.own == e.own && p.engine == some (BitVec.ofNat 8 fam.engine, e.tk)
  if out then keep
  else match (if normalEnd code then e.ss else none) with
    | none => s.retire q e code idx unsent
    | some n => match s.semTry n true (.inr e.num) with
      | (false, s) => s.setHead q { e with fin := some code }
      | (true, s) => s.retire q e code idx unsent

/-- The record of an entry that ends with code 0x02 or 0x08 (R454). -/
def State.endRecord (s : State) (e : EngEnt) (code : BitVec 8) (ptr : Word) : State :=
  match e.body.family with
  | none => s
  | some fam =>
    if code = 8 then s.pktbad s.ctx (engInfo 0x0B fam e.tk) none ptr
    else if code = 2 then s.pktbad s.ctx (engInfo 0x0C fam e.tk) none ptr
    else s

/-- What one kind of entry is: whether the event at hand performs it, one step, the indices of its last step, the peer
bytes counted at its acceptance. -/
structure Engine where
  mine : EngBody → Bool
  step : EngEnt → State → EngRes
  idx : EngEnt → List Nat := fun _ => []
  total : EngEnt → Nat := fun _ => 0

/-- The entry leaves its semaphore, before it reads anything (R146), in its turn (R260); none while it must wait. -/
def State.begin (s : State) (e : EngEnt) : Option EngEnt × State :=
  if e.waited then (some e, s)
  else match e.sw with
    | none => (some { e with waited := true }, s)
    | some n => match s.semTry n false (.inr e.num) with
      | (false, s) => (none, s)
      | (true, s) => (some { e with waited := true }, s)

/-- An entry that waits on a monitor, in the overflow list, or woken and not yet walked again (R117). -/
def State.entryParked (s : State) (num : Nat) : Bool :=
  let mine (w : Waiter) : Bool := w.eng.any fun x => x.1 == num
  (s.mons.any fun m => m.waiters.any mine) || s.overflow.any mine || s.woken.any mine

/-- One step of the entry at the head of a queue, made in the focus of its context (R145, R253); a parked one is held, and
with it the queue (R117). -/
def State.runHead (s : State) (q : QId) (g : Engine) : State :=
  match s.equeue q with
  | [] => s
  | e :: rest =>
    if !g.mine e.body then s
    else
      let s := s.focus e.own
      if s.ctx.id ≠ e.own then s.setEqueue q rest
      else if s.gangHolds s.domOf s.ctx.bnd.job || s.entryParked e.num then s
      else match s.begin e with
        | (none, s) => s
        | (some e, s) =>
          match e.fin with
          | some code => s.endEntry q e code (g.idx e) (g.total e - e.sent)
          | none => match g.step e { s with entry := some e.num } with
            | .more e s => ({ s with entry := none }.setHead q e).updShadow e (g.idx e) 1
            | .done e code ptr s =>
              ({ s with entry := none }.endRecord e code ptr).endEntry q e code (g.idx e) (g.total e - e.sent)

end Sys2Proof.Machine
end

