-- ==== Sys2Proof/Machine/Matrix.lean ====
section
/-! DEFINITION. The matrix engine: loop-nest table, tiles, scale memory, nests, single steps and tile operations
(spec/11 R303-R315; spec/06 R173-R176). -/

namespace Sys2Proof.Machine
open Sys2Proof

/-! ## Tiles (R96) -/

/-- Rows of a tile. -/
def tileRows (cls : Nat) : Nat := if cls = 1 then 256 else 128
/-- Key of an element of a tile, and of a row's poison bit. -/
def tileKey (t i j : Nat) : Nat := (t * 256 + i) * 128 + j
def rowKey (t i : Nat) : Nat := t * 256 + i
/-- Columns 0 to n - 1 of a row. -/
def Core.tileRow (c : Core) (t i n : Nat) : List (BitVec 32) := (upTo n).map fun j => sget 0 c.tiles (tileKey t i j)
/-- Elements of a row written from column 0 on. -/
def Core.setRow (c : Core) (t i : Nat) (xs : List (BitVec 32)) : Core :=
  { c with tiles := (xs.zip (upTo xs.length)).foldl (fun m x => sput 0 m (tileKey t i x.2) x.1) c.tiles }
def Core.rowPois (c : Core) (t i : Nat) : Bool := sget false c.tpois (rowKey t i)
def Core.setRowPois (c : Core) (t i : Nat) (b : Bool) : Core := { c with tpois := sput false c.tpois (rowKey t i) b }
/-- Rows 0 to mv and columns 0 to nv of a tile zeroed, with their rows' poison (R309). -/
def Core.zeroTile (c : Core) (t mv nv : Nat) : Core :=
  (upTo (mv + 1)).foldl (fun c i => (c.setRow t i (List.replicate (nv + 1) 0)).setRowPois t i false) c
/-- A tile that the kernel declares (R96). -/
def tileDecl (b : Bind) (t n : Nat) : Bool := decide (b.tfirst ≤ t) && decide (t + n ≤ b.tfirst + b.tcount)

/-! ## Operands (R303, R304) -/

def fltFmt (f : Nat) : Bool := (1 ≤ f && f ≤ 7) || (0x0C ≤ f && f ≤ 0x12)
def intFmt (f : Nat) : Bool := 0x08 ≤ f && f ≤ 0x0B
/-- Accepted pairs of operand formats (R303). -/
def pairOk (cls fa fb : Nat) : Bool :=
  (fa == 0 && fb == 0) || (fltFmt fa && fltFmt fb) || (cls == 1 && fa == 0x13 && fb == 0x13) || (intFmt fa && intFmt fb)
/-- Bytes of a row or column of n elements, up to a whole storage unit (R158, R304). -/
def rowBytes (f n : Nat) : Nat := ceilDiv n (storageUnit f).1 * (storageUnit f).2
/-- Decoded elements of a row or column in scratchpad, and the flags of its scales. -/
def operandRow (c : Core) (f : Nat) (bexp : Int) (off n : Nat) : List Ext × BitVec 7 :=
  decUnits f bexp (Memory.getN c.spad off (rowBytes f n))
/-- A line under the bytes is poisoned. -/
def spadPois (c : Core) (off n : Nat) : Bool :=
  (upTo ((off + n - 1) / 64 - off / 64 + 1)).any fun k => n ≠ 0 && sget false c.spois (off / 64 + k)
/-- Format of the bank of an offset. -/
def Core.fmtOf (c : Core) (cls off : Nat) : Nat := fld (vget c.spfmt (bankOf cls off)) 0 5
/-- The banks of [lo, hi) all hold a format (R303). -/
def Core.uniform (c : Core) (cls f lo hi : Nat) : Bool :=
  decide (hi ≤ lo) || (upTo (bankOf cls (hi - 1) - bankOf cls lo + 1)).all fun k =>
    fld (vget c.spfmt (bankOf cls lo + k)) 0 5 == f

/-! ## Accumulation (R173-R176) -/

/-- Consecutive pieces of n elements, the last one short. -/
def chunks {α : Type} (n : Nat) (l : List α) : List (List α) :=
  (upTo (ceilDiv l.length n)).map fun i => (l.drop (n * i)).take n

/-- One group of a floating accumulation (R173, R174). -/
def groupFlt (acc : BitVec 32) (ps : List (Ext × Ext)) : BitVec 32 × BitVec 7 :=
  let prods := ps.map fun p => p.1.mul p.2
  let s := Ext.sum false (fp32.dec acc.toNat :: prods.map (·.1))
  let r := deliver fp32 0 0 false (s.1, s.2 || prods.any (·.2))
  (BitVec.ofNat 32 r.1, r.2)
/-- One group of a CFP8 accumulation under its scales (R161, R175). -/
def groupCfp (acc : BitVec 32) (sa sw : Ext) (ps : List (Ext × Ext)) : BitVec 32 × BitVec 7 :=
  let under (sc x : Ext) : Ext := if sc.isZero then zeroScaled x else x
  let prods := ps.map fun p => (under sa p.1).mul (under sw p.2)
  let p := Ext.sum false (prods.map (·.1))
  let sc := sa.mul sw
  let term := sc.1.mul p.1
  let open_ := p.1.isZero && !sc.1.isFin
  let s := Ext.sum false [fp32.dec acc.toNat, term.1]
  let r := deliver fp32 0 0 false (s.1, s.2 || p.2 || sc.2 || term.2 || open_ || prods.any (·.2))
  (BitVec.ofNat 32 r.1, r.2 ||| flagIf (sa.isZero || sw.isZero) flagZS)
/-- One group of an integer accumulation (R176). -/
def groupInt (acc : BitVec 32) (ps : List (Ext × Ext)) : BitVec 32 × BitVec 7 :=
  let s := acc.toInt + (finSum (ps.map fun p => (p.1.mul p.2).1)).1
  (BitVec.ofInt 32 s, flagIf (s < -2147483648 || 2147483647 < s) flagIW)

/-- Groups taken in ascending k, with a group's number at hand. -/
def overGroups (f : Nat → BitVec 32 → List (Ext × Ext) → BitVec 32 × BitVec 7) :
    Nat → BitVec 32 → List (List (Ext × Ext)) → BitVec 32 × BitVec 7
  | _, acc, [] => (acc, 0)
  | g, acc, ps :: rest =>
    let (acc, fl) := f g acc ps
    let (acc, fl') := overGroups f (g + 1) acc rest
    (acc, fl ||| fl')

/-- The dot product of row i and column j into an accumulator. `sa` and `sw` give the CFP8 scales of group g. -/
def dot (fa : Nat) (sa sw : Nat → Ext) (acc : BitVec 32) (xs ys : List Ext) : BitVec 32 × BitVec 7 :=
  let ps := xs.zip ys
  if fa = 0x13 then overGroups (fun g acc ps => groupCfp acc (sa g) (sw g) ps) 0 acc (chunks 256 ps)
  else if intFmt fa then overGroups (fun _ => groupInt) 0 acc (chunks 32 ps)
  else overGroups (fun _ => groupFlt) 0 acc (chunks 32 ps)

/-- A scale word (R310). -/
def Core.scaleAt (c : Core) (w : Int) : Ext := fp32.dec (sget 0 c.scale w.toNat).toNat

/-- Rows of operand A against columns of operand B, accumulated into a tile (R309); the flags of all groups. -/
def Core.accumulate (c : Core) (t fa : Nat) (sab swb : Int) (rows cols : List (List Ext)) : Core × BitVec 7 :=
  (rows.zip (upTo rows.length)).foldl (init := (c, 0)) fun a r =>
    let sa (g : Nat) := c.scaleAt (sab + 256 * g + r.2)
    let res := (cols.zip (upTo cols.length)).map fun k =>
      dot fa sa (fun g => c.scaleAt (swb + 128 * g + k.2)) (sget 0 a.1.tiles (tileKey t r.2 k.2)) r.1 k.1
    (a.1.setRow t r.2 (res.map (·.1)), res.foldl (fun f x => f ||| x.2) a.2)

/-! ## The loop-nest table (R305, R306) -/

structure NestLvl where
  cnt : Nat
  kred : Bool
  tstr : Nat
  astr : Int
  bstr : Int
  cstr : Int
  sastr : Int
  swstr : Int

def nestLvl (tbl : Vector Word 32) (l : Nat) : NestLvl :=
  let w (k : Nat) : Word := vget tbl (8 + 4 * l + k)
  { cnt := fld (w 0) 0 16, kred := bitAt (w 0) 16, tstr := fld (w 0) 17 5
    astr := (fldv (w 1) 0 32 : BitVec 32).toInt, bstr := (fldv (w 1) 32 32 : BitVec 32).toInt
    cstr := (fldv (w 2) 0 32 : BitVec 32).toInt
    sastr := (fldv (w 2) 32 16 : BitVec 16).toInt, swstr := (fldv (w 2) 48 16 : BitVec 16).toInt }

def nlev (tbl : Vector Word 32) : Nat := fld (vget tbl 0) 55 3
/-- The levels that are used. -/
def nestLvls (tbl : Vector Word 32) : List NestLvl := (upTo (min (nlev tbl) 6)).map (nestLvl tbl)

/-- Header fields that every step uses. -/
structure NestHdr where
  klen : Nat
  mv : Nat
  nv : Nat
  ars : Nat
  bcs : Nat
  cbase : Nat
  crs : Nat
  sfmt : Nat
  srm : Nat
  ssat : Bool
  sab : Int
  swb : Int

def nestHdr (tbl : Vector Word 32) : NestHdr :=
  let w (k : Nat) : Word := vget tbl k
  { cbase := fld (w 1) 0 24, klen := fld (w 1) 24 16, mv := fld (w 1) 40 8, nv := fld (w 1) 48 7
    ars := fld (w 2) 0 24, bcs := fld (w 2) 24 24, crs := fld (w 3) 0 24, sfmt := fld (w 3) 24 5
    srm := fld (w 3) 29 3, ssat := bitAt (w 3) 32, sab := fld (w 4) 0 16, swb := fld (w 4) 16 16 }

/-! ## Checks at issue (R308) -/

/-- Lowest and highest step base, from the signs of the strides. -/
def spread (base : Int) (lvls : List NestLvl) (str : NestLvl → Int) : Int × Int :=
  lvls.foldl (fun a l =>
    let d := str l * ((l.cnt - 1 : Nat) : Int)
    if d < 0 then (a.1 + d, a.2) else (a.1, a.2 + d)) (base, base)

/-- The bytes [lo, hi) that an operand can reach. -/
abbrev Span := Int × Int

/-- Bytes of an operand of rows, from the bases of its steps. -/
def operandSpan (b : Int × Int) (stride last bytes : Nat) : Span :=
  if bytes = 0 then (b.1, b.1) else (b.1, b.2 + (last * stride + bytes : Nat))

/-- The window-0 pointer of an offset. -/
def offPtr (o : Int) : Word := BitVec.ofInt 64 o

/-- Steps 1 and 2 of R308: declared ranges, then lent ranges. -/
def checkSpans (spans : List Span) : Eff Unit := do
  Eff.each spans fun p => do
    let bad ← Eff.gets fun s => decide (p.1 < p.2) &&
      (decide (p.1 < 0) || (firstOutside s.ctx.bnd.spm p.2.toNat (s.ctx.bnd.spm.length + 1) p.1.toNat).isSome)
    Eff.check (!bad) (alloc 1 (offPtr p.1) (offPtr (p.2 - 1)))
  Eff.each spans fun p => do
    let hit ← Eff.gets fun s => if p.1 < p.2 then firstInside (s.masked s.part.lent) p.1.toNat p.2.toNat else none
    match hit with
    | some k => Eff.trap (lease 5 0xFF (offPtr p.1) (BitVec.ofNat 64 k))
    | none => pure ()
/-- Step 3: tiles t to t + n - 1 are declared. -/
def checkTiles (t n : Nat) : Eff Unit := do
  let ok ← Eff.gets fun s => tileDecl s.ctx.bnd t n
  Eff.check ok (alloc 4 0 0)

/-- The reaches of operands A and B and, when it is stored, of the result. -/
def nestSpans (h : NestHdr) (lvls : List NestLvl) (a b : Nat) (st : Bool) (fa fb : Nat) : List Span :=
  [operandSpan (spread a lvls (·.astr)) h.ars h.mv (rowBytes fa h.klen),
   operandSpan (spread b lvls (·.bstr)) h.bcs h.nv (rowBytes fb h.klen)] ++
  if st then [operandSpan (spread h.cbase lvls (·.cstr)) h.crs h.mv ((h.nv + 1) * elemBits h.sfmt / 8)] else []

/-! ## Operand groups (R350, R358) -/

/-- The first byte of an operand's reach outside its group of banks: operand A belongs in the lower half, B in the upper. -/
def outOfGroup (cls : Nat) (isB : Bool) (p : Span) : Option Nat :=
  let top := (if cls = 1 then 32 else 16) * 2 ^ 18
  if p.2 ≤ p.1 then none
  else if isB then (if p.1.toNat < top then some p.1.toNat else none)
  else if top < p.2.toNat then some (max p.1.toNat top) else none
/-- The rows of an operand of a single step, its own footprint (R350). -/
def stepRows (base stride last bytes : Nat) : List Span :=
  if bytes = 0 then [] else (upTo (last + 1)).map fun i => (base + (i * stride : Nat), base + (i * stride + bytes : Nat))
/-- Operands A and B of a single step, as rows and columns. -/
def stepOperands (h : NestHdr) (a b fa fb : Nat) : List (List Span) :=
  [stepRows a h.ars h.mv (rowBytes fa h.klen), stepRows b h.bcs h.nv (rowBytes fb h.klen)]
/-- The first misplaced byte of an operand. -/
def firstOut (cls : Nat) (isB : Bool) (ps : List Span) : Option Nat :=
  (ps.filterMap (outOfGroup cls isB)).min?
/-- A misplaced operand, A before B: LANE of R359, its first misplaced byte, its pieces. -/
def misplaced (cls : Nat) (ops : List (List Span)) : Option (Nat × Nat × List Span) :=
  ((ops.take 2).zip [false, true]).findSome? fun x =>
    (firstOut cls x.2 x.1).map fun o => (if x.2 then 1 else 0, o, x.1)
/-- The scratchpad rows of a bank that hold bytes of an operand: its shares of that bank (R347). -/
def rowsIn (b : Nat) (ps : List Span) : List Nat :=
  (List.range 1024).filterMap fun k =>
    if ps.any fun p => decide (p.1 < (1024 * b + k + 1 : Nat) * 256) && decide (((1024 * b + k : Nat) : Int) * 256 < p.2) &&
        decide (p.1 < p.2)
    then some (1024 * b + k) else none
/-- Class G of strict mode, before a ticket is taken (R358, R359). -/
def strictGroup (ops : List (List Span)) : Eff Unit := do
  let t ← Eff.gets fun s =>
    if !s.ctx.bnd.strict then none
    else match misplaced s.cls ops with
      | none => none
      | some (l, o, ps) =>
        let b := o / 2 ^ 18
        some (bankc 4 3 b l (rowsIn b ps).length 0xFF (BitVec.ofNat 64 o) (BitVec.ofNat 64 o))
  match t with
  | some t => Eff.trap t
  | none => pure ()
/-- A misplaced step is counted as MGRP (R350, R363). -/
def State.countGroup (s : State) (ops : List (List Span)) : State :=
  if (misplaced s.cls ops).isSome then s.modCtx fun c => c.count 8 1 else s

/-- The rejections that a nest and a single step share (R308, R310, R158); a scale word below 0 is one of them (log entry 62). -/
def stepBad (cls : Nat) (c : Core) (tbl : Vector Word 32) (lvls : List NestLvl) (fa fb : Nat) (spans : List Span) : Bool :=
  let h := nestHdr tbl
  let whole (f : Nat) : Bool := h.klen % (storageUnit f).1 == 0
  let same (f : Nat) (p : Option Span) : Bool :=
    match p with
    | some p => c.uniform cls f p.1.toNat p.2.toNat
    | none => true
  let groups := ceilDiv h.klen 256 - 1
  let sa := spread h.sab lvls (·.sastr)
  let sw := spread h.swb lvls (·.swstr)
  fld (vget tbl 1) 55 9 ≠ 0 || fld (vget tbl 2) 48 16 ≠ 0 || fld (vget tbl 3) 33 31 ≠ 0 || fld (vget tbl 4) 48 16 ≠ 0 ||
  h.klen == 0 || tileRows cls ≤ h.mv || !pairOk cls fa fb || !same fa spans[0]? || !same fb spans[1]? ||
  !whole fa || !whole fb || 4 < h.sfmt || 3 < h.srm || (intFmt fa && h.sfmt ≠ 0) ||
  (fa == 0x13 && (sa.1 < 0 || sw.1 < 0 || 65536 ≤ sa.2 + 256 * groups + h.mv || 65536 ≤ sw.2 + 128 * groups + h.nv))

/-- The rejections of a nest (R308). -/
def nestBad (tbl : Vector Word 32) : Bool :=
  fld (vget tbl 0) 58 6 ≠ 0 || nlev tbl == 0 || nlev tbl == 7 ||
  (upTo (min (nlev tbl) 6)).any fun l =>
    (nestLvl tbl l).cnt == 0 || fld (vget tbl (8 + 4 * l)) 22 42 ≠ 0 || vget tbl (11 + 4 * l) ≠ 0

/-! ## Steps (R309, R312) -/

/-- One step of a product into a tile: its place and what stands at its ends. -/
structure MStep where
  t : Nat
  a : Nat
  b : Nat
  c : Nat
  sab : Int
  swb : Int
  bexa : Int
  bexb : Int
  fa : Nat
  fb : Nat
  zero : Bool
  store : Bool

/-- The poison of a write: the first poisoned pointer of the entry is kept and the rows are counted (R253, R312). -/
def EngEnt.notePois (e : EngEnt) (tile : BitVec 8) (row n : Nat) (ptr : Word) : EngEnt :=
  match e.pois with
  | none => { e with pois := some (tile, row, ptr, n) }
  | some (t, r, p, k) => { e with pois := some (t, r, p, k + n) }

/-- FP32 elements written as format f; format 0 copies the bits (R309). -/
def convRow (f mode : Nat) (sat : Bool) (xs : List (BitVec 32)) : List Byte × BitVec 7 :=
  if f = 0 then ((xs.map toBytes).flatten, 0) else encUnits f mode sat (xs.map fun x => fp32.dec x.toNat) []

/-- A row of a tile written to scratchpad, its poison with it (R312). -/
def storeRow (t i off : Nat) (f mode : Nat) (sat : Bool) (n : Nat) (x : EngEnt × State) : EngEnt × State :=
  let (bs, fl) := convRow f mode sat (x.2.core.tileRow t i n)
  let bad := x.2.core.rowPois t i
  let s := engPut (run .spad off bs.length) bs (bs.map fun _ => bad) x.2
  let e := { x.1 with flags := x.1.flags ||| fl }
  (if bad then e.notePois (BitVec.ofNat 8 t) i 1 (BitVec.ofNat 64 off) else e, s)

/-- The body of R309 for one step. -/
def matStep (h : NestHdr) (m : MStep) (e : EngEnt) (s : State) : EngEnt × State :=
  let c := if m.zero then s.core.zeroTile m.t h.mv h.nv else s.core
  let rows := (upTo (h.mv + 1)).map fun i => operandRow c m.fa m.bexa (m.a + i * h.ars) h.klen
  let cols := (upTo (h.nv + 1)).map fun j => operandRow c m.fb m.bexb (m.b + j * h.bcs) h.klen
  let fl := (rows ++ cols).foldl (fun f x => f ||| x.2) 0
  let all := (upTo (h.nv + 1)).any fun j => spadPois c (m.b + j * h.bcs) (rowBytes m.fb h.klen)
  let c := (upTo (h.mv + 1)).foldl (init := c) fun c i =>
    if all || spadPois c (m.a + i * h.ars) (rowBytes m.fa h.klen) then c.setRowPois m.t i true else c
  let (c, fl') := c.accumulate m.t m.fa m.sab m.swb (rows.map (·.1)) (cols.map (·.1))
  let e := { e with flags := e.flags ||| fl ||| fl', prog := e.prog + 1 }
  let s := { s with core := c }
  if m.store then
    (upTo (h.mv + 1)).foldl (fun x i => storeRow m.t i (m.c + i * h.crs) h.sfmt h.srm h.ssat (h.nv + 1) x) (e, s)
  else (e, s)

/-- Indices of step n, level 0 first. -/
def stepIdx : List Nat → Nat → List Nat
  | [], _ => []
  | c :: cs, n => n % c :: stepIdx cs (n / c)
/-- Steps of a nest. -/
def nestTotal (tbl : Vector Word 32) : Nat := ((nestLvls tbl).map (·.cnt)).foldl (· * ·) 1
/-- A base moved by the strides of the levels. -/
def atStep (base : Int) (lvls : List NestLvl) (idx : List Nat) (str : NestLvl → Int) : Int :=
  (lvls.zip idx).foldl (fun a x => a + x.2 * str x.1) base

/-- Step n of a nest (R309). -/
def nestStepAt (tbl : Vector Word 32) (rbase rsize fa fb n : Nat) : MStep :=
  let lvls := nestLvls tbl
  let idx := stepIdx (lvls.map (·.cnt)) n
  let h := nestHdr tbl
  let red := (lvls.zip idx).filter fun x => x.1.kred
  let first := red.all fun x => x.2 == 0
  let last := red.all fun x => x.2 == x.1.cnt - 1
  { t := rbase + (atStep (fld (vget tbl 0) 48 5) lvls idx (fun l => l.tstr)).toNat % rsize
    a := (atStep (fld (vget tbl 0) 0 24) lvls idx (·.astr)).toNat
    b := (atStep (fld (vget tbl 0) 24 24) lvls idx (·.bstr)).toNat
    c := (atStep h.cbase lvls idx (·.cstr)).toNat
    sab := atStep h.sab lvls idx (·.sastr), swb := atStep h.swb lvls idx (·.swstr)
    bexa := (fldv (vget tbl 4) 32 8 : BitVec 8).toInt, bexb := (fldv (vget tbl 4) 40 8 : BitVec 8).toInt
    fa := fa, fb := fb, zero := first && bitAt (vget tbl 0) 53, store := last && bitAt (vget tbl 0) 54 }

/-- Indices of the last completed step of an entry that the shadow words describe (R311, R318). -/
def EngEnt.idx (e : EngEnt) : List Nat :=
  if e.prog = 0 then []
  else match e.body with
    | .nest tbl _ _ _ _ => stepIdx ((nestLvls tbl).map (·.cnt)) (e.prog - 1)
    | _ => [e.prog - 1]

/-! ## Table, ring and shadow forms (R307, R311) -/

/-- mnset (R307). -/
def execMnset (f : XR) (s : State) : Host.Outcome State Fault Refusal :=
  issue (.mnset f) (whenSlot f.pred f.sense do
    leaseHarv
    let a ← rS f.a
    Eff.mod fun s => s.modCtx fun c => { c with nest := vset c.nest (fld f.x 0 5) a }) s
/-- mnget (R307). -/
def execMnget (f : XR) (s : State) : Host.Outcome State Fault Refusal :=
  issue (.mnget f) (whenSlot f.pred f.sense do
    leaseHarv
    let w ← Eff.gets fun s => vget s.ctx.nest (fld f.x 0 5)
    wS f.d w) s
/-- mbase (R307): BEXA and BEXB of word 4. -/
def execMbase (f : XR) (s : State) : Host.Outcome State Fault Refusal :=
  issue (.mbase f) (whenSlot f.pred f.sense do
    leaseHarv
    let a ← rS f.a
    Eff.mod fun s => s.modCtx fun c => { c with nest := vset c.nest 4 (setFld (vget c.nest 4) 32 16 (fld a 0 16)) }) s
/-- mring (R307). -/
def execMring (f : XR) (s : State) : Host.Outcome State Fault Refusal :=
  issue (.mring f) (whenSlot f.pred f.sense do
    leaseHarv
    checkTiles (fld f.x 0 5) (fld f.x 5 5 + 1)
    Eff.mod fun s => s.modCtx fun c => { c with
      rbase := fldv f.x 0 5, rsize := BitVec.ofNat 6 (fld f.x 5 5 + 1) }) s

/-- The entry of the context in focus that is running, the one accepted first if two are (R311). -/
def State.shadowRun (s : State) : Option EngEnt :=
  ((s.core.matq ++ s.core.gathq).filter fun e => e.own == s.ctx.id && e.body.shadowed && e.waited).foldl (init := none)
    fun a e =>
      match a with
      | none => some e
      | some x => if e.num < x.num then some e else some x
/-- The shadow words (R311). -/
def State.shadowNow (s : State) : Vector Word 3 :=
  match s.shadowRun with
  | some e => shadowWords e.idx e.tk e.prog 1
  | none => s.ctx.shadow
/-- mshadow (R311). -/
def execMshadow (f : XR) (s : State) : Host.Outcome State Fault Refusal :=
  issue (.mshadow f) (whenSlot f.pred f.sense do
    leaseHarv
    let w ← Eff.gets fun s => vget s.shadowNow (fld f.x 0 2)
    wS f.d w) s

/-- mwait (R301). -/
def execMwait (f : XR) (s : State) : Host.Outcome State Fault Refusal :=
  issue (.mwait f) (whenSlot f.pred f.sense (ticketWait .mat f.d f.a)) s
/-- mstat (R301). -/
def execMstat (f : XR) (s : State) : Host.Outcome State Fault Refusal :=
  issue (.mstat f) (whenSlot f.pred f.sense (ticketStat .mat f.d f.a)) s

/-! ## Posts -/

/-- mgo (R308). -/
def execMgo (f : XE) (s : State) : Host.Outcome State Fault Refusal :=
  issue (.mgo f) (whenSlot f.pred f.sense do
    leaseHarv
    let tbl ← Eff.gets fun s => s.ctx.nest
    let cls ← Eff.gets State.cls
    let c ← Eff.gets fun s => s.core
    let rb ← Eff.gets fun s => s.ctx.rbase.toNat
    let rs ← Eff.gets fun s => s.ctx.rsize.toNat
    let a := fld (vget tbl 0) 0 24
    let b := fld (vget tbl 0) 24 24
    let fa := c.fmtOf cls a
    let fb := c.fmtOf cls b
    let lvls := nestLvls tbl
    let spans := nestSpans (nestHdr tbl) lvls a b (bitAt (vget tbl 0) 54) fa fb
    checkSpans spans
    checkTiles rb rs
    strictGroup ((spans.take 2).map fun p => [p])
    let body := EngBody.nest tbl rb rs (BitVec.ofNat 5 fa) (BitVec.ofNat 5 fb)
    if nestBad tbl || stepBad cls c tbl lvls fa fb spans then rejectPost .mat f.d
    else acceptPost .mat .mat f.d (semField f.swe f.sw) (semField f.sse f.ss) body) s

/-- The post of a single step into tile t (R314). -/
def postStep (d : BitVec 6) (t : Nat) (b c : Word) (x : BitVec 12) : Eff Unit := do
  let tbl ← Eff.gets fun s => s.ctx.nest
  let cls ← Eff.gets State.cls
  let k ← Eff.gets fun s => s.core
  let oa := fld b 0 24
  let ob := fld b 24 24
  let fa := k.fmtOf cls oa
  let fb := k.fmtOf cls ob
  let spans := nestSpans (nestHdr tbl) [] oa ob (bitAt x 1) fa fb
  checkSpans spans
  checkTiles t 1
  strictGroup (stepOperands (nestHdr tbl) oa ob fa fb)
  let body := EngBody.step t tbl oa ob (fldv c 0 8) (fldv c 8 8) (bitAt x 0) (bitAt x 1) (BitVec.ofNat 5 fa) (BitVec.ofNat 5 fb)
  if stepBad cls k tbl [] fa fb spans then rejectPost .mat d else acceptPost .mat .mat d none none body

/-- mmt (R314). -/
def execMmt (f : XR) (s : State) : Host.Outcome State Fault Refusal :=
  issue (.mmt f) (whenSlot f.pred f.sense do
    leaseHarv
    let b ← rS f.b
    let c ← rS f.c
    postStep f.d f.a.toNat b c f.x) s
/-- mmts (R314): the tile is taken from the ring by a loop counter of EX. -/
def execMmts (f : XR) (s : State) : Host.Outcome State Fault Refusal :=
  issue (.mmts f) (whenSlot f.pred f.sense do
    leaseHarv
    let b ← rS f.b
    let c ← rS f.c
    let t ← Eff.gets fun s => s.ctx.rbase.toNat + (vget s.ctx.seqs.ex.lc (fld f.x 2 2)).toNat % s.ctx.rsize.toNat
    postStep f.d t b c f.x) s

/-- macz (R313). -/
def execMacz (f : XR) (s : State) : Host.Outcome State Fault Refusal :=
  issue (.macz f) (whenSlot f.pred f.sense do
    leaseHarv
    checkTiles f.a.toNat 1
    acceptPost .mat .mat f.d none none (.macz f.a.toNat)) s

/-- Offset, row stride and footprint of a tile form; its tile is declared (R313). -/
def tileForm (t : Nat) (b c : Word) (bytes : Nat) : Eff (Nat × Nat) := do
  let cls ← Eff.gets State.cls
  let o := fld b 0 24
  let st := fld c 0 24
  checkSpans [operandSpan (o, o) st (tileRows cls - 1) bytes]
  checkTiles t 1
  pure (o, st)

/-- The rounding of M; none under SR (R313). -/
def tileMode (m : BitVec 3) : Eff (Option (BitVec 3)) := do
  let rm ← Eff.gets fun s => if m = 7 then s.ctx.fpctl else m
  pure (if rm = 4 then none else some rm)

/-- macld (R313). -/
def execMacld (f : XR) (s : State) : Host.Outcome State Fault Refusal :=
  issue (.macld f) (whenSlot f.pred f.sense do
    leaseHarv
    let b ← rS f.b
    let c ← rS f.c
    let (o, st) ← tileForm f.a.toNat b c (128 * elemBits f.f.toNat / 8)
    acceptPost .mat .mat f.d none none (.macld f.a.toNat o st f.f)) s
/-- macst (R313). -/
def execMacst (f : XR) (s : State) : Host.Outcome State Fault Refusal :=
  issue (.macst f) (whenSlot f.pred f.sense do
    leaseHarv
    let b ← rS f.b
    let c ← rS f.c
    let (o, st) ← tileForm f.a.toNat b c (128 * elemBits f.f.toNat / 8)
    let rm ← tileMode f.m
    match rm with
    | none => rejectPost .mat f.d
    | some rm => acceptPost .mat .mat f.d none none (.macst f.a.toNat o st f.f rm (f.sa == 1))) s
/-- macadd (R313). -/
def execMacadd (f : XR) (s : State) : Host.Outcome State Fault Refusal :=
  issue (.macadd f) (whenSlot f.pred f.sense do
    leaseHarv
    checkTiles f.a.toNat 1
    checkTiles f.b.toNat 1
    let rm ← tileMode f.m
    match rm with
    | none => rejectPost .mat f.d
    | some rm => acceptPost .mat .mat f.d none none (.macadd f.a.toNat f.b.toNat rm (f.sa == 1) (bitAt f.x 0))) s
/-- maccvt (R313). -/
def execMaccvt (f : XR) (s : State) : Host.Outcome State Fault Refusal :=
  issue (.maccvt f) (whenSlot f.pred f.sense do
    leaseHarv
    let b ← rS f.b
    let c ← rS f.c
    let (o, st) ← tileForm f.a.toNat b c (4 * recBytes f.f.toNat)
    let rm ← tileMode f.m
    match rm with
    | none => rejectPost .mat f.d
    | some rm => acceptPost .mat .mat f.d none none (.maccvt f.a.toNat o st f.f rm (f.sa == 1))) s
/-- mscl (R315). -/
def execMscl (f : XR) (s : State) : Host.Outcome State Fault Refusal :=
  issue (.mscl f) (whenSlot f.pred f.sense do
    leaseHarv
    let a ← rS f.a
    let b ← rS f.b
    let c ← rS f.c
    let o := fld a 0 24
    let w := fld b 0 16
    let n := fld c 0 17
    checkSpans [operandSpan (o, o) 0 0 (4 * n)]
    if n = 0 ∨ 65536 < w + n then rejectPost .mat f.d
    else acceptPost .mat .mat f.d none none (.scale o w n (bitAt f.x 0))) s

/-! ## Entries -/

/-- One step of a nest entry. -/
def nestRun (e : EngEnt) (s : State) : EngRes :=
  match e.body with
  | .nest tbl rb rs fa fb =>
    if nestTotal tbl ≤ e.prog then .done e 0 0 s
    else
      let spans := nestSpans (nestHdr tbl) (nestLvls tbl) (fld (vget tbl 0) 0 24) (fld (vget tbl 0) 24 24) false fa.toNat fb.toNat
      let s := s.countGroup (spans.map fun p => [p])
      let (e, s) := matStep (nestHdr tbl) (nestStepAt tbl rb rs fa.toNat fb.toNat e.prog) e s
      if e.prog = nestTotal tbl then .done e 0 0 s else .more e s
  | _ => .done e 0 0 s
def nestEngine : Engine where
  mine b := match b with
    | .nest _ _ _ _ _ => true
    | _ => false
  step := nestRun
  idx := EngEnt.idx
/-- NEST_ENTRY (R309): one step of the nest at the head of the matrix queue of the core in focus. -/
def execNestEntry (s : State) : Host.Outcome State Fault Refusal := .next (s.runHead .mat nestEngine)

/-- The step of an mmt or mmts entry (R314). -/
def singleRun (e : EngEnt) (s : State) : EngRes :=
  match e.body with
  | .step t tbl a b bexa bexb zi st fa fb =>
    let h := nestHdr tbl
    let s := s.countGroup (stepOperands h a b fa.toNat fb.toNat)
    let (e, s) := matStep h { t := t, a := a, b := b, c := h.cbase, sab := h.sab, swb := h.swb, bexa := bexa.toInt,
                              bexb := bexb.toInt, fa := fa.toNat, fb := fb.toNat, zero := zi, store := st } e s
    .done e 0 0 s
  | _ => .done e 0 0 s
def singleEngine : Engine where
  mine b := match b with
    | .step _ _ _ _ _ _ _ _ _ _ => true
    | _ => false
  step := singleRun
/-- SINGLE_STEP_ENTRY (R314). -/
def execSingleStepEntry (s : State) : Host.Outcome State Fault Refusal := .next (s.runHead .mat singleEngine)

/-- An element sum of macadd (R313). -/
def addElem (rm : BitVec 3) (sa int : Bool) (a b : BitVec 32) : BitVec 32 × BitVec 7 :=
  if int then groupInt a [((Fmt.int 32).dec b.toNat, .fin false 1 0)]
  else
    let r := deliver fp32 rm.toNat 0 sa (Ext.sum (rm == 2) [fp32.dec a.toNat, fp32.dec b.toNat])
    (BitVec.ofNat 32 r.1, r.2)

/-- A row of a macld: elements widened exactly (R313). -/
def loadRow (f : Nat) (bs : List Byte) : List (BitVec 32) :=
  let w := elemBits f / 8
  (upTo 128).map fun j =>
    let v := leNat ((bs.drop (w * j)).take w)
    if f = 0 then BitVec.ofNat 32 v else BitVec.ofNat 32 (fp32.enc ((elemFmt f).dec v))

/-- The effect of a tile form on every row in ascending order (R313). -/
def tileRun (e : EngEnt) (s : State) : EngRes :=
  let rows := tileRows s.cls
  let fin (x : EngEnt × State) : EngRes := .done x.1 0 0 x.2
  match e.body with
  | .macz t => .done e 0 0 (s.modCore fun c => c.zeroTile t (rows - 1) 127)
  | .macld t b c f =>
    let n := 128 * elemBits f.toNat / 8
    .done e 0 0 ((upTo rows).foldl (fun s i => s.modCore fun k =>
      (k.setRow t i (loadRow f.toNat (Memory.getN k.spad (b + i * c) n))).setRowPois t i (spadPois k (b + i * c) n)) s)
  | .macst t b c f rm sa => fin ((upTo rows).foldl (fun x i => storeRow t i (b + i * c) f.toNat rm.toNat sa 128 x) (e, s))
  | .maccvt t b c f rm sa => fin ((upTo rows).foldl (fun x i => storeRow t i (b + i * c) f.toNat rm.toNat sa 128 x) (e, s))
  | .macadd t u rm sa int => fin ((upTo rows).foldl (init := (e, s)) fun x i =>
      let k := x.2.core
      let r := (k.tileRow t i 128).zip (k.tileRow u i 128) |>.map fun p => addElem rm sa int p.1 p.2
      ({ x.1 with flags := r.foldl (fun f y => f ||| y.2) x.1.flags },
       { x.2 with core := (k.setRow t i (r.map (·.1))).setRowPois t i (k.rowPois t i || k.rowPois u i) }))
  | _ => .done e 0 0 s
def tileEngine : Engine where
  mine b := match b with
    | .macz _ => true
    | .macld _ _ _ _ => true
    | .macst _ _ _ _ _ _ => true
    | .macadd _ _ _ _ _ => true
    | .maccvt _ _ _ _ _ _ => true
    | _ => false
  step := tileRun
/-- TILE_ENTRY (R313). -/
def execTileEntry (s : State) : Host.Outcome State Fault Refusal := .next (s.runHead .mat tileEngine)

/-- A copy between scratchpad and scale memory (R315). -/
def scaleRun (e : EngEnt) (s : State) : EngRes :=
  match e.body with
  | .scale o w n out =>
    if out then
      .done e 0 0 (engPut (run .spad o (4 * n)) ((upTo n).map fun k => toBytes (sget 0 s.core.scale (w + k))).flatten [] s)
    else
      .done e 0 0 (s.modCore fun c => { c with
        scale := (upTo n).foldl (fun m k => sput 0 m (w + k) (ofBytes 32 (Memory.getN c.spad (o + 4 * k) 4))) c.scale })
  | _ => .done e 0 0 s
def scaleEngine : Engine where
  mine b := match b with
    | .scale _ _ _ _ => true
    | _ => false
  step := scaleRun
/-- SCALE_COPY_ENTRY (R315). -/
def execScaleCopyEntry (s : State) : Host.Outcome State Fault Refusal := .next (s.runHead .mat scaleEngine)

end Sys2Proof.Machine
end

