-- ==== Sys2Proof/Machine/Copy.lean ====
section
/-! DEFINITION. The copy engine: posting a copy record and performing copy entries (spec/09 R251-R254; spec/04 R99-R104;
spec/06 R169, R172). -/

namespace Sys2Proof.Machine
open Sys2Proof

/-! ## Bank formats (R99, R100) -/

/-- The sampled SPFMT of the bank of a scratchpad offset. -/
def fmtAt (fmts : Vector (BitVec 9) 64) (cls off : Nat) : BitVec 9 := vget fmts (bankOf cls off)
/-- FMT, RMODE and SAT of a format register. -/
def sfFmt (v : BitVec 9) : Nat := fld v 0 5
def sfMode (v : BitVec 9) : Nat := fld v 5 3
def sfSat (v : BitVec 9) : Bool := bitAt v 8

/-- The scratchpad bytes of a side's rows all lie in banks of one format. -/
def rowsUniform (fmts : Vector (BitVec 9) 64) (cls base stride n rows : Nat) : Bool :=
  let f0 := sfFmt (fmtAt fmts cls base)
  (upTo (if stride = 0 then 1 else rows)).all fun r =>
    let lo := base + r * stride
    n = 0 || (upTo 64).all fun b =>
      !(decide (bankOf cls lo ≤ b) && decide (b ≤ bankOf cls (lo + n - 1))) || sfFmt (vget fmts b) == f0

/-! ## Posting (R251, R252) -/

/-- The side's pointer is in window 0. -/
def inSpad (p : Word) : Bool := fld p 60 4 == 0

/-- How an entry moves its bytes: source and destination formats, elements of a unit, its bytes on either side. Unconverted
bytes move in units of the elements' storage, and one at a time when the record counts bytes. -/
structure CopyGeom where
  conv : Bool
  sf : Nat
  df : Nat
  us : Nat
  ud : Nat
  sb : Nat
  db : Nat
  /-- R101 and R169 accept the record. -/
  ok : Bool

/-- Elements of a unit that is whole in both formats. -/
def unitElems (a b : Nat) : Nat := a * b / Nat.gcd a b

/-- The geometry of a record with a destination offset in window 0, or none (R101, R251). -/
def copyGeom (r : CopyRec) (cls : Nat) (dstOff : Option Nat) : CopyGeom :=
  match inSpad r.src, dstOff with
  | true, some d =>
    let sf := sfFmt (fmtAt r.fmts cls (fld r.src 0 24))
    let df := sfFmt (fmtAt r.fmts cls d)
    let (es, bs) := storageUnit sf
    let (ed, bd) := storageUnit df
    let n := if isBlock sf then 32 * r.len.toNat else r.len.toNat
    let whole := n % es == 0 && n % ed == 0
    if sf = df then
      { conv := false, sf := sf, df := df, us := bs, ud := bs, sb := n / es * bs, db := n / es * bs, ok := whole }
    else
      let u := unitElems es ed
      { conv := true, sf := sf, df := df, us := u / es * bs, ud := u / ed * bd, sb := n / es * bs, db := n / ed * bd,
        ok := whole && n % u == 0 && sf ≠ 0x12 && sf ≠ 0x13 && df ≠ 0x12 && df ≠ 0x13 }
  | _, _ => { conv := false, sf := 0, df := 0, us := 1, ud := 1, sb := r.len.toNat, db := r.len.toNat, ok := true }

/-- Bytes from the first row's first to the last row's last. -/
def reach (rows stride n : Nat) : Nat := (rows - 1) * stride + n

/-- The copy record of a register group (R251). -/
def copyRec (g : List Word) (cb : Bool) (fmts : Vector (BitVec 9) 64) : CopyRec :=
  let w (i : Nat) : Word := g.getD i 0
  { src := w 0, dst := w 1, len := fldv (w 2) 0 32, rows := fldv (w 2) 32 32, sstr := fldv (w 3) 0 32,
    dstr := fldv (w 3) 32 32, cb := cb, fmts := fmts }

/-- Window-0 offset of the destination as known at issue: under .cb, BASE of the descriptor. -/
def CopyRec.dstOff (r : CopyRec) (s : State) : Option Nat :=
  if r.cb then some (s.cb (fldv r.dst 0 5)).base.toNat
  else if inSpad r.dst then some (fld r.dst 0 24) else none

/-- Needs of an engine's reads and writes (R252). -/
def engRD : BitVec 7 := needRD ||| needEN
def engWR : BitVec 7 := needWR ||| needEN

/-- A precise footprint check of a post (R252, R308, R320). -/
def footprint (need : BitVec 7) (ptr : Word) (n : Nat) : Eff Unit := do
  let t ← Eff.gets fun s => if n = 0 then none else s.checkStatic need { ptr := ptr, n := n, lane := 0xFF }
  match t with
  | some t => Eff.trap t
  | none => pure ()

/-- Bytes of a record that leave for another package. -/
def CopyRec.peerBytes (r : CopyRec) (g : CopyGeom) : Nat :=
  if !r.cb && fld r.dst 60 4 == 3 then r.rows.toNat * g.db else 0

/-- cpy (R252). -/
def execCpy (f : XE) (s : State) : Host.Outcome State Fault Refusal :=
  issue (.cpy f) (whenSlot f.pred f.sense do
    leaseHarv
    let g ← rGroup f.a 4
    let cls ← Eff.gets State.cls
    let fmts ← Eff.gets fun s => s.core.spfmt
    let r := copyRec g (f.f.getLsbD 1) fmts
    let off ← Eff.gets r.dstOff
    let geo := copyGeom r cls off
    if r.len = 0 ∨ r.rows = 0 then rejectPost .cpy f.d
    else do
      footprint engRD r.src (reach r.rows.toNat r.sstr.toNat geo.sb)
      if r.cb then pure () else footprint engWR r.dst (reach r.rows.toNat r.dstr.toNat geo.db)
      let srcOk := !inSpad r.src || rowsUniform fmts cls (fld r.src 0 24) r.sstr.toNat geo.sb r.rows.toNat
      let dstOk := r.cb || !inSpad r.dst || rowsUniform fmts cls (fld r.dst 0 24) r.dstr.toNat geo.db r.rows.toNat
      if !srcOk || !dstOk || !(r.cb || geo.ok) then rejectPost .cpy f.d
      else do
        waitRoom .copy
        let n := r.peerBytes geo
        let much ← Eff.gets fun s => decide (2 ^ 40 - 1 < s.ctx.pend.toNat + n)
        if much then Eff.block .pend else pure ()
        Eff.mod fun s => s.modCtx fun c => { c with pend := c.pend + BitVec.ofNat 40 n }
        acceptPost .cpy .copy f.d (semField f.swe f.sw) (semField f.sse f.ss) (.copy r)) s

/-- cpywait (R254). -/
def execCpywait (f : XE) (s : State) : Host.Outcome State Fault Refusal :=
  issue (.cpywait f) (whenSlot f.pred f.sense (ticketWait .cpy f.d f.a)) s
/-- cpystat (R254). -/
def execCpystat (f : XR) (s : State) : Host.Outcome State Fault Refusal :=
  issue (.cpystat f) (whenSlot f.pred f.sense (ticketStat .cpy f.d f.a)) s

/-! ## Performing an entry (R253) -/

/-- The destination that an entry writes: its pointer, or its reserved slot. -/
def CopyRec.dstPtr (r : CopyRec) (slot : Option Nat) : Word :=
  match slot with
  | some o => BitVec.ofNat 64 o
  | none => r.dst

/-- The start of an entry under .cb: the descriptor, the slot's footprint, its size and its formats are checked, and a slot
reserved (R104, R252). A slot stays reserved when its entry ends early: the spec says neither that it is committed nor that it
is given back (log entry 49). -/
def cbStart (r : CopyRec) (e : EngEnt) (s : State) : EngRes :=
  let b : BitVec 5 := fldv r.dst 0 5
  let c := s.cb b
  let p := c.ptr c.tail
  let geo := copyGeom r s.cls (some p.toNat)
  let bad (s : State) (code : BitVec 8) : EngRes := .done e code 0 (s.pktbad s.ctx (engInfo 0x0A .cpy e.tk) none 0)
  if !c.en || !s.ctx.bnd.cbd.getLsbD b.toNat then bad s 3
  else if !geo.ok || decide (c.size < r.rows.toNat * geo.db) then bad s 4
  else
    match s.checkStatic engWR { ptr := p, n := c.size, lane := 0xFF } with
    | some _ => .done e 8 p s
    | none =>
      if !rowsUniform r.fmts s.cls p.toNat r.dstr.toNat geo.db r.rows.toNat then bad s 4
      else if c.free = 0 then .more e s
      else .more { e with cbslot := some p.toNat } (s.setCb b { c.reserve with resv := c.resv, eresv := c.eresv + 1 })

/-- CESR steps n times: the draws, oldest first, and the state after them (R172). -/
def cesrDraws (x : BitVec 32) : Nat → List Nat × BitVec 32
  | 0 => ([], x)
  | n + 1 =>
    let y := srNext x
    let (ds, z) := cesrDraws y n
    (y.toNat :: ds, z)

/-- Elements converted one after another, each under the format register of the bank of its first byte, with their codes, their flags
and CESR after its steps (R101, R172). `at_` gives the register by the byte of the unit; an element is `w` bits. -/
def convElems (c w : Nat) (at_ : Nat → BitVec 9) : Nat → List Ext → BitVec 32 → List Nat × BitVec 7 × BitVec 32
  | _, [], z => ([], 0, z)
  | k, x :: xs, z =>
    let v := at_ (k * w / 8)
    let z1 := if sfMode v = 4 then srNext z else z
    let (b, f) := convert (elemFmt c) (sfMode v) z1.toNat (sfSat v) x
    let (bs, g, z2) := convElems c w at_ (k + 1) xs z1
    (b :: bs, f ||| g, z2)
/-- Blocks of 32 converted one after another, each under the format register of the bank of its first byte (R169, R172). -/
def convBlocks (c : Nat) (at_ : Nat → BitVec 9) : Nat → Nat → List Ext → BitVec 32 → List Byte × BitVec 7 × BitVec 32
  | 0, _, _, z => ([], 0, z)
  | n + 1, i, xs, z =>
    let v := at_ (i * recBytes c)
    let b := xs.take 32
    let (ds, z1) := cesrDraws z (if sfMode v = 4 ∧ blockRounds c b then 32 else 0)
    let (r, f) := encRecord c (sfMode v) (sfSat v) b ds
    let (rest, g, z2) := convBlocks c at_ n (i + 1) (xs.drop 32) z1
    (leBytes (recBytes c) r ++ rest, f ||| g, z2)
/-- One unit converted, with its flags and CESR after its steps (R101, R169, R172). An element, or a block, whose bytes lie in two banks
of one format takes the mode and saturation of the bank of its first byte (log entry 58). -/
def convUnit (geo : CopyGeom) (at_ : Nat → BitVec 9) (bs : List Byte) (cesr : BitVec 32) : List Byte × BitVec 7 × BitVec 32 :=
  let (xs, f) := decUnits geo.sf 0 bs
  if isBlock geo.df then
    let (out, g, z) := convBlocks geo.df at_ (xs.length / 32) 0 xs cesr
    (out, f ||| g, z)
  else
    let w := elemBits geo.df
    let (cs, g, z) := convElems geo.df w at_ 0 xs cesr
    (leBytes (xs.length * w / 8) (streamOf w cs), f ||| g, z)

/-- Bytes moved without conversion, from a source to a destination. -/
def movePiece (e : EngEnt) (src dst : Word) (n : Nat) (s : State) : EngRes :=
  (engRead engRD .same { ptr := src, n := n, lane := 0xFF } s).step e fun x s =>
    (engWrite .cpy e.tk engWR .same { ptr := dst, n := n, lane := 0xFF } x.1 x.2 s).step e fun _ s =>
      let e := { e with prog := e.prog + n, sent := if fld dst 60 4 = 3 then e.sent + n else e.sent }
      .more (if x.2.any id then e.notePois 0xFF 0 0 (dst + BitVec.ofNat 64 (x.2.findIdx id)) else e) s

/-- A unit of four 6-bit elements over bytes that overlap it: each element is read and written before the next. -/
def moveSixes (e : EngEnt) (src dst : Word) (s : State) : EngRes :=
  let rq (p : Word) : Req := { ptr := p, n := 3, lane := 0xFF }
  ((engAccess engRD false .same (rq src) s).bind fun a s =>
    (engAccess engWR true .same (rq dst) s).bind fun b s => .ok (a, b) s).step e fun ab s =>
      let s' := (upTo 4).foldl (init := s) fun s k =>
        let x := streamGet 6 (leNat (ab.1.map s.byteAt)) k
        let old : BitVec 24 := BitVec.ofNat 24 (leNat (ab.2.map s.byteAt))
        engPut ab.2 (leBytes 3 (setFld old (6 * k) 6 x).toNat) [] s
      let bad := ab.1.map s.poisoned
      let s' := s'.poison (((ab.2.zip bad).filter (·.2)).map (·.1))
      let e := { e with prog := e.prog + 3 }
      .more (if bad.any id then e.notePois 0xFF 0 0 dst else e) s'

/-- Places of the bytes of two accesses meet. -/
def overlap (a b : List Place) : Bool := a.any fun p => b.contains p

/-- Source and destination pointer of the bytes of a copy at a source progress. -/
def CopyRec.srcAt (r : CopyRec) (geo : CopyGeom) (prog : Nat) : Word :=
  r.src + BitVec.ofNat 64 (prog / geo.sb * r.sstr.toNat + prog % geo.sb)
def CopyRec.dstAt (r : CopyRec) (geo : CopyGeom) (slot : Option Nat) (prog : Nat) : Word :=
  r.dstPtr slot + BitVec.ofNat 64 (prog / geo.sb * r.dstr.toNat + prog % geo.sb / geo.us * geo.ud)

/-- A step of an entry may end before the unit at a progress: on neither side do the units around it share a 4-byte word,
which an engine transfer reads and writes as one (R126), and no packet to another package is cut (R453). -/
def CopyRec.mayCut (r : CopyRec) (geo : CopyGeom) (slot : Option Nat) (prog : Nat) : Bool :=
  let shared (before here : Word) (n : Nat) : Bool := before + BitVec.ofNat 64 n == here && fld here 0 2 != 0
  let whole := fld (r.dstPtr slot) 60 4 != 3 || prog % geo.sb == 0 || fld (r.dstAt geo slot prog) 0 8 == 0
  whole &&
  !shared (r.srcAt geo (prog - geo.us)) (r.srcAt geo prog) geo.us &&
    !shared (r.dstAt geo slot (prog - geo.us)) (r.dstAt geo slot prog) geo.ud
/-- The first progress from `prog` on at which a step may end; at most `fuel` units on, where the record ends. -/
def CopyRec.cutFrom (r : CopyRec) (geo : CopyGeom) (slot : Option Nat) : Nat → Nat → Nat
  | 0, prog => prog
  | k + 1, prog => if r.mayCut geo slot prog then prog else CopyRec.cutFrom r geo slot k (prog + geo.us)

/-- One unit of a copy (log entry 58): converted, or moved as it is, element by element where its two sides overlap (R253). CESR steps
when the unit has been written (R172). -/
def copyUnit (r : CopyRec) (geo : CopyGeom) (e : EngEnt) (s : State) : EngRes :=
  let src := r.srcAt geo e.prog
  let dst := r.dstAt geo e.cbslot e.prog
  if geo.conv then
    (engRead engRD .same { ptr := src, n := geo.us, lane := 0xFF } s).step e fun x s =>
      let (bs, f, z) := convUnit geo (fun k => fmtAt r.fmts s.cls (fld dst 0 24 + k)) x.1 s.ctx.cesr
      let bad := x.2.any id
      (engWrite .cpy e.tk engWR .same { ptr := dst, n := geo.ud, lane := 0xFF } bs (bs.map fun _ => bad) s).step e
        fun _ s =>
          let e := { e with prog := e.prog + geo.us, flags := e.flags ||| f }
          .more (if bad then e.notePois 0xFF 0 0 dst else e) (s.modCtx fun c => { c with cesr := z })
  else if geo.us = 3 then
    match engPlaces engRD .same { ptr := src, n := 3, lane := 0xFF } s, engPlaces engWR .same { ptr := dst, n := 3, lane := 0xFF } s with
    | .ok a _, .ok b _ => if overlap a.1 b.1 && fld src 60 4 ≠ 3 then moveSixes e src dst s else movePiece e src dst 3 s
    | _, _ => movePiece e src dst 3 s
  else movePiece e src dst geo.us s

/-- Units one after the other up to a progress. -/
def copyUnits (r : CopyRec) (geo : CopyGeom) (stop : Nat) : Nat → EngEnt → State → EngRes
  | 0, e, s => .more e s
  | k + 1, e, s =>
    if stop ≤ e.prog then .more e s
    else match copyUnit r geo e s with
      | .done e c p s => .done e c p s
      | .more e' s => if e'.prog = e.prog then .more e' s else copyUnits r geo stop k e' s

/-- Whether a page that units up to a progress need is absent, or bytes of theirs are being scrubbed: nothing is moved then, and
the entry parks or waits. -/
def copyWaits (r : CopyRec) (geo : CopyGeom) (slot : Option Nat) (stop : Nat) : Nat → Nat → State → Option State
  | 0, _, _ => none
  | k + 1, prog, s =>
    if stop ≤ prog then none
    else match engPlaces engRD .same { ptr := r.srcAt geo prog, n := geo.us, lane := 0xFF } s with
      | .wait s => some s
      | .stop _ _ _ => none
      | .ok _ s => match engPlaces engWR .same { ptr := r.dstAt geo slot prog, n := geo.ud, lane := 0xFF } s with
        | .wait s => some s
        | .stop _ _ _ => none
        | .ok _ s => copyWaits r geo slot stop k (prog + geo.us) s

/-- One step of a copy entry that has its slot (log entry 20): the units up to the end of a line on either side, and on to where no
4-byte word is cut; all at once where the two sides do not overlap, and otherwise one after the other. To or from another package
it is the payload of one packet: the bytes up to a 256-byte boundary of the destination (R453). -/
def copyPiece (r : CopyRec) (geo : CopyGeom) (e : EngEnt) (s : State) : EngRes :=
  let src := r.srcAt geo e.prog
  let dst := r.dstAt geo e.cbslot e.prog
  let left := min (geo.sb - e.prog % geo.sb)
    (if fld src 60 4 = 3 ∨ fld dst 60 4 = 3 then 256 - fld dst 0 8 else min (64 - fld src 0 6) (64 - fld dst 0 6))
  let n := if geo.conv then geo.us else max (left / geo.us * geo.us) geo.us
  let units := (r.rows.toNat * geo.sb - e.prog) / geo.us
  let stop := r.cutFrom geo e.cbslot (units - n / geo.us) (e.prog + n)
  let n := stop - e.prog
  let each := match copyWaits r geo e.cbslot stop units e.prog s with
    | some s => .more e s
    | none => copyUnits r geo stop units e s
  if geo.conv || decide (geo.sb - e.prog % geo.sb < n) then each
  else match engPlaces engRD .same { ptr := src, n := n, lane := 0xFF } s, engPlaces engWR .same { ptr := dst, n := n, lane := 0xFF } s with
    | .ok a _, .ok b _ => if overlap a.1 b.1 && fld src 60 4 ≠ 3 && fld dst 60 4 ≠ 3 then each else movePiece e src dst n s
    | _, _ => each

/-- One step of a copy entry (R253). -/
def copyStep (e : EngEnt) (s : State) : EngRes :=
  match e.body with
  | .copy r =>
    let geo := copyGeom r s.cls (e.cbslot.or (r.dstOff s))
    if r.cb ∧ e.cbslot.isNone then cbStart r e s
    else if r.rows.toNat * geo.sb ≤ e.prog then
      match e.cbslot with
      | none => .done e 0 0 s
      | some _ =>
        let b : BitVec 5 := fldv r.dst 0 5
        let c := s.cb b
        let (e, s) := s.postFlags e
        .done e 0 0 (if c.eresv = 0 then s else s.setCb b { c with eresv := c.eresv - 1, fill := c.fill + 1 })
    else copyPiece r geo e s
  | _ => .done e 0 0 s

/-- The copy engine. -/
def copyEngine : Engine where
  mine b := match b with
    | .copy _ => true
    | _ => false
  step := copyStep
  total e := match e.body with
    | .copy r => r.peerBytes (copyGeom r 0 none)
    | _ => 0

/-- COPY_ENTRY (R253): the copy engine of the core in focus makes one step of the entry at the head of its queue. -/
def execCopyEntry (s : State) : Host.Outcome State Fault Refusal := .next (s.runHead .copy copyEngine)

end Sys2Proof.Machine
end

