-- ==== Sys2Proof/Machine/Transform.lean ====
section
/-! DEFINITION. Transform entries and queue fences (spec/11 R320-R326, R330; spec/05 R146). -/

namespace Sys2Proof.Machine
open Sys2Proof

/-! ## The record (R320) -/

abbrev XRec := Vector Word 6

def xDec (r : XRec) : Bool := bitAt (vget r 3) 0
def xExp (r : XRec) : Bool := bitAt (vget r 3) 1
def xTrn (r : XRec) : Bool := bitAt (vget r 3) 2
def xCrc (r : XRec) : Bool := bitAt (vget r 3) 3
/-- The entry writes a stream at DPTR. -/
def xOut (r : XRec) : Bool := xDec r || xExp r || xTrn r
def xFmt (r : XRec) : Nat := fld (vget r 3) 4 5
def xOfmt (r : XRec) : Nat := fld (vget r 3) 9 5
def xRm (r : XRec) : Nat := fld (vget r 3) 14 3
def xSat (r : XRec) : Bool := bitAt (vget r 3) 17
def xSock (r : XRec) : BitVec 6 := fldv (vget r 3) 18 6
def xChlog (r : XRec) : Nat := fld (vget r 3) 24 4
def xTw (r : XRec) : Nat := fld (vget r 3) 28 2
def xBadcap (r : XRec) : Nat := fld (vget r 3) 40 16
def xSlen (r : XRec) : Nat := fld (vget r 2) 0 32
def xDcap (r : XRec) : Nat := fld (vget r 2) 32 32
def xSptr (r : XRec) : Word := vget r 0
def xDptr (r : XRec) : Word := vget r 1
def xBadlst (r : XRec) : Word := vget r 4
def xResptr (r : XRec) : Word := vget r 5
/-- Chunk size in bytes. -/
def xChunk (r : XRec) : Nat := 2 ^ xChlog r * 4096
/-- Bytes of an element that TRN moves. -/
def xElem (r : XRec) : Nat := if xExp r then elemBits (xOfmt r) / 8 else 2 ^ xTw r

/-- A socket is a present MEM instance (R320, R418). -/
def State.memThere (s : State) (k : BitVec 6) : Bool := classOf k == 5 && s.present k

/-- The rejections of xfpost (R320). With EXP and TRN the source is asked for whole records, not for whole tiles (log entry 62). -/
def xfBad (s : State) (r : XRec) : Bool :=
  let w (p : Word) (top : Nat) : Bool := decide (fld p 60 4 ≤ top)
  let src := fld (xSptr r) 60 4
  fld (vget r 3) 30 10 ≠ 0 || fld (vget r 3) 56 8 ≠ 0 || fld (vget r 3) 0 4 == 0 ||
  xSlen r == 0 || !(0x0C ≤ xFmt r && xFmt r ≤ 0x11) || 2 < xOfmt r || 3 < xRm r || 8 < xChlog r || 2 < xTw r ||
  !(src == 1 || src == 2) || (xOut r && !w (xDptr r) 2) || !w (xBadlst r) 2 || !w (xResptr r) 2 ||
  !s.memThere (xSock r) || (xCrc r && xSlen r % 4 ≠ 0) ||
  (!xDec r && ((xExp r && xSlen r % recBytes (xFmt r) ≠ 0) ||
    (!xExp r && xTrn r && xSlen r % (4096 * xElem r) ≠ 0)))

/-- xfpost (R320). -/
def execXfpost (f : XE) (s : State) : Host.Outcome State Fault Refusal :=
  issueAs (.xe 0xD8 f) (chkXfpost f) none (whenSlot f.pred f.sense do
    leaseHarv
    let g ← rGroup f.a 6
    let r : XRec := Vector.ofFn fun i => g.getD i.val 0
    footprint engRD (xSptr r) (xSlen r)
    if xOut r then footprint engWR (xDptr r) (xDcap r) else pure ()
    if xBadlst r ≠ 0 then footprint engWR (xBadlst r) (8 + 4 * xBadcap r) else pure ()
    if xResptr r ≠ 0 then footprint engWR (xResptr r) 16 else pure ()
    let bad ← Eff.gets fun s => xfBad s r
    let fmts ← Eff.gets fun s => s.core.spfmt
    if bad then rejectPost .xf f.d
    else acceptPost .xf (.xf (xSock r) (fldv f.q 0 2)) f.d (semField f.swe f.sw) (semField f.sse f.ss) (.xform r fmts)) s

/-- xfwait (R301). -/
def execXfwait (f : XE) (s : State) : Host.Outcome State Fault Refusal :=
  issueAs (.xe 0xD9 f) (chkXfwait f) none (whenSlot f.pred f.sense (ticketWait .xf f.d f.a)) s
/-- xfstat (R301). -/
def execXfstat (f : XE) (s : State) : Host.Outcome State Fault Refusal :=
  issueAs (.xe 0xDA f) (chkXfstat f) none (whenSlot f.pred f.sense (ticketStat .xf f.d f.a)) s

/-- The result that badrd finds: finished, and among the 64 most recent tickets (R326). -/
def Fam.badOf (x : Fam) (t : Word) : Option TickRes :=
  if x.last.toNat < t.toNat + 64 then x.recent.find? fun y => y.tk == t else none
/-- badrd (R326). -/
def execBadrd (f : XR) (s : State) : Host.Outcome State Fault Refusal :=
  issueAs (.xr 0xDF f) (chkBadrd f) none (whenSlot f.pred f.sense do
    leaseHarv
    let t ← rS f.a
    let x ← Eff.gets fun s => s.ctx.xf.badOf t
    wS f.d (match x with
      | some y => if bitAt f.x 0 then y.first else y.nbad
      | none => BitVec.allOnes 64)) s

/-! ## The back-reference stream (R322, R323) -/

/-- A match: n bytes copied one at a time from `off` bytes before the end. -/
def copyMatch (off : Nat) : Nat → List Byte → List Byte
  | 0, out => out
  | n + 1, out => copyMatch off n (out ++ [out.getD (out.length - off) 0])

/-- Tokens decoded; none when one is incomplete or reaches before the first byte. -/
def decodeTokens : Nat → List Byte → List Byte → Option (List Byte)
  | 0, _, out => some out
  | _ + 1, [], out => some out
  | k + 1, t :: rest, out =>
    if t.toNat < 128 then
      let n := t.toNat + 1
      if rest.length < n then none else decodeTokens k (rest.drop n) (out ++ rest.take n)
    else match rest with
      | [] => none
      | b :: rest =>
        let off := fld t 0 2 * 256 + b.toNat + 1
        if out.length < off then none else decodeTokens k rest (copyMatch off (fld t 2 5 + 3) out)

/-- Chunks of a source with its bytes' poison: the stream and the numbers of the bad chunks. Bytes of a header beyond the
source count as zero. -/
def decodeChunks (size : Nat) : Nat → Nat → List Byte → List Bool → List Byte × List Nat
  | 0, _, _, _ => ([], [])
  | _ + 1, _, [], _ => ([], [])
  | k + 1, i, bs, ps =>
    let h := leNat (bs.take 16)
    let clen := h % 2 ^ 32
    let dlen := h / 2 ^ 32 % 2 ^ 32
    let rsv := h / 2 ^ 96
    let pay := (bs.drop 16).take clen
    let fits := 16 + clen ≤ bs.length
    let sound := rsv = 0 ∧ dlen ≤ size ∧ fits ∧ (crc32c pay).toNat = h / 2 ^ 64 % 2 ^ 32 ∧
      !(ps.take (16 + clen)).any id
    let d := if sound then decodeTokens pay.length pay [] else none
    let good := match d with
      | some x => if x.length = dlen then some x else none
      | none => none
    let (out, bad) := if fits then decodeChunks size k (i + 1) (bs.drop (16 + clen)) (ps.drop (16 + clen)) else ([], [])
    match good with
    | some x => (x ++ out, bad)
    | none => (List.replicate (if rsv = 0 ∧ dlen ≤ size then dlen else size) 0 ++ out, i :: bad)

/-! ## The operations (R321, R323) -/

/-- The slices of a source that hold a poisoned line, when it is not decoded (R323). -/
def badSlices (size : Nat) (ps : List Bool) : List Nat :=
  (upTo (ceilDiv ps.length size)).filter fun i => ((ps.drop (size * i)).take size).any id

/-- The stream with its bad slices zeroed. -/
def zeroSlices (size : Nat) (bad : List Nat) (bs : List Byte) : List Byte :=
  (bs.zip (upTo bs.length)).map fun x => if bad.contains (x.2 / size) then 0 else x.1

/-- Where an element of the stream goes in the output: TRN moves it within its tile (R321). -/
def xPlace (r : XRec) (k : Nat) : Nat := if xTrn r then k / 4096 * 4096 + k % 64 * 64 + k / 64 % 64 else k
/-- Rounding mode and saturation of an element's conversion: the record's, but those of its bank for one that goes into scratchpad
(R99, R321, log entry 58); `at_` gives the sampled format register by offset. No transform rounds stochastically. -/
def xMode (r : XRec) (at_ : Nat → BitVec 9) (k : Nat) : Nat × Bool :=
  if inSpad (xDptr r) then
    let v := at_ (fld (xDptr r) 0 24 + xPlace r k * xElem r)
    (if 3 < sfMode v then xRm r else sfMode v, sfSat v)
  else (xRm r, xSat r)
/-- Records expanded; one that touches a bad slice gives zeros (R321, R323). -/
def expandRecs (r : XRec) (at_ : Nat → BitVec 9) (bad : List Nat) (st : List Byte) : List Byte × BitVec 7 :=
  let n := recBytes (xFmt r)
  (upTo (st.length / n)).foldl (init := ([], 0)) fun a i =>
    if (upTo n).any fun k => bad.contains ((i * n + k) / xChunk r) then
      (a.1 ++ List.replicate (32 * xElem r) 0, a.2)
    else
      let (xs, f) := decUnits (xFmt r) 0 ((st.drop (n * i)).take n)
      (xs.zip (upTo 32)).foldl (init := (a.1, a.2 ||| f)) fun a x =>
        let m := xMode r at_ (32 * i + x.2)
        let (c, g) := convert (elemFmt (xOfmt r)) m.1 0 m.2 x.1
        (a.1 ++ leBytes (xElem r) c, a.2 ||| g)

/-- A 64 × 64 tile of w-byte elements transposed. -/
def transposeTile (w : Nat) (t : List Byte) : List Byte :=
  ((upTo 4096).map fun k => (t.drop (w * (k % 64 * 64 + k / 64))).take w).flatten

/-- What the reads of an entry give: output, bad chunks, CRC, bytes of a trailing part, flags (R321). -/
def transform (r : XRec) (at_ : Nat → BitVec 9) (bs : List Byte) (ps : List Bool) : List Byte × List Nat × BitVec 32 × Nat × BitVec 7 :=
  let crc := if xCrc r then crc32c bs else 0
  let (st, bad) := if xDec r then decodeChunks (xChunk r) bs.length 0 bs ps
    else let b := badSlices (xChunk r) ps; (zeroSlices (xChunk r) b bs, b)
  let slices := if xDec r then [] else bad
  let n := recBytes (xFmt r)
  let (st1, fl) := if xExp r then expandRecs r at_ slices st else (st, 0)
  let tail1 := if xExp r then st.length % n else 0
  let tb := 4096 * xElem r
  let st2 := if xTrn r then ((upTo (st1.length / tb)).map fun i => transposeTile (xElem r) ((st1.drop (tb * i)).take tb)).flatten
    else st1
  let tail2 := if xTrn r then st1.length % tb else 0
  (if xOut r then st2.take (xDcap r) else [], bad, crc, tail1 + tail2, fl)

/-! ## The entry (R321, R324, R325) -/

/-- Layout of the source and of the destination (R325). -/
def srcLayout (r : XRec) : BitVec 4 := if xDec r then 1 else if xExp r then 2 else 0
def dstLayout (r : XRec) : BitVec 4 := if xTrn r then 3 else 0

/-- The frames under written places take a layout (R115, R325). -/
def State.setTags (s : State) (ps : List Place) (l : BitVec 4) : State :=
  match dedup ((ps.filter fun p => p.sp == .phys).map fun p => p.a / 65536) with
  | [] => s
  | fs => s.withTags (fs.foldl (fun t f => sput 0 t f l) s.tags)

/-- The bad-chunk list (R323). -/
def badList (r : XRec) (bad : List Nat) : List Byte :=
  leBytes 8 bad.length ++ ((bad.take (xBadcap r)).map (leBytes 4)).flatten
/-- The result block (R324). -/
def resultBlock (e : EngEnt) : List Byte :=
  toBytes e.crc ++ leBytes 4 e.bads.length ++ leBytes 4 e.out.length ++ leBytes 4 e.tail

/-- A list or result block that an entry writes at its end; a null pointer asks for none. Its checks are made by `engPlaces`
before either is written (R325). -/
def blockReq (ptr : Word) (bs : List Byte) : Req := { ptr := ptr, n := if ptr = 0 then 0 else bs.length, lane := 0xFF }
/-- One step of a transform entry: its reads; then its output from `prog - 1` to the end of a line; then the list and
the result block, which are written only on a normal end. -/
def transformRun (e : EngEnt) (s : State) : EngRes :=
  match e.body with
  | .xform r fmts =>
    if e.prog = 0 then
      (engRead engRD (.source (srcLayout r)) { ptr := xSptr r, n := xSlen r, lane := 0xFF } s).step e fun x s =>
        let (out, bad, crc, tail, fl) := transform r (fmtAt fmts s.cls) x.1 x.2
        .more { e with out := out, bads := bad, crc := crc, tail := tail, flags := e.flags ||| fl, prog := 1 } s
    else
      let k := e.prog - 1
      if k < e.out.length then
        let ptr := xDptr r + BitVec.ofNat 64 k
        let bs := (e.out.drop k).take (64 - fld ptr 0 6)
        (engAccess engWR true (.dest (dstLayout r)) { ptr := ptr, n := bs.length, lane := 0xFF } s).step e fun ps s =>
          .more { e with prog := e.prog + bs.length } ((engPut ps bs [] s).setTags ps (dstLayout r))
      else
        (engPlaces engWR .same (blockReq (xBadlst r) (badList r e.bads)) s).step e fun l s =>
          (engPlaces engWR .same (blockReq (xResptr r) (resultBlock e)) s).step e fun b s =>
            let s := engPut l.1 (badList r e.bads) [] (s.touchAll l.2 true)
            .done e (if e.bads = [] then 0 else 5) 0 (engPut b.1 (resultBlock e) [] (s.touchAll b.2 true))
  | _ => .done e 0 0 s
def transformEngine : Engine where
  mine b := match b with
    | .xform _ _ => true
    | _ => false
  step := transformRun
/-- TRANSFORM_ENTRY (R321): the entry at the head of a transform queue of a MEM instance makes one step. -/
def execTransformEntry (sock : BitVec 6) (q : BitVec 2) (s : State) : Host.Outcome State Fault Refusal :=
  .next (s.runHead (.xf sock q) transformEngine)

/-! ## Queue fences (R146, R330) -/

/-- The queue of an identifier (R330). -/
def queueId (q : Nat) (sock : BitVec 6) : QId :=
  match q with
  | 0 => .copy
  | 1 => .mat
  | 2 => .gath
  | 3 => .col
  | _ => .xf sock (BitVec.ofNat 2 q)

/-- qfence (R330). -/
def execQfence (f : XE) (s : State) : Host.Outcome State Fault Refusal :=
  issueAs (.xe 0xDE f) (chkQfence f) (if hasQueue s.cls f.q.toNat then none else some 51) (whenSlot f.pred f.sense do
    leaseHarv
    let a ← rS f.a
    let sock : BitVec 6 := fldv a 8 6
    let mask : BitVec 8 := fldv a 0 8
    let bad ← Eff.gets fun s => ((upTo 4).any fun k => mask.getLsbD k && !hasQueue s.cls k) ||
      ((4 ≤ f.q.toNat || fld mask 4 4 ≠ 0) && !s.memThere sock)
    if bad then Eff.mod fun s => s.pktbad s.ctx (put 128 0 8 0x0D) (some (s.turn, s.ipc (s.len 8))) 0
    else do
      let q := queueId f.q.toNat sock
      waitRoom q
      if 3 ≤ f.q.toNat then releaseAt 2 else pure ()
      Eff.mod fun s => s.accept q 0 (semField f.swe f.sw) (semField f.sse f.ss) (.fence mask sock)
      dirty) s

/-- Entries of a queue that have not completed, those that a pre-emption took out of it among them (R302). -/
def State.unfinished (s : State) (q : Nat) (sock : BitVec 6) : List EngEnt :=
  let out := (s.ctxs.filter fun c => c.id.loc.sock == s.ctx.id.loc.sock && c.id.loc.core == s.ctx.id.loc.core).map fun c =>
    (c.ents.filter fun x => x.1 == q).map (·.2)
  s.equeue (queueId q sock) ++ (if q = 1 ∨ q = 2 then out.flatten else [])

/-- A fence waits for every entry accepted before it into the queues it names (R146). -/
def fenceRun (e : EngEnt) (s : State) : EngRes :=
  match e.body with
  | .fence mask sock =>
    if (upTo 8).any fun q => mask.getLsbD q && (s.unfinished q sock).any fun x => x.num < e.num then .more e s
    else .done e 0 0 s
  | _ => .done e 0 0 s
def fenceEngine : Engine where
  mine b := match b with
    | .fence _ _ => true
    | _ => false
  step := fenceRun
/-- QUEUE_FENCE_ENTRY (R330): the fence at the head of a queue is tried. -/
def execQueueFenceEntry (q : BitVec 3) (sock : BitVec 6) (s : State) : Host.Outcome State Fault Refusal :=
  .next (s.runHead (queueId q.toNat sock) fenceEngine)

end Sys2Proof.Machine
end

