-- ==== Sys2Proof/Machine/Collective.lean ====
section
/-! DEFINITION. Collective entries (spec/11 R327-R329): what a member computes, the packets that it sends, and how it ends. What
the other members send is free (log entry 21). -/

namespace Sys2Proof.Machine
open Sys2Proof

/-! ## The record (R327) -/

def cSptr (r : XRec) : Word := vget r 0
def cDptr (r : XRec) : Word := vget r 1
def cCount (r : XRec) : Nat := fld (vget r 2) 0 32
def cOp (r : XRec) : Nat := fld (vget r 2) 32 4
def cQfmt (r : XRec) : Nat := fld (vget r 2) 40 5
def cQrm (r : XRec) : Nat := fld (vget r 2) 45 3
def cQsat (r : XRec) : Bool := bitAt (vget r 2) 48
def cGroup (r : XRec) : Word := vget r 3
def cTag (r : XRec) : BitVec 32 := fldv (vget r 4) 0 32
def cWptr (r : XRec) : Word := vget r 5

/-- Another collective entry of the package with the same tag is unfinished. -/
def State.tagInUse (s : State) (tag : BitVec 32) : Bool :=
  ((s.allCores.map (·.colq)).flatten).any fun e =>
    match e.body with
    | .coll r => cTag r == tag
    | _ => false

/-- The rejections of colpost found at issue (R327). -/
def colBad (s : State) (r : XRec) : Bool :=
  let w (p : Word) : Bool := decide (fld p 60 4 ≤ 2)
  fld (vget r 2) 36 4 ≠ 0 || fld (vget r 2) 49 15 ≠ 0 || fld (vget r 4) 32 32 ≠ 0 ||
  cCount r == 0 || 4 < cOp r || !([0x00, 0x02, 0x0C, 0x0D, 0x10, 0x11].contains (cQfmt r)) || 3 < cQrm r ||
  !w (cSptr r) || !w (cDptr r) || fld (cGroup r) 60 4 ≠ 1 || s.tagInUse (cTag r)

/-- Elements whose bytes are known to be touched before the group table is read (log entry 21). -/
def colElems (r : XRec) (part : Nat) : Nat := if cOp r = part then min 1 (cCount r) else cCount r

/-- colpost (R327). -/
def execColpost (f : XE) (s : State) : Host.Outcome State Fault Refusal :=
  issueAs (.xe 0xDB f) (chkColpost f) none (whenSlot f.pred f.sense do
    leaseHarv
    let g ← rGroup f.a 6
    let r : XRec := Vector.ofFn fun i => g.getD i.val 0
    footprint engRD (cSptr r) (4 * colElems r 2)
    footprint engWR (cDptr r) (4 * colElems r 1)
    footprint engRD (cGroup r) 8
    let t ← Eff.gets fun s => if cWptr r = 0 then none else s.wakeCheck (cWptr r)
    match t with
    | some t => Eff.trap t
    | none => pure ()
    let bad ← Eff.gets fun s => colBad s r
    if bad then rejectPost .col f.d
    else acceptPost .col .col f.d (semField f.swe f.sw) (semField f.sse f.ss) (.coll r)) s

/-- colwait (R301). -/
def execColwait (f : XE) (s : State) : Host.Outcome State Fault Refusal :=
  issueAs (.xe 0xDC f) (chkColwait f) none (whenSlot f.pred f.sense (ticketWait .col f.d f.a)) s
/-- colstat (R301). -/
def execColstat (f : XE) (s : State) : Host.Outcome State Fault Refusal :=
  issueAs (.xe 0xDD f) (chkColstat f) none (whenSlot f.pred f.sense (ticketStat .col f.d f.a)) s

/-! ## The group (R327) -/

/-- Fields of a group table held by an entry. -/
def grpN (t : List Byte) : Nat := leNat (t.take 2)
def grpRoot (t : List Byte) : Nat := leNat ((t.drop 2).take 2)
def grpSelf (t : List Byte) : Nat := leNat ((t.drop 4).take 2)
def grpMember (t : List Byte) (i : Nat) : Nat := leNat ((t.drop (8 + 2 * i)).take 2)
/-- The rules of the group table. -/
def grpOk (t : List Byte) (pkg : Nat) : Bool :=
  leNat ((t.drop 6).take 2) == 0 && decide (2 ≤ grpN t) && decide (grpN t ≤ 4096) && decide (grpRoot t < grpN t) &&
  decide (grpSelf t < grpN t) && grpMember t (grpSelf t) == pkg &&
  (upTo (grpN t)).all fun i => grpMember t i < 4096

/-! ## Segments (R328) -/

/-- S: elements of a segment. -/
def segSize (r : XRec) (n : Nat) : Nat :=
  let b := if isBlock (cQfmt r) then 32 else 1
  ceilDiv (cCount r) (n * b) * b
/-- Reduce and broadcast have one segment. -/
def oneSeg (r : XRec) : Bool := cOp r == 3 || cOp r == 4
/-- First element and length of a segment. -/
def segOf (r : XRec) (n g : Nat) : Nat × Nat :=
  if oneSeg r then (0, cCount r)
  else
    let lo := g * segSize r n
    (lo, min ((g + 1) * segSize r n) (cCount r) - lo)

/-- What a member makes of values to be sent: the bytes of q(x), d(q(x)) as FP32 elements, and the flags of the conversions. -/
structure Wire where
  bytes : List Byte
  elems : List (BitVec 32)
  flags : BitVec 7
/-- q(x): values into the wire format, the last block filled up with zeros; FP32 passes unchanged. -/
def wireOf (r : XRec) (xs : List (BitVec 32)) : Wire :=
  if cQfmt r = 0 then { bytes := (xs.map toBytes).flatten, elems := xs, flags := 0 }
  else
    let pad := if isBlock (cQfmt r) then ceilDiv xs.length 32 * 32 - xs.length else 0
    let (bs, f) := encUnits (cQfmt r) (cQrm r) (cQsat r) ((xs ++ List.replicate pad 0).map fun (x : BitVec 32) => fp32.dec x.toNat) []
    let (ys, g) := decUnits (cQfmt r) 0 bs
    { bytes := bs, elems := (ys.take xs.length).map fun y => BitVec.ofNat 32 (convert fp32 0 0 false y).1, flags := f ||| g }

/-- FP32 elements from bytes. -/
def wordsOf (bs : List Byte) : List (BitVec 32) := (upTo (bs.length / 4)).map fun k => ofBytes 32 ((bs.drop (4 * k)).take 4)

/-- Bytes of n elements in the wire format that arrive from another member: free (log entry 21). -/
def State.wireBytes (s : State) (r : XRec) (n : Nat) : List Byte × State :=
  s.freeBytes (ceilDiv n (storageUnit (cQfmt r)).1 * (storageUnit (cQfmt r)).2)
/-- Values that arrive from another member: what the bytes decode to. -/
def State.received (s : State) (r : XRec) (n : Nat) : List Ext × BitVec 7 × State :=
  let (bs, s) := s.wireBytes r n
  let (ys, f) := decUnits (cQfmt r) 0 bs
  (ys.take n, f, s)

/-- a := round(d(received) + x, FP32, RNE), element by element. -/
def addReceived (ys : List Ext) (xs : List (BitVec 32)) : List (BitVec 32) × BitVec 7 :=
  let l := (ys.zip xs).map fun p => deliver fp32 0 0 false (Ext.sum false [p.1, fp32.dec p.2.toNat])
  (l.map fun x => BitVec.ofNat 32 x.1, l.foldl (fun f x => f ||| x.2) 0)

/-- d(y) as FP32 elements. -/
def asFp32 (ys : List Ext) : List (BitVec 32) := ys.map fun y => BitVec.ofNat 32 (convert fp32 0 0 false y).1
/-- A result that another member sends: under FP32 its bits as they are, so that every member writes the same (R328). -/
def State.result (s : State) (r : XRec) (n : Nat) : List (BitVec 32) × BitVec 7 × State :=
  if cQfmt r = 0 then
    let (bs, s) := s.wireBytes r n
    (wordsOf bs, 0, s)
  else
    let (ys, f, s) := s.received r n
    (asFp32 ys, f, s)

/-- A member's part in a segment: what it writes, if anything, what it sends to which members, and the flags of its roundings. -/
structure Part1 where
  out : Option (List (BitVec 32)) := none
  sends : List (Nat × List Byte) := []
  flags : BitVec 7 := 0
/-- The members but this one. -/
def otherMembers (t : List Byte) : List Nat := (upTo (grpN t)).filter fun k => k ≠ grpSelf t
/-- What a member does with a value that ends its chain, or that it spreads: d(q(a)) is written, q(a) goes to every other. -/
def spreadPart (r : XRec) (t : List Byte) (xs : List (BitVec 32)) (f : BitVec 7) : Part1 :=
  let w := wireOf r xs
  { out := some w.elems, sends := (otherMembers t).map fun k => (k, w.bytes), flags := f ||| w.flags }
/-- This member's part in segment g (R328). `pos` is its place in the chain: the first member sends q(x) to the next, a later one
q(a), unless it ends the chain. -/
def segPart (r : XRec) (t : List Byte) (g : Nat) (xs : List (BitVec 32)) (len : Nat) (s : State) : Part1 × State :=
  let n := grpN t
  let self := grpSelf t
  let fromFabric (p : Part1) (s : State) : Part1 × State :=
    let (ys, f, s) := s.result r len
    ({ p with out := some ys, flags := p.flags ||| f }, s)
  if cOp r = 2 ∨ cOp r = 3 then
    if (if cOp r = 3 then grpRoot t else g) = self then (spreadPart r t xs 0, s) else fromFabric {} s
  else
    let last := if cOp r = 4 then grpRoot t else g
    let pos := (self + n - last - 1) % n
    let (as, f, s) :=
      if pos = 0 then (xs, (0 : BitVec 7), s)
      else
        let (ys, f, s) := s.received r len
        let (as, f1) := addReceived ys xs
        (as, f ||| f1, s)
    if self = last then (if cOp r = 0 then spreadPart r t as f else { out := some as, flags := f }, s)
    else
      let w := wireOf r as
      let p : Part1 := { sends := [((self + 1) % n, w.bytes)], flags := f ||| w.flags }
      if cOp r = 0 then fromFabric p s else (p, s)
/-- The member receives something in its part of a segment. -/
def segHears (r : XRec) (t : List Byte) (g : Nat) : Bool :=
  if cOp r = 2 ∨ cOp r = 3 then (if cOp r = 3 then grpRoot t else g) ≠ grpSelf t
  else cOp r == 0 || (grpSelf t + grpN t - (if cOp r = 4 then grpRoot t else g) - 1) % grpN t ≠ 0

/-- The member reads its contribution to a segment. -/
def segReads (r : XRec) (t : List Byte) (g : Nat) : Bool :=
  if cOp r = 2 then g == grpSelf t else if cOp r = 3 then grpRoot t == grpSelf t else true

/-- Where a segment's result goes: the element position at DPTR. -/
def segPlace (r : XRec) (n g : Nat) : Nat := if cOp r = 1 then 0 else (segOf r n g).1

/-- A segment that has not been dealt with, whichever arrives next. -/
def nextSeg (n : Nat) (done : List Nat) (s : State) : Option (Nat × State) :=
  let left := (upTo n).filter fun g => !done.contains g
  let (k, s) := s.freeNat
  match left[k % left.length]? with
  | some g => some (g, s)
  | none => none

/-! ## Packets (R328, R329, R453) -/

/-- The packets of what a member sends: pieces of at most 256 bytes, in order, to the packages of the members. -/
def piecesFor (t : List Byte) (sends : List (Nat × List Byte)) : List (BitVec 12 × List Byte) :=
  (sends.map fun x => (cutAt 256 0 x.2.length).map fun g =>
    ((BitVec.ofNat 12 (grpMember t x.1) : BitVec 12), (x.2.drop g.1).take g.2.2)).flatten
/-- The first packet that waits leaves, when it finds room; without an up port to its package the entry ends with code 0x06
(R435). -/
def collSend (e : EngEnt) (tag : BitVec 32) (p : BitVec 12 × List Byte) (s : State) : EngRes :=
  if !s.netRoom s.ctx.sender 256 then .more e s
  else match s.sendPacket s.ctx.sender p.1 (some (Config.peerSocket p.1 (tag.setWidth 64))) vcColl p.2 with
    | (none, s) => .done e 6 0 s
    | (some k, s) => .more { e with outq := e.outq.tail, pkts := e.pkts ++ [k] } s
/-- A member's first packet tells of other parameters: an abort goes to every member, and the entry ends with code 0x09 (R329,
R454). -/
def collDiffers (e : EngEnt) (r : XRec) (s : State) : EngRes :=
  let tell := (otherMembers e.out).map fun k =>
    ({ dst := BitVec.ofNat 12 (grpMember e.out k), dom := s.domOf, job := s.ctx.bnd.job, body := .abort (cTag r) } : FabMsg)
  .done e 9 0 (({ s with fabout := s.fabout ++ tell } : State).pktbad s.ctx (engInfo 0x0E .col e.tk) none 0)

/-- The wake write at the end of an entry waits for room in PEND when it leaves the package (R140). -/
def State.wakeFits (s : State) (ptr : Word) : Bool :=
  fld ptr 48 12 == 0xFFF || fld ptr 48 12 == s.pkg.pkgno.toNat || decide (s.ctx.pend.toNat + 8 ≤ 2 ^ 40 - 1)
/-- One step of a collective entry: its group table is read and checked; then one segment after another as they arrive
(`bads` holds those dealt with), each packet that a segment sends in a step of its own; then the wake write (R327, R328). An entry
that ends early makes no wake write (log entry 49). -/
def collRun (e : EngEnt) (s : State) : EngRes :=
  match e.body with
  | .coll r =>
    match e.outq with
    | p :: _ => collSend e (cTag r) p s
    | [] =>
    if e.prog = 0 then
      (engRead engRD .same { ptr := cGroup r, n := 8, lane := 0xFF } s).step e fun h s =>
        let n := min (grpN h.1) 4096
        (engRead engRD .same { ptr := cGroup r, n := 8 + 2 * n, lane := 0xFF } s).step e fun x s =>
          if grpOk x.1 s.pkg.pkgno.toNat then .more { e with out := x.1, prog := 1 } s
          else .done e 4 0 (s.pktbad s.ctx (engInfo 0x0A .col e.tk) none 0)
    else
      let t := e.out
      let n := grpN t
      let done := e.bads
      match nextSeg (if oneSeg r then 1 else n) done s with
      | none =>
        let e := { e with bads := [] }
        if cWptr r = 0 then .done e 0 0 s
        else if !s.wakeFits (cWptr r) then .more { e with bads := done } s
        else
          let (e, s) := s.postFlags e
          .done e 0 0 (s.wakeWrite s.domOf s.ctx.bnd.job (some s.ctx) (cWptr r) e.tk)
      | some (g, s) =>
        let (differs, s) := s.freeBool
        if segHears r t g && differs then collDiffers e r s
        else
        let (lo, len) := segOf r n g
        let src := cSptr r + BitVec.ofNat 64 (4 * (if cOp r = 2 then 0 else lo))
        (engRead engRD .same { ptr := src, n := if segReads r t g then 4 * len else 0, lane := 0xFF } s).step e
          fun x s =>
            let (p, s) := segPart r t g (wordsOf x.1) len s
            let e' := { e with bads := e.bads ++ [g], flags := e.flags ||| p.flags, prog := e.prog + 1, outq := piecesFor t p.sends }
            match p.out with
            | none => .more e' s
            | some ys =>
              let bs := (ys.map toBytes).flatten
              let ptr := cDptr r + BitVec.ofNat 64 (4 * segPlace r n g)
              (engWrite .col e.tk engWR .same { ptr := ptr, n := bs.length, lane := 0xFF } bs
                (bs.map fun _ => x.2.any id) s).step e fun _ s =>
                  .more (if x.2.any id then e'.notePois 0xFF 0 0 ptr else e') s
  | _ => .done e 0 0 s
def collEngine : Engine where
  mine b := match b with
    | .coll _ => true
    | _ => false
  step := collRun
/-- COLLECTIVE_ENTRY (R328): the entry at the head of the collective queue of the core in focus makes one step. -/
def execCollectiveEntry (s : State) : Host.Outcome State Fault Refusal := .next (s.runHead .col collEngine)

/-! ## Early ends (R329) -/

/-- An entry anywhere in the collective queue of the core in focus will end with a code: it leaves the queue at once,
with its ticket finished. -/
def State.endColl (s : State) (e : EngEnt) (code : BitVec 8) : State :=
  let s := s.focus e.own
  if s.ctx.id ≠ e.own then s
  else
    let s := if code = 9 then s.pktbad s.ctx (engInfo 0x0E .col e.tk) none 0 else s
    let rest := s.core.colq.filter fun x => x.num ≠ e.num
    (s.setEqueue .col (e :: rest)).retire .col { e with bads := [], outq := [] } code [] 0

/-- The collective entries of the package that a test selects end with a code. -/
def State.endColls (s : State) (sel : EngEnt → XRec → Bool) (code : BitVec 8) : State :=
  let es := ((s.allCores.map (·.colq)).flatten).filter fun e =>
    match e.body with
    | .coll r => sel e r
    | _ => false
  es.foldl (fun s e => s.endColl e code) s

/-- COLLECTIVE_ABORT_RECEIVED (R329): the entry with the tag, its parameters found to differ or aborted by another
member, ends with code 0x09. -/
def execCollectiveAbortReceived (tag : BitVec 32) (s : State) : Host.Outcome State Fault Refusal :=
  .next (s.endColls (fun _ r => cTag r == tag) 9)

end Sys2Proof.Machine
end

