-- ==== Sys2Proof/Machine/Control.lean ====
section
/-! DEFINITION. Branches, loops, halt, predicates, the branch-outcome queue, deferral, queues, tokens and region markers
(spec/08 R215, R219-R233). -/

namespace Sys2Proof.Machine
open Sys2Proof

/-! ## Branches (R189, R219-R221) -/

/-- The next instruction of the sequencer in turn stands at an address. -/
def jump (t : BitVec 52) : Eff Unit := Eff.mod fun s => s.setSq { s.sq with pc := t }
/-- Relative target, from the address of the branch or of its parcel (R189, R219). -/
def State.target (s : State) (off : BitVec 28) : BitVec 52 := s.ipc (s.len 8) + (off ++ (0 : BitVec 1)).signExtend 52
/-- Take a relative branch. -/
def branch (off : BitVec 28) : Eff Unit := do
  let t ← Eff.gets fun s => s.target off
  jump t
/-- Take it when a condition holds. -/
def branchIf (b : Bool) (off : BitVec 28) : Eff Unit := if b then branch off else pure ()
/-- ILLOP cause 0xA for a register target with bit 0 or one of bits [63:52] set (R189, R199, R221). -/
def checkTarget (a : Word) : Eff Unit := fun s =>
  if a.getLsbD 0 ∨ fld a 52 12 ≠ 0 then
    .error (.trap (illop 0xA (if s.parcel.isSome then 2 else 0) (s.parcel.map (·.toNat) |>.getD 0) 20 a))
  else .ok ((), s)

/-- A branch on two predicates (R220). -/
def branchP (f : XB) (cond : Mask → Mask → Bool) : Eff Unit := whenSlot f.pred f.sense do
  let a ← rP f.a
  let b ← rP f.b
  branchIf (cond a b) f.off

/-- Pop the branch-outcome queue (R45, R225). -/
def popBo : Eff Bool := fun s =>
  match qHead s.ctx.bo with
  | none => .error (.block .boEmpty none)
  | some x => .ok (x, s.modCtx fun c => { c with bo := qPop s.curRgn c.bo })
/-- Push it, blocking while it holds 32 entries (R45, R225). -/
def pushBo (b : Bool) : Eff Unit := fun s =>
  if 32 ≤ s.ctx.bo.length then .error (.block .boFull none)
  else .ok ((), s.modCtx fun c => { c with bo := qPush c.bo b })

/-- br (R220): always taken. -/
def execBr (f : XB) (s : State) : Host.Outcome State Fault Refusal :=
  issue (.br f) (whenSlot f.pred f.sense (branch f.off)) s
/-- bz (R220): taken when A is 0. -/
def execBz (f : XB) (s : State) : Host.Outcome State Fault Refusal :=
  issue (.bz f) (whenSlot f.pred f.sense do
    let a ← rS f.a
    branchIf (a == 0) f.off) s
/-- bnz (R220): taken when A is not 0. -/
def execBnz (f : XB) (s : State) : Host.Outcome State Fault Refusal :=
  issue (.bnz f) (whenSlot f.pred f.sense do
    let a ← rS f.a
    branchIf (a != 0) f.off) s
/-- bany (R220): taken when A and B share a one. -/
def execBany (f : XB) (s : State) : Host.Outcome State Fault Refusal :=
  issue (.bany f) (branchP f fun a b => a &&& b != 0) s
/-- ball (R220): taken when every one of B stands in A. -/
def execBall (f : XB) (s : State) : Host.Outcome State Fault Refusal :=
  issue (.ball f) (branchP f fun a b => a &&& b == b) s
/-- bnone (R220): taken when A and B share no one. -/
def execBnone (f : XB) (s : State) : Host.Outcome State Fault Refusal :=
  issue (.bnone f) (branchP f fun a b => a &&& b == 0) s
/-- bbo (R220): taken when the popped outcome is 1. -/
def execBbo (f : XB) (s : State) : Host.Outcome State Fault Refusal :=
  issue (.bbo f) (whenSlot f.pred f.sense do
    let x ← popBo
    branchIf x f.off) s
/-- bbon (R220): taken when the popped outcome is 0. -/
def execBbon (f : XB) (s : State) : Host.Outcome State Fault Refusal :=
  issue (.bbon f) (whenSlot f.pred f.sense do
    let x ← popBo
    branchIf (!x) f.off) s
/-- call (R220): A takes the link address, then the branch. -/
def execCall (f : XB) (s : State) : Host.Outcome State Fault Refusal :=
  issue (.call f) (whenSlot f.pred f.sense do
    let t ← Eff.gets fun s => s.target f.off
    let l ← Eff.gets fun s => s.sq.pc
    wS f.a (l.zeroExtend 64)
    jump t) s
/-- jr (R221): jump to A, whose target is checked. -/
def execJr (f : W32) (s : State) : Host.Outcome State Fault Refusal :=
  issue (.jr f) (whenSlot32 f do
    let a ← rS f.a
    checkTarget a
    jump (a.setWidth 52)) s
/-- callr (R221): A is read, D takes the link address, then the jump; a refused target leaves D unwritten. -/
def execCallr (f : W32) (s : State) : Host.Outcome State Fault Refusal :=
  issue (.callr f) (whenSlot32 f do
    let a ← rS f.a
    readyS f.d
    checkTarget a
    let l ← Eff.gets fun s => s.sq.pc
    wS f.d (l.zeroExtend 64)
    jump (a.setWidth 52)) s

/-! ## Loops (R222, R223) -/

/-- A loop counter of the sequencer in turn. -/
def State.lc (s : State) (n : BitVec 2) : BitVec 32 := s.sq.lc.get n.toFin
def setLc (n : BitVec 2) (x : BitVec 32) : Eff Unit := Eff.mod fun s => s.setSq { s.sq with lc := s.sq.lc.set n.toNat x n.isLt }
/-- min(u(A), 0xFFFF_FFFF). -/
def lcOf (a : Word) : BitVec 32 := if 2 ^ 32 ≤ a.toNat then BitVec.allOnes 32 else a.setWidth 32
/-- One rotation of the bases (R92, R222). -/
def rotate : Eff Unit := Eff.mod fun s => s.setSq { s.sq with vrb := s.sq.vrb - 1, prb := s.sq.prb - 1 }

/-- loop (R222): the counter is set; the body is skipped when it is 0. -/
def execLoop (f : XB) (s : State) : Host.Outcome State Fault Refusal :=
  issue (.loop f) (whenSlot f.pred f.sense do
    let a ← rS f.a
    setLc f.lc (lcOf a)
    branchIf (lcOf a == 0) f.off) s
/-- bloop (R222): the counter falls, the branch is taken while it is not 0, and the bases rotate. -/
def execBloop (f : XB) (s : State) : Host.Outcome State Fault Refusal :=
  issue (.bloop f) (whenSlot f.pred f.sense do
    let n ← Eff.gets fun s => s.lc f.lc
    let m := if n = 0 then 0 else n - 1
    setLc f.lc m
    branchIf (m != 0) f.off
    rotate) s
/-- bdnz (R222): a scalar register falls, and the branch is taken while it is not 0. -/
def execBdnz (f : XB) (s : State) : Host.Outcome State Fault Refusal :=
  issue (.bdnz f) (whenSlot f.pred f.sense do
    let a ← rS f.a
    if a = 0 then pure ()
    else do
      wS f.a (a - 1)
      branchIf (a - 1 != 0) f.off) s
/-- lcset (R223). -/
def execLcset (f : XR) (s : State) : Host.Outcome State Fault Refusal :=
  issue (.lcset f) (whenSlot f.pred f.sense do
    let a ← rS f.a
    setLc (fldv f.f 0 2) (a.setWidth 32)) s
/-- lcget (R223). -/
def execLcget (f : XR) (s : State) : Host.Outcome State Fault Refusal :=
  issue (.lcget f) (whenSlot f.pred f.sense do
    let n ← Eff.gets fun s => s.lc (fldv f.f 0 2)
    wS f.d (n.zeroExtend 64)) s

/-- halt (R215, R36, R75): the sequencer halts; with the last of the four the context is DONE and its task ends. -/
def execHalt (f : W32) (s : State) : Host.Outcome State Fault Refusal :=
  issue (.halt f) (whenSlot32 f (Eff.mod fun s =>
    let s := s.setSq { s.sq with run := .halted (some (s.ipc (s.len 4))) }
    if allSeqs.all fun q => match (s.ctx.seqs.get q).run with
        | .halted _ => true
        | _ => false
    then s.endTask.modCtx fun c => { c with cst := .done }
    else s)) s

/-! ## Predicates (R224) -/

/-- D := op A B of predicates. -/
def pred2 (f : XR) (op : Mask → Mask → Mask) : Eff Unit := whenSlot f.pred f.sense do
  let a ← rP f.a
  let b ← rP f.b
  wP f.d (op a b)
/-- D := op A, a scalar of a predicate. -/
def predS (f : XR) (op : Mask → Word) : Eff Unit := whenSlot f.pred f.sense do
  let a ← rP f.a
  wS f.d (op a)
/-- Index of the lowest one bit; 64 of 0. -/
def lowestOne (a : Mask) : Nat := ((upTo 64).find? fun k => a.getLsbD k).getD 64

/-- pand (R224). -/
def execPand (f : XR) (s : State) : Host.Outcome State Fault Refusal := issue (.pand f) (pred2 f fun a b => a &&& b) s
/-- por (R224). -/
def execPor (f : XR) (s : State) : Host.Outcome State Fault Refusal := issue (.por f) (pred2 f fun a b => a ||| b) s
/-- pxor (R224). -/
def execPxor (f : XR) (s : State) : Host.Outcome State Fault Refusal := issue (.pxor f) (pred2 f fun a b => a ^^^ b) s
/-- pandn (R224). -/
def execPandn (f : XR) (s : State) : Host.Outcome State Fault Refusal := issue (.pandn f) (pred2 f fun a b => a &&& ~~~b) s
/-- pnot (R224). -/
def execPnot (f : XR) (s : State) : Host.Outcome State Fault Refusal :=
  issue (.pnot f) (whenSlot f.pred f.sense do
    let a ← rP f.a
    wP f.d (~~~a)) s
/-- pfroms (R224). -/
def execPfroms (f : XR) (s : State) : Host.Outcome State Fault Refusal :=
  issue (.pfroms f) (whenSlot f.pred f.sense do
    let a ← rS f.a
    wP f.d a) s
/-- ptos (R224). -/
def execPtos (f : XR) (s : State) : Host.Outcome State Fault Refusal := issue (.ptos f) (predS f fun a => a) s
/-- pcnt (R224). -/
def execPcnt (f : XR) (s : State) : Host.Outcome State Fault Refusal :=
  issue (.pcnt f) (predS f fun a => BitVec.ofNat 64 (popCount a)) s
/-- pffs (R224). -/
def execPffs (f : XR) (s : State) : Host.Outcome State Fault Refusal :=
  issue (.pffs f) (predS f fun a => BitVec.ofNat 64 (lowestOne a)) s

/-! ## The branch-outcome queue (R225) -/

/-- bopush (R225): 1 when A is not 0. -/
def execBopush (f : W32) (s : State) : Host.Outcome State Fault Refusal :=
  issue (.bopush f) (whenSlot32 f do
    let a ← rS f.a
    pushBo (a != 0)) s
/-- bopop (R225). -/
def execBopop (f : XR) (s : State) : Host.Outcome State Fault Refusal :=
  issue (.bopop f) (whenSlot f.pred f.sense do
    let x ← popBo
    wS f.d (if x then 1 else 0)) s

/-! ## Deferral (R49-R52, R226-R228) -/

/-- Entries that a deferral appends, lowest lane first (R226). -/
def deferEntries (sel : Mask) (vs : List Vec) (path : BitVec 4) (nval : BitVec 2) : List DEnt :=
  let val (l : Nat) : BitVec 128 :=
    (vs.zip (upTo vs.length)).foldl (fun acc v => acc ||| put 128 (32 * v.2) 32 (lane v.1 l).toNat) 0
  ((upTo 64).filter fun l => sel.getLsbD l).map fun l =>
    { val := val l, lane := BitVec.ofNat 6 l, path := path, nval := nval }

/-- defer (R226): all the selected lanes are appended and deferred, or none. A full deferral queue never holds it (R50); a full scalar
queue as D does, as it holds every write to one (R42; log entry 61). -/
def execDefer (f : XR) (s : State) : Host.Outcome State Fault Refusal :=
  issue (.defer f) (whenLanes f.pred f.sense fun m => do
    leaseHarv
    let b ← rP f.b
    let sel := m &&& b
    let vs ← rVGroup f.a (fld f.x 4 2 + 1)
    let room ← Eff.gets fun s => decide (s.ctx.defq.length + popCount sel ≤ 512)
    if room then
      Eff.mod fun s => s.modCtx fun c => { c with
        defq := c.defq ++ deferEntries sel vs (fldv f.x 0 4) (fldv f.x 4 2), dmask := c.dmask ||| sel }
    else pure ()
    wS f.d (if room then 1 else 0)
    dirty) s

/-- The first n entries of a tag, and the queue without them (R51). -/
def takeTag (tag : BitVec 4) : Nat → List DEnt → List DEnt × List DEnt
  | _, [] => ([], [])
  | n, e :: t =>
    if e.path = tag ∧ 0 < n then
      let (a, b) := takeTag tag (n - 1) t
      (e :: a, b)
    else
      let (a, b) := takeTag tag n t
      (a, e :: b)

/-- LANE, PATH and NVAL of an entry as the LANE register holds them (R227). -/
def laneWord (e : DEnt) : Lane := put 32 0 6 e.lane.toNat ||| put 32 6 4 e.path.toNat ||| put 32 10 2 e.nval.toNat
/-- Register j of a drain's group: V_j of entry i in lane i, zero above NVAL (R227). -/
def drainReg (es : List DEnt) (j : Nat) : Vec := ofLanes fun i =>
  match es[i]? with
  | some e => if j ≤ e.nval.toNat then fldv e.val (32 * j) 32 else 0
  | none => 0
/-- The low n lanes. -/
def lowMask (n : Nat) : Mask := BitVec.ofNat 64 (2 ^ n - 1)

/-- drain (R51, R227): entries of the tag into lanes 0 to n - 1 and the predicate. -/
def execDrain (f : XR) (s : State) : Host.Outcome State Fault Refusal :=
  issue (.drain f) (whenSlot f.pred f.sense do
    leaseHarv
    let tag : BitVec 4 := fldv f.x 0 4
    let have_ ← Eff.gets fun s => (s.ctx.defq.filter fun e => e.path = tag).length
    let n := if f.x.getLsbD 7 then min have_ 64 else if 64 ≤ have_ then 64 else 0
    let (es, rest) ← Eff.gets fun s => takeTag tag n s.ctx.defq
    let regs := (upTo (fld f.x 4 2 + 1)).map (drainReg es)
    let lanes := ofLanes fun i => (es[i]?.map laneWord).getD 0
    let regs := if f.x.getLsbD 6 then regs ++ [lanes] else regs
    if n = 0 then pure () else wVGroup f.d (lowMask n) regs
    wP2 f.c (lowMask n)
    Eff.mod fun s => s.modCtx fun c => { c with defq := rest }
    dirty) s

/-- rejoin (R228): the deferral mask is cleared. -/
def execRejoin (f : XR) (s : State) : Host.Outcome State Fault Refusal :=
  issue (.rejoin f) (whenSlot f.pred f.sense do
    leaseHarv
    Eff.mod fun s => s.modCtx fun c => { c with dmask := 0 }
    dirty) s

/-! ## Queues (R229) -/

/-- qpeek (R229): the head of a scalar queue, not popped. -/
def execQpeek (f : XR) (s : State) : Host.Outcome State Fault Refusal :=
  issue (.qpeek f) (whenSlot f.pred f.sense do
    let h ← Eff.gets fun s => qHead (vget s.ctx.q (f.a.toNat - 56))
    match h with
    | none => Eff.block .dqEmpty
    | some x => wS f.d x) s
/-- vqpeek (R229): the head of a vector queue, not popped; all lanes are written. -/
def execVqpeek (f : XR) (s : State) : Host.Outcome State Fault Refusal :=
  issue (.vqpeek f) (whenSlot f.pred f.sense do
    let h ← Eff.gets fun s => qHead (vget s.ctx.vq (f.a.toNat - 56))
    match h with
    | none => Eff.block .dqEmpty
    | some x => wV f.d (BitVec.allOnes 64) x) s
/-- qlen (R229): the entries of a queue. -/
def execQlen (f : XR) (s : State) : Host.Outcome State Fault Refusal :=
  issue (.qlen f) (whenSlot f.pred f.sense do
    let n ← Eff.gets fun s =>
      if f.f = 0 then qLen (vget s.ctx.q (f.a.toNat - 56))
      else if f.f = 1 then qLen (vget s.ctx.vq (f.a.toNat - 56))
      else qLen s.ctx.bo
    wS f.d (BitVec.ofNat 64 n)) s

/-! ## Tokens and regions (R230-R232) -/

/-- tokn (R230): its tokens move n at a time, and it has no other effect. -/
def execTokn (f : XR) (s : State) : Host.Outcome State Fault Refusal := issue (.tokn f) (pure ()) s

/-- rgnb (R231, R232): the sequencer is held until the region opens, when every listed one stands here. -/
def execRgnb (f : XR) (s : State) : Host.Outcome State Fault Refusal :=
  issue (.rgnb f) (Eff.mod fun s => s.setSq { s.sq with rgn := some f.x, atB := true }) s

/-- A harvest context's commit can be made: its bank is held and needs no restart, its pushes fit, and so do the bytes it
sends (R58, R70, R140, R406, R415). -/
def State.mayCommit (s : State) : Bool :=
  s.part.lease == .held && !s.part.restart && s.pushesFit && s.ctx.pendFits &&
    (s.ctx.sbufPeer == 0 || s.netRoom s.ctx.sender (256 * 64 * 32))
/-- Commit a region in which every listed sequencer has executed its rgne; a harvest context's commit waits until it can be
made (R57, R70, R232). -/
def State.tryCommit (s : State) (n : BitVec 12) : State :=
  match s.ctx.rgns.find? fun r => r.num == n with
  | none => s
  | some r =>
    if !s.ctx.allAtEnd n r.mask then s
    else if !s.ctx.id.harv then s.modCtx fun c => c.commitRgn n r.mask
    else if s.mayCommit then s.harvestCommit n r.mask
    else s

/-- rgne (R231, R232): the sequencer is held until the region commits. -/
def execRgne (f : XR) (s : State) : Host.Outcome State Fault Refusal :=
  issue (.rgne f) (Eff.mod fun s => (s.setSq { s.sq with atE := true }).tryCommit f.x) s

end Sys2Proof.Machine
end

