-- ==== Sys2Proof/Machine/Approx.lean ====
section
/-! DEFINITION. The approximation forms with their error bounds (R279, R280) and the twiddle factors (R179), from
fixed-point series with 256 fraction bits. -/

namespace Sys2Proof.Machine
open Sys2Proof

/-- Fraction bits of the series. -/
def fixBits : Nat := 256
/-- floor(π × 2^256) and floor(ln 2 × 2^256). -/
def piFix : Nat := 0x3243F6A8885A308D313198A2E03707344A4093822299F31D0082EFA98EC4E6C89
def ln2Fix : Nat := 0xB17217F7D1CF79ABC9E3B39803F2F6AF40F343267298B62D8A0D175B8BAAFA2B
/-- Product of fixed-point numbers. -/
def fixMul (a b : Nat) : Nat := a * b / 2 ^ fixBits

/-- The alternating series term - term × x² / (k (k + 1)) + …, from a term and its k. -/
def altSeries (x2 : Nat) : Nat → Nat → Nat → Nat
  | 0, _, _ => 0
  | n + 1, term, k => term - altSeries x2 n (fixMul term x2 / (k * (k + 1))) (k + 2)
/-- sin and cos of an angle from 0 to π / 2. -/
def sinFix (x : Nat) : Nat := altSeries (fixMul x x) 50 x 2
def cosFix (x : Nat) : Nat := altSeries (fixMul x x) 50 (2 ^ fixBits) 1
/-- The series term + term × x / k + …: e^x from term 1 and k 1. -/
def expSeries (x : Nat) : Nat → Nat → Nat → Nat
  | 0, _, _ => 0
  | n + 1, term, k => term + expSeries x n (fixMul term x / k) (k + 1)
/-- The series z / k + z³ / (k + 2) + … for the area tangent. -/
def atanhSeries (z2 : Nat) : Nat → Nat → Nat → Nat
  | 0, _, _ => 0
  | n + 1, p, k => p / k + atanhSeries z2 n (fixMul p z2) (k + 2)

/-- The fraction of a turn that a finite magnitude leaves, in 2^-256 (m × 2^e mod 1). -/
def turnOf (m : Nat) (e : Int) : Nat :=
  if 0 ≤ e then 0 else shiftBy (m % 2 ^ (-e).toNat) (e + fixBits)

/-- sin of a fraction of a turn, `q` quarter turns further. -/
def sinTurn (t q : Nat) : Ext :=
  let r := 4 * t
  let q := (r / 2 ^ fixBits + q) % 4
  let x := fixMul (r % 2 ^ fixBits) (piFix / 2)
  let v := if q % 2 = 0 then sinFix x else cosFix x
  .fin (decide (2 ≤ q)) v (-fixBits)
/-- sin of a whole number of quarter turns. -/
def sinQuarter (q : Nat) : Ext :=
  match q % 4 with
  | 1 => .fin false 1 0
  | 3 => .fin true 1 0
  | _ => .zero

/-! ## The functions as exact or nearly exact values (R280) -/

/-- What a form makes of an operand: an exact result, or a value close enough to round and to measure by. -/
inductive ApxRes where
  | exact (y : Ext) (nv : Bool)
  | near (y : Ext)

/-- 1 / x. -/
def apxRcp (x : Ext) : ApxRes :=
  match x with
  | .nan => .exact .nan false
  | .inf n => .exact (.fin n 0 0) false
  | .fin n m e =>
    if m = 0 then .exact (.inf n) false
    else if m = 2 ^ Nat.log2 m then .exact (.fin n 1 (-(e + Nat.log2 m))) false
    else .near (.fin n (2 ^ 400 / m) (-e - 400))
/-- 1 / √x. -/
def apxRsq (x : Ext) : ApxRes :=
  match x with
  | .nan => .exact .nan false
  | .inf n => if n then .exact .nan true else .exact .zero false
  | .fin n m e =>
    if m = 0 then .exact (.inf n) false
    else if n then .exact .nan true
    else
      let (m, e) := if e % 2 = 0 then (m, e) else (2 * m, e - 1)
      if m = 2 ^ Nat.log2 m ∧ Nat.log2 m % 2 = 0 then .exact (.fin false 1 (-((e + Nat.log2 m) / 2))) false
      else .near (.fin false (isqrt (2 ^ 600 / m)) (-(e / 2) - 300))
/-- 2^x; from 2^4096 on and below 2^-4096 a power that far out stands for it, which changes no result and no bound. -/
def apxExp2 (x : Ext) : ApxRes :=
  match x with
  | .nan => .exact .nan false
  | .inf n => .exact (if n then .zero else .inf false) false
  | .fin n m e =>
    let big := shiftBy m e
    let t := turnOf m e
    let whole : Int := if n then -((min big 4096 : Nat) : Int) else (min big 4096 : Nat)
    if t = 0 then .exact (.fin false 1 whole) false
    else if 4096 ≤ big then .near (.fin false 1 whole)
    else
        let (whole, t) := if n then (whole - 1, 2 ^ fixBits - t) else (whole, t)
        .near (.fin false (expSeries (fixMul t ln2Fix) 70 (2 ^ fixBits) 1) (whole - fixBits))
/-- log2 x. -/
def apxLog2 (x : Ext) : ApxRes :=
  match x with
  | .nan => .exact .nan false
  | .inf n => if n then .exact .nan true else .exact (.inf false) false
  | .fin n m e =>
    if m = 0 then .exact (.inf true) false
    else if n then .exact .nan true
    else
      let l := Nat.log2 m
      let whole : Int := e + l
      if m = 2 ^ l then .exact (.fin (whole < 0) whole.natAbs 0) false
      else
        let z := (m - 2 ^ l) * 2 ^ fixBits / (m + 2 ^ l)
        let v := 2 * atanhSeries (fixMul z z) 90 z 1 * 2 ^ fixBits / ln2Fix
        let s : Int := whole * 2 ^ fixBits + v
        .near (.fin (s < 0) s.natAbs (-fixBits))
/-- sin(2πx), or cos(2πx) with a quarter turn added. -/
def apxSin (q : Nat) (x : Ext) : ApxRes :=
  match x with
  | .nan => .exact .nan false
  | .inf _ => .exact .nan true
  | .fin n m e =>
    let t := turnOf m e
    let q4 := 4 * t
    if m = 0 then .exact (if q = 0 then x else .fin false 1 0) false
    else if q4 % 2 ^ fixBits = 0 then
      let y := sinQuarter (q4 / 2 ^ fixBits + q)
      .exact (if q = 0 ∧ n ∧ !y.isZero then y.neg else y) false
    else
      let y := sinTurn t q
      .near (if q = 0 ∧ n then y.neg else y)

/-- The six forms by opcode. -/
def apxOf (op : Nat) (x : Ext) : ApxRes :=
  match op with
  | 0x84 => apxRcp x
  | 0x85 => apxRsq x
  | 0x87 => apxExp2 x
  | 0x88 => apxLog2 x
  | 0x89 => apxSin 0 x
  | _ => apxSin 1 x

/-! ## Bounds (R279) -/

/-- floor(log2 |y|) of a value that is not zero. -/
def magOf (y : Ext) : Int :=
  match y with
  | .fin _ m e => Nat.log2 m + e
  | _ => 0

/-- The error bound of a form at an exact result. -/
def apxBound (op : Nat) (F : Fmt) (x y : Ext) : Ext :=
  let ulps (n : Nat) : Ext := .fin false n (gridExp F (magOf y))
  if F.width = 32 then
    match op with
    | 0x84 => ulps 1
    | 0x85 => ulps 2
    | 0x87 => ulps 2
    | 0x88 => if (Ext.fin false 1 (-1)).le x && x.lt (.fin false 1 1) then .fin false 1 (-21) else ulps 2
    | _ => .fin false 1 (-22)
  else ulps 1

/-- A proposed code when it meets the bound, otherwise the exact result rounded to nearest. -/
def apxPick (F : Fmt) (y bound : Ext) (free : Nat) : Nat :=
  let c := free % 2 ^ F.width
  let v := F.dec c
  if v.isFin && (Ext.sum false [v, y.neg]).1.abs.lt bound then c else (convert F 0 0 false y).1

/-- Result and flags of an approximation form; within its bound the result is the implementation's (R279, R280). An exact case
whose result is a representable subnormal sets no flag: of R280's two sentences the one about exact cases is followed (log
entry 50). -/
def approxCode (op : Nat) (F : Fmt) (a : Nat) : Nat × BitVec 7 :=
  match apxOf op (F.dec a) with
  | .exact y nv =>
    let (c, f) := convert F 0 0 false y
    -- an infinite operand or result that is exact sets no flag but NV
    (c, if y.isFin then f else flagIf nv flagNV)
  | .near y =>
    let r := roundX F 0 0 y
    if r.ovf then (F.enc r.y, flagOF ||| flagNX)
    else (apxPick F y (apxBound op F (F.dec a) y) (Config.approx op F.width a),
      flagNX ||| flagIf (magOf y < F.emin) flagUF)

/-! ## Twiddles (R179) -/

/-- (cos(2πk/N), -sin(2πk/N)) for N = 2^l, rounded to nearest into a format; an exact zero is +0. -/
def twiddle (F : Fmt) (l k : Nat) : (Nat × BitVec 7) × (Nat × BitVec 7) :=
  let part (q : Nat) : Nat × BitVec 7 :=
    if 4 * k % 2 ^ l = 0 then convert F 0 0 false (sinQuarter (4 * k / 2 ^ l + q))
    else convert F 0 0 false (sinTurn (k * 2 ^ (fixBits - l)) q)
  (part 1, part 2)

end Sys2Proof.Machine
end

