-- ==== Sys2Proof/Machine/Vector.lean ====
section
/-! DEFINITION. Vector arithmetic, comparison, selection, permutes, butterflies and reductions (spec/10 R270-R281,
R285-R292). -/

namespace Sys2Proof.Machine
open Sys2Proof

/-! ## Integer and logical lanes (R274) -/

/-- A lane-by-lane form of two operands. -/
def vlanes2 (f : W32) (op : Lane → Lane → Lane) : Eff Unit := whenLanes32 f fun m => do
  let a ← rV f.a
  let b ← rV f.b
  wV f.d m (ofLanes fun i => op (lane a i) (lane b i))
/-- A lane-by-lane form of one operand. -/
def vlanes1 (f : W32) (op : Lane → Lane) : Eff Unit := whenLanes32 f fun m => do
  let a ← rV f.a
  wV f.d m (ofLanes fun i => op (lane a i))

/-- vadd (R274). -/
def execVadd (f : W32) (s : State) : Host.Outcome State Fault Refusal := issue (.vadd f) (vlanes2 f (· + ·)) s
/-- vsub (R274). -/
def execVsub (f : W32) (s : State) : Host.Outcome State Fault Refusal := issue (.vsub f) (vlanes2 f (· - ·)) s
/-- vmul (R274). -/
def execVmul (f : W32) (s : State) : Host.Outcome State Fault Refusal := issue (.vmul f) (vlanes2 f (· * ·)) s
/-- The high half of a signed lane product. -/
def lmulh (a b : Lane) : Lane := fldv (a.signExtend 64 * b.signExtend 64) 32 32
/-- vmulh (R274). -/
def execVmulh (f : W32) (s : State) : Host.Outcome State Fault Refusal := issue (.vmulh f) (vlanes2 f lmulh) s
/-- The high half of an unsigned lane product. -/
def lmulhn (a b : Lane) : Lane := fldv (a.zeroExtend 64 * b.zeroExtend 64) 32 32
/-- vmulhn (R274). -/
def execVmulhn (f : W32) (s : State) : Host.Outcome State Fault Refusal := issue (.vmulhn f) (vlanes2 f lmulhn) s
/-- vmin (R274). -/
def execVmin (f : W32) (s : State) : Host.Outcome State Fault Refusal :=
  issue (.vmin f) (vlanes2 f fun a b => if a.sle b then a else b) s
/-- vmax (R274). -/
def execVmax (f : W32) (s : State) : Host.Outcome State Fault Refusal :=
  issue (.vmax f) (vlanes2 f fun a b => if b.sle a then a else b) s
/-- vminn (R274). -/
def execVminn (f : W32) (s : State) : Host.Outcome State Fault Refusal :=
  issue (.vminn f) (vlanes2 f fun a b => if a.ule b then a else b) s
/-- vmaxn (R274). -/
def execVmaxn (f : W32) (s : State) : Host.Outcome State Fault Refusal :=
  issue (.vmaxn f) (vlanes2 f fun a b => if b.ule a then a else b) s
/-- vand (R274). -/
def execVand (f : W32) (s : State) : Host.Outcome State Fault Refusal := issue (.vand f) (vlanes2 f (· &&& ·)) s
/-- vor (R274). -/
def execVor (f : W32) (s : State) : Host.Outcome State Fault Refusal := issue (.vor f) (vlanes2 f (· ||| ·)) s
/-- vxor (R274). -/
def execVxor (f : W32) (s : State) : Host.Outcome State Fault Refusal := issue (.vxor f) (vlanes2 f (· ^^^ ·)) s
/-- vandn (R274). -/
def execVandn (f : W32) (s : State) : Host.Outcome State Fault Refusal :=
  issue (.vandn f) (vlanes2 f fun a b => a &&& ~~~b) s
/-- vsll (R274): the amount is B[i][4:0]. -/
def execVsll (f : W32) (s : State) : Host.Outcome State Fault Refusal :=
  issue (.vsll f) (vlanes2 f fun a b => a <<< fld b 0 5) s
/-- vsrl (R274). -/
def execVsrl (f : W32) (s : State) : Host.Outcome State Fault Refusal :=
  issue (.vsrl f) (vlanes2 f fun a b => a >>> fld b 0 5) s
/-- vsra (R274). -/
def execVsra (f : W32) (s : State) : Host.Outcome State Fault Refusal :=
  issue (.vsra f) (vlanes2 f fun a b => a.sshiftRight (fld b 0 5)) s
/-- vfabs (R275): bit 31 cleared. -/
def execVfabs (f : W32) (s : State) : Host.Outcome State Fault Refusal :=
  issue (.vfabs f) (vlanes1 f fun a => a &&& 0x7FFFFFFF) s
/-- vfneg (R275): bit 31 inverted. -/
def execVfneg (f : W32) (s : State) : Host.Outcome State Fault Refusal :=
  issue (.vfneg f) (vlanes1 f fun a => a ^^^ 0x80000000) s
/-- vmov (R275). -/
def execVmov (f : W32) (s : State) : Host.Outcome State Fault Refusal := issue (.vmov f) (vlanes1 f id) s
/-- vbcast (R275): A[31:0] to every active lane. -/
def execVbcast (f : W32) (s : State) : Host.Outcome State Fault Refusal :=
  issue (.vbcast f) (whenLanes32 f fun m => do
    let a ← rS f.a
    wV f.d m (ofLanes fun _ => fldv a 0 32)) s

/-! ## Elements (R270) -/

/-- Format of an element type. -/
def etFmt (et : Nat) : Fmt :=
  match et with
  | 0 => fp32 | 1 => fp16 | 2 => bf16 | _ => fp64
/-- Elements of a register. -/
def etCount (et : Nat) : Nat := 2048 / (etFmt et).width
/-- Governing lane of an element. -/
def etLane (et e : Nat) : Nat :=
  match et with
  | 0 => e | 3 => 2 * e | _ => e / 2
/-- Bits of element e of a register: elements fill it from bit 0 upwards in every type. -/
def etGet (et : Nat) (v : Vec) (e : Nat) : Nat := fld v ((etFmt et).width * e) (etFmt et).width
/-- Value of element e. -/
def etVal (et : Nat) (v : Vec) (e : Nat) : Ext := (etFmt et).dec (etGet et v e)
/-- The governing lanes of a mask: under FP64 only even lanes govern. -/
def etGov (et : Nat) (m : Mask) : Mask := if et = 3 then m &&& 0x5555555555555555 else m
/-- The lanes that the active elements fill. -/
def etMask (et : Nat) (m : Mask) : Mask :=
  let g := etGov et m
  if et = 3 then g ||| (g <<< 1) else g
/-- The active elements, ascending. -/
def etActive (et : Nat) (m : Mask) : List Nat := (upTo (etCount et)).filter fun e => m.getLsbD (etLane et e)
/-- A register with the given elements. -/
def etVec (et : Nat) (l : List (Nat × Nat)) : Vec :=
  l.foldl (fun v x => v ||| put 2048 ((etFmt et).width * x.1) (etFmt et).width x.2) 0

/-- The rounding mode of a form: M, or FPCTL.RM when M is 7 (R193). -/
def State.mode (s : State) (m : BitVec 3) : Nat := if m = 7 then s.ctx.fpctl.toNat else m.toNat

/-- A draw of a lane's generator under SR; other modes draw nothing (R170). -/
def draw (mode l : Nat) : Eff Nat := fun s =>
  if mode = 4 then
    let x := srNext (vget s.ctx.srs l)
    .ok (x.toNat, s.modCtx fun c => { c with srs := vset c.srs l x })
  else .ok (0, s)

/-- One rounded result for each element of a list, with its flags: the element's governing lane draws (R170, R271). -/
def rounded (mode : Nat) (lane : Nat → Nat) (g : Nat → Nat → Nat × BitVec 7) (es : List Nat) : Eff (List (Nat × Nat)) :=
  Eff.collect es fun e => do
    let r ← draw mode (lane e)
    let x := g r e
    setFlags x.2
    pure (e, x.1)

/-- Make an effect for the lanes that govern elements of a type, when there is one. -/
def whenElems (f : XR) (et : Nat) (e : Mask → Eff Unit) : Eff Unit := do
  let m ← Eff.gets fun s => etGov et (s.lanesOn f.pred f.sense)
  if m = 0 then pure () else e m

/-- An elementwise floating result written to D. -/
def felems (d : BitVec 6) (et mode : Nat) (m : Mask) (g : Nat → Nat → Nat × BitVec 7) : Eff Unit := do
  let l ← rounded mode (etLane et) g (etActive et m)
  wV d (etMask et m) (etVec et l)

/-! ## Floating arithmetic (R273, R275-R278) -/

/-- The sub-operations of two operands (R275, R277), with the flags of their own invalid cases. -/
def fopX (rdn : Bool) (op : Nat) (a b : Ext) : Ext × Bool :=
  match op with
  | 0 => Ext.sum rdn [a, b]
  | 1 => Ext.sum rdn [a, b.neg]
  | _ => a.mul b

/-- a / b, correctly rounded (R277). -/
def divCode (F : Fmt) (mode rnd : Nat) (sat : Bool) (a b : Ext) : Nat × BitVec 7 :=
  let sg := a.sign != b.sign
  match a, b with
  | .nan, _ => deliver F mode rnd sat (.nan, false)
  | _, .nan => deliver F mode rnd sat (.nan, false)
  | .inf _, .inf _ => deliver F mode rnd sat (.nan, true)
  | .inf _, .fin _ _ _ => deliver F mode rnd sat (.inf sg, false)
  | .fin _ _ _, .inf _ => deliver F mode rnd sat (.fin sg 0 0, false)
  | .fin _ m e, .fin _ d g =>
    if d = 0 then deliver F mode rnd sat (if m = 0 then (.nan, true) else (.inf sg, false))
    else convertDiv F mode rnd sat (.fin sg m e) d g

/-- The result of a minimum or maximum: it is not rounded and sets no flag, but .sat replaces an infinite one (R273). -/
def extremum (F : Fmt) (sat : Bool) (y : Ext) : Nat × BitVec 7 :=
  if sat && y.isInf then (F.enc (satX F y), flagOF) else (F.enc y, 0)

/-- The result of a sub-operation of vfalu. -/
def faluCode (F : Fmt) (mode rnd : Nat) (sat : Bool) (op : Nat) (a b : Ext) : Nat × BitVec 7 :=
  match op with
  | 3 => divCode F mode rnd sat a b
  | 4 => extremum F sat (minX a b)
  | 5 => extremum F sat (maxX a b)
  | _ => deliver F mode rnd sat (fopX (mode == 2) op a b)

/-- vfalu's draws: minimum and maximum round nothing. -/
def faluMode (op mode : Nat) : Nat := if op = 4 ∨ op = 5 then 0 else mode

/-- The W32 floating forms act on FP32 in the dynamic mode (R275). -/
def vfp32 (f : W32) (op : Nat) : Eff Unit := whenLanes32 f fun m => do
  let a ← rV f.a
  let b ← rV f.b
  let mode ← Eff.gets fun s => s.mode 7
  felems f.d 0 (faluMode op mode) m fun r e => faluCode fp32 mode r false op (etVal 0 a e) (etVal 0 b e)

/-- vfadd (R275). -/
def execVfadd (f : W32) (s : State) : Host.Outcome State Fault Refusal := issue (.vfadd f) (vfp32 f 0) s
/-- vfsub (R275). -/
def execVfsub (f : W32) (s : State) : Host.Outcome State Fault Refusal := issue (.vfsub f) (vfp32 f 1) s
/-- vfmul (R275). -/
def execVfmul (f : W32) (s : State) : Host.Outcome State Fault Refusal := issue (.vfmul f) (vfp32 f 2) s
/-- vfmin (R275). -/
def execVfmin (f : W32) (s : State) : Host.Outcome State Fault Refusal := issue (.vfmin f) (vfp32 f 4) s
/-- vfmax (R275). -/
def execVfmax (f : W32) (s : State) : Host.Outcome State Fault Refusal := issue (.vfmax f) (vfp32 f 5) s

/-- A fused form (R276). -/
def vfused (f : XR) (g : Bool → Ext → Ext → Ext → Ext × Bool) : Eff Unit :=
  let et := fld f.x 0 2
  whenElems f et fun m => do
    let a ← rV f.a
    let b ← rV f.b
    let c ← rV f.c
    let mode ← Eff.gets fun s => s.mode f.m
    felems f.d et mode m fun r e =>
      deliver (etFmt et) mode r (f.sa == 1) (g (mode == 2) (etVal et a e) (etVal et b e) (etVal et c e))
/-- vfma (R276): A × B + C. -/
def execVfma (f : XR) (s : State) : Host.Outcome State Fault Refusal := issue (.vfma f) (vfused f fmaX) s
/-- vfms (R276): A × B - C. -/
def execVfms (f : XR) (s : State) : Host.Outcome State Fault Refusal :=
  issue (.vfms f) (vfused f fun rdn a b c => fmaX rdn a b c.neg) s
/-- vfnma (R276): C - A × B. -/
def execVfnma (f : XR) (s : State) : Host.Outcome State Fault Refusal :=
  issue (.vfnma f) (vfused f fun rdn a b c => fmaX rdn a.neg b c) s
/-- vfalu (R277). -/
def execVfalu (f : XR) (s : State) : Host.Outcome State Fault Refusal :=
  let et := fld f.x 0 2
  issue (.vfalu f) (whenElems f et fun m => do
    let a ← rV f.a
    let b ← rV f.b
    let mode ← Eff.gets fun s => s.mode f.m
    felems f.d et (faluMode f.f.toNat mode) m fun r e =>
      faluCode (etFmt et) mode r (f.sa == 1) f.f.toNat (etVal et a e) (etVal et b e)) s

/-- The square root, correctly rounded (R278). -/
def sqrtCode (F : Fmt) (mode rnd : Nat) (x : Ext) : Nat × BitVec 7 :=
  match x with
  | .nan => (F.nanCode, 0)
  | .inf n => if n then (F.nanCode, flagNV) else (F.enc x, 0)
  | .fin n m e =>
    if m = 0 then (F.enc x, 0)
    else if n then (F.nanCode, flagNV)
    else finishConv F false (.fin false 1 0) (roundSqrt F mode rnd m e)
/-- vfsqrt (R278). -/
def execVfsqrt (f : XR) (s : State) : Host.Outcome State Fault Refusal :=
  let et := fld f.x 0 2
  issue (.vfsqrt f) (whenElems f et fun m => do
    let a ← rV f.a
    let mode ← Eff.gets fun s => s.mode f.m
    felems f.d et mode m fun r e => sqrtCode (etFmt et) mode r (etVal et a e)) s

/-- An approximation form (R279, R280). -/
def vapprox (f : XR) (op : Nat) : Eff Unit :=
  let et := fld f.x 0 2
  whenElems f et fun m => do
    let a ← rV f.a
    felems f.d et 0 m fun _ e => approxCode op (etFmt et) (etGet et a e)
/-- vfrcp (R279). -/
def execVfrcp (f : XR) (s : State) : Host.Outcome State Fault Refusal := issue (.vfrcp f) (vapprox f 0x84) s
/-- vfrsq (R279). -/
def execVfrsq (f : XR) (s : State) : Host.Outcome State Fault Refusal := issue (.vfrsq f) (vapprox f 0x85) s
/-- vfexp2 (R279). -/
def execVfexp2 (f : XR) (s : State) : Host.Outcome State Fault Refusal := issue (.vfexp2 f) (vapprox f 0x87) s
/-- vflog2 (R279). -/
def execVflog2 (f : XR) (s : State) : Host.Outcome State Fault Refusal := issue (.vflog2 f) (vapprox f 0x88) s
/-- vfsin (R279). -/
def execVfsin (f : XR) (s : State) : Host.Outcome State Fault Refusal := issue (.vfsin f) (vapprox f 0x89) s
/-- vfcos (R279). -/
def execVfcos (f : XR) (s : State) : Host.Outcome State Fault Refusal := issue (.vfcos f) (vapprox f 0x8A) s

/-! ## Compares, selection, index (R281) -/

/-- Bits of a mask from a test of each. -/
def maskOf (p : Nat → Bool) : Mask := (upTo 64).foldl (fun m i => m ||| bitTo 64 i (p i)) 0
/-- A predicate destination keeps the bits of inactive lanes (R281). -/
def wPm (d : BitVec 6) (m x : Mask) : Eff Unit := do
  let old ← rP d
  wP d ((x &&& m) ||| (old &&& ~~~m))

/-- The conditions of vcmp. -/
def cmpLane (c : Nat) (a b : Lane) : Bool :=
  match c with
  | 0 => a == b | 1 => a != b | 2 => a.slt b | 3 => a.sle b | 4 => a.ult b | _ => a.ule b
/-- vcmp (R281). -/
def execVcmp (f : XR) (s : State) : Host.Outcome State Fault Refusal :=
  issue (.vcmp f) (whenLanes f.pred f.sense fun m => do
    let a ← rV f.a
    let b ← rV f.b
    wPm f.d m (maskOf fun i => cmpLane f.f.toNat (lane a i) (lane b i))) s
/-- The conditions of vfcmp: quiet, -0 equal to +0. -/
def fcmp (c : Nat) (a b : Ext) : Bool :=
  match c with
  | 0 => a.eqv b | 1 => !a.eqv b | 2 => a.lt b | 3 => a.lt b || a.eqv b | _ => a.isNan || b.isNan
/-- vfcmp (R281): under FP64 both bits of an element receive its result. -/
def execVfcmp (f : XR) (s : State) : Host.Outcome State Fault Refusal :=
  let et := fld f.x 0 2
  issue (.vfcmp f) (whenElems f et fun m => do
    let a ← rV f.a
    let b ← rV f.b
    let e (i : Nat) : Nat := if et = 3 then i / 2 else i
    wPm f.d (etMask et m) (maskOf fun i => fcmp f.f.toNat (etVal et a (e i)) (etVal et b (e i)))) s
/-- vsel (R281). -/
def execVsel (f : XR) (s : State) : Host.Outcome State Fault Refusal :=
  issue (.vsel f) (whenLanes f.pred f.sense fun m => do
    let a ← rV f.a
    let b ← rV f.b
    let c ← rP f.c
    wV f.d m (mergeLanes c a b)) s
/-- viota (R281): A[31:0] + i × step. -/
def execViota (f : XR) (s : State) : Host.Outcome State Fault Refusal :=
  issue (.viota f) (whenLanes f.pred f.sense fun m => do
    let a ← rS f.a
    wV f.d m (ofLanes fun i => fldv a 0 32 + BitVec.ofNat 32 (i * f.x.toNat))) s
/-- srseed (R285, R171). -/
def execSrseed (f : XR) (s : State) : Host.Outcome State Fault Refusal :=
  issue (.srseed f) (whenSlot f.pred f.sense do
    let a ← rS f.a
    Eff.mod fun s => s.modCtx fun c => { c with srs := seedSrs (fldv a 0 32) }) s

/-! ## Permutes (R286-R288) -/

/-- 32-bit lanes, or 16-bit elements under .e16: bits of an element. -/
def pw (e16 : Bool) : Nat := if e16 then 16 else 32
/-- Element k of a register, or of a group of two read as one stream. -/
def pget {n : Nat} (e16 : Bool) (v : BitVec n) (k : Nat) : Nat := fld v (pw e16 * k) (pw e16)
/-- A register from its elements. -/
def pvec (e16 : Bool) (g : Nat → Nat) : Vec := BitVec.ofNat 2048 (streamOf (pw e16) ((upTo (2048 / pw e16)).map g))

/-- vperm (R286). -/
def execVperm (f : XR) (s : State) : Host.Outcome State Fault Refusal :=
  let h := f.x.getLsbD 0
  issue (.vperm f) (whenLanes f.pred f.sense fun m => do
    let a ← rV f.a
    let b ← rV f.b
    wV f.d m (pvec h fun d => pget h a (pget h b d % (2048 / pw h)))) s
/-- vperm2 (R286): the index counts A first, then A+1. -/
def execVperm2 (f : XR) (s : State) : Host.Outcome State Fault Refusal :=
  let h := f.x.getLsbD 0
  issue (.vperm2 f) (whenLanes f.pred f.sense fun m => do
    let g ← rVGroup f.a 2
    let a : BitVec 4096 := g.getD 1 0 ++ g.getD 0 0
    let b ← rV f.b
    wV f.d m (pvec h fun d => pget h a (pget h b d % (4096 / pw h)))) s
/-- vrot (R286): element (d + k) mod c. -/
def execVrot (f : XR) (s : State) : Host.Outcome State Fault Refusal :=
  let h := f.x.getLsbD 7
  let c := 2048 / pw h
  issue (.vrot f) (whenLanes f.pred f.sense fun m => do
    let a ← rV f.a
    let k ← if f.x.getLsbD 8 then pure (fld f.x 0 7) else do
      let b ← rS f.b
      pure (b.toNat % c)
    wV f.d m (pvec h fun d => pget h a ((d + k) % c))) s
/-- vtrn (R287): one step of a block transpose. -/
def execVtrn (f : XR) (s : State) : Host.Outcome State Fault Refusal :=
  let h := f.x.getLsbD 3
  let g := 2 ^ fld f.x 0 3
  issue (.vtrn f) (whenLanes f.pred f.sense fun m => do
    let a ← rV f.a
    let b ← rV f.b
    wV f.d m (pvec h fun e =>
      let even := e / g % 2 == 0
      if f.f.getLsbD 0 then (if even then pget h a (e + g) else pget h b e)
      else (if even then pget h a e else pget h b (e - g)))) s
/-- The lanes 0 to n - 1. -/
def lowLanes (n : Nat) : Mask := BitVec.ofNat 64 (2 ^ n - 1)
/-- vcompress (R288): active lanes to lanes 0 upwards, whatever those lanes' predicate bits hold. -/
def execVcompress (f : XR) (s : State) : Host.Outcome State Fault Refusal :=
  issue (.vcompress f) (whenLanes f.pred f.sense fun m => do
    let a ← rV f.a
    let l := (upTo 64).filter fun i => m.getLsbD i
    wV f.d (lowLanes l.length) (ofLanes fun j => lane a (l.getD j 0))) s
/-- vexpand (R288): lanes 0 upwards to the active lanes. -/
def execVexpand (f : XR) (s : State) : Host.Outcome State Fault Refusal :=
  issue (.vexpand f) (whenLanes f.pred f.sense fun m => do
    let a ← rV f.a
    wV f.d m (ofLanes fun i => lane a ((upTo i).filter fun k => m.getLsbD k).length)) s
/-- The lane of vext and vins: X[5:0], or B[5:0]. -/
def laneSel (f : XR) : Eff Nat :=
  if f.x.getLsbD 6 then pure (fld f.x 0 6) else do
    let b ← rS f.b
    pure (fld b 0 6)
/-- vext (R288). -/
def execVext (f : XR) (s : State) : Host.Outcome State Fault Refusal :=
  issue (.vext f) (whenSlot f.pred f.sense do
    let a ← rV f.a
    let k ← laneSel f
    wS f.d ((lane a k).zeroExtend 64)) s
/-- vins (R288). -/
def execVins (f : XR) (s : State) : Host.Outcome State Fault Refusal :=
  issue (.vins f) (whenSlot f.pred f.sense do
    let a ← rS f.a
    let k ← laneSel f
    wV f.d (bitTo 64 k true) (ofLanes fun _ => fldv a 0 32)) s

/-! ## Complex arithmetic (R178, R289-R291) -/

/-- A real and an imaginary part, each as a sum of exact terms with the invalid product flags. -/
abbrev Terms := List (Ext × Bool)
structure CTerms where
  re : Terms
  im : Terms

/-- A complex value as terms of its own. -/
def CTerms.of (re im : Ext) : CTerms := { re := [(re, false)], im := [(im, false)] }
/-- The product of two complex values, unrounded. -/
def cmul (wr wi xr xi : Ext) : CTerms :=
  let n (t : Ext × Bool) : Ext × Bool := (t.1.neg, t.2)
  { re := [wr.mul xr, n (wi.mul xi)], im := [wr.mul xi, wi.mul xr] }
def negTerms (t : Terms) : Terms := t.map fun x => (x.1.neg, x.2)
/-- Terms times i^k. -/
def CTerms.turn (c : CTerms) (k : Nat) : CTerms :=
  match k % 4 with
  | 0 => c
  | 1 => { re := negTerms c.im, im := c.re }
  | 2 => { re := negTerms c.re, im := negTerms c.im }
  | _ => { re := c.im, im := negTerms c.re }
def CTerms.add (a b : CTerms) : CTerms := { re := a.re ++ b.re, im := a.im ++ b.im }

/-- A part rounded once (R178, R289). -/
def partCode (F : Fmt) (mode rnd : Nat) (sat : Bool) (t : Terms) : Nat × BitVec 7 :=
  let x := Ext.sum (mode == 2) (t.map (·.1))
  deliver F mode rnd sat (x.1, x.2 || t.any (·.2))

/-- A complex result written to a group: the parts of the first register, then those of the second (R289). -/
def wComplex (f : XR) (et : Nat) (m : Mask) (g : Nat → CTerms) : Eff Unit := do
  let mode ← Eff.gets fun s => s.mode f.m
  let F := etFmt et
  let re ← rounded mode (etLane et) (fun r e => partCode F mode r (f.sa == 1) (g e).re) (etActive et m)
  let im ← rounded mode (etLane et) (fun r e => partCode F mode r (f.sa == 1) (g e).im) (etActive et m)
  wVGroup f.d (etMask et m) [etVec et re, etVec et im]

/-- The element of a complex group. -/
def cget (et : Nat) (g : List Vec) (e : Nat) : Ext × Ext := (etVal et (g.getD 0 0) e, etVal et (g.getD 1 0) e)
/-- A twiddle, conjugated when selected. -/
def tw (conj : Bool) (w : Ext × Ext) : Ext × Ext := if conj then (w.1, w.2.neg) else w

/-- bfly2 (R290): x + w·y and x - w·y. -/
def execBfly2 (f : XR) (s : State) : Host.Outcome State Fault Refusal :=
  let et := fld f.x 0 2
  let n := etCount et
  issue (.bfly2 f) (whenLanes f.pred f.sense fun m => do
    let a ← rVGroup f.a 2
    let b ← rVGroup f.b 2
    wComplex f et m fun e =>
      let j := e % (n / 2)
      let x := cget et a j
      let y := cget et a (j + n / 2)
      let w := tw (f.x.getLsbD 3) (cget et b (j + n / 2))
      (CTerms.of x.1 x.2).add ((cmul w.1 w.2 y.1 y.2).turn (if e < n / 2 then 0 else 2))) s
/-- bfly4 (R290): the sum over k of s^(mk)·w_k·x_k, with s = -i, or +i under .inv. -/
def execBfly4 (f : XR) (s : State) : Host.Outcome State Fault Refusal :=
  let et := fld f.x 0 2
  let n := etCount et
  issue (.bfly4 f) (whenLanes f.pred f.sense fun m => do
    let a ← rVGroup f.a 2
    let b ← rVGroup f.b 2
    wComplex f et m fun e =>
      let j := e % (n / 4)
      let q := e / (n / 4)
      let x0 := cget et a j
      ([1, 2, 3] : List Nat).foldl (init := CTerms.of x0.1 x0.2) fun acc k =>
        let x := cget et a (j + k * (n / 4))
        let w := tw (f.x.getLsbD 3) (cget et b (j + k * (n / 4)))
        acc.add ((cmul w.1 w.2 x.1 x.2).turn (if f.x.getLsbD 2 then q * k else 3 * q * k))) s
/-- twmul (R290): w·y. -/
def execTwmul (f : XR) (s : State) : Host.Outcome State Fault Refusal :=
  let et := fld f.x 0 2
  issue (.twmul f) (whenLanes f.pred f.sense fun m => do
    let a ← rVGroup f.a 2
    let b ← rVGroup f.b 2
    wComplex f et m fun e =>
      let y := cget et a e
      let w := tw (f.x.getLsbD 3) (cget et b e)
      cmul w.1 w.2 y.1 y.2) s
/-- twgen (R291): twiddles of k = (u(A) + e × u(B)) mod 2^L. -/
def execTwgen (f : XR) (s : State) : Host.Outcome State Fault Refusal :=
  let et := fld f.x 0 2
  let l := fld f.x 2 5
  issue (.twgen f) (whenLanes f.pred f.sense fun m => do
    let a ← rS f.a
    let b ← rS f.b
    let k (e : Nat) : Nat := (a.toNat + e * b.toNat) % 2 ^ l
    let re ← rounded 0 (etLane et) (fun _ e => (twiddle (etFmt et) l (k e)).1) (etActive et m)
    let im ← rounded 0 (etLane et) (fun _ e => (twiddle (etFmt et) l (k e)).2) (etActive et m)
    wVGroup f.d m [etVec et re, etVec et im]) s

/-! ## Reductions (R292) -/

/-- An integer reduction: the active lanes, extended, folded into B. -/
def vreduce (f : XR) (op : Word → Word → Word) : Eff Unit := whenLanes f.pred f.sense fun m => do
  let a ← rV f.a
  let b ← rS f.b
  let x (i : Nat) : Word := if f.f.getLsbD 0 then (lane a i).zeroExtend 64 else (lane a i).signExtend 64
  wS f.d (((upTo 64).filter fun i => m.getLsbD i).foldl (fun acc i => op acc (x i)) b)
/-- vredadd (R292). -/
def execVredadd (f : XR) (s : State) : Host.Outcome State Fault Refusal := issue (.vredadd f) (vreduce f (· + ·)) s
/-- The lesser and the greater word, unsigned under .n. -/
def least (n : Bool) (a b : Word) : Word := if (if n then a.ule b else a.sle b) then a else b
def greatest (n : Bool) (a b : Word) : Word := if (if n then b.ule a else b.sle a) then a else b
/-- vredmin (R292). -/
def execVredmin (f : XR) (s : State) : Host.Outcome State Fault Refusal :=
  issue (.vredmin f) (vreduce f (least (f.f.getLsbD 0))) s
/-- vredmax (R292). -/
def execVredmax (f : XR) (s : State) : Host.Outcome State Fault Refusal :=
  issue (.vredmax f) (vreduce f (greatest (f.f.getLsbD 0))) s

/-- A floating reduction over the seed and the active elements. -/
def vfreduce (f : XR) (g : Nat → Nat → List Ext → Nat × BitVec 7) (rounds : Bool) : Eff Unit :=
  let et := fld f.x 0 2
  whenElems f et fun m => do
    let a ← rV f.a
    let b ← rS f.b
    let mode ← Eff.gets fun s => s.mode f.m
    let r ← draw (if rounds then mode else 0) 0
    let seed := (etFmt et).dec (fld b 0 (etFmt et).width)
    let x := g mode r (seed :: (etActive et m).map fun e => etVal et a e)
    setFlags x.2
    wS f.d (BitVec.ofNat 64 x.1)
/-- vfredadd (R292): exact inside, rounded once. -/
def execVfredadd (f : XR) (s : State) : Host.Outcome State Fault Refusal :=
  issue (.vfredadd f) (vfreduce f (fun mode r xs =>
    deliver (etFmt (fld f.x 0 2)) mode r (f.sa == 1) (Ext.sum (mode == 2) xs)) true) s
/-- vfredmin (R292, R275). -/
def execVfredmin (f : XR) (s : State) : Host.Outcome State Fault Refusal :=
  issue (.vfredmin f) (vfreduce f (fun _ _ xs =>
    ((etFmt (fld f.x 0 2)).enc (xs.tail.foldl minX (xs.headD .nan)), 0)) false) s
/-- vfredmax (R292, R275). -/
def execVfredmax (f : XR) (s : State) : Host.Outcome State Fault Refusal :=
  issue (.vfredmax f) (vfreduce f (fun _ _ xs =>
    ((etFmt (fld f.x 0 2)).enc (xs.tail.foldl maxX (xs.headD .nan)), 0)) false) s

end Sys2Proof.Machine
end

