-- ==== Sys2Proof/Machine/Convert.lean ====
section
/-! DEFINITION. Vector conversions (spec/10 R282-R284). -/

namespace Sys2Proof.Machine
open Sys2Proof

/-- Format of a conversion code (R282). -/
def codeFmt (c : Nat) : Fmt :=
  match c with
  | 0x14 => .int 32 | 0x15 => .nat 32 | 0x16 => fp64
  | c => elemFmt c

/-- How a converted code fills a lane: signed integers sign-extended, all else zero-extended (R283). -/
def laneFill (F : Fmt) (c : Nat) : Nat :=
  match F with
  | .int w => ((BitVec.ofNat w c).signExtend 32).toNat
  | _ => c

/-- The shape of a conversion: source, destination, and the fields .pack, .unpk, .hi (R282, R283). -/
structure Cvt where
  src : Fmt
  dst : Fmt
  pack : Bool
  unpk : Bool
  hi : Nat

def cvtOf (f : XR) : Cvt :=
  { src := codeFmt (fld f.x 0 5), dst := codeFmt f.f.toNat, pack := f.x.getLsbD 5, unpk := f.x.getLsbD 6, hi := fld f.x 7 1 }

/-- The source code that a lane converts; none when the lane takes no part. -/
def Cvt.source (k : Cvt) (a : Vec) (l : Nat) : Option Nat :=
  let lane (i : Nat) : Nat := if k.unpk then fld a (k.src.width * i) k.src.width else fld a (32 * i) (min 32 k.src.width)
  if k.src = fp64 ∧ k.dst = fp64 then (if l % 2 = 0 then some (fld a (32 * l) 64) else none)
  else if k.src = fp64 then
    (if 32 * k.hi ≤ l ∧ l < 32 * k.hi + 32 then some (fld a (64 * (l - 32 * k.hi)) 64) else none)
  else if k.dst = fp64 then (if l % 2 = 0 then some (lane (l / 2 + 32 * k.hi)) else none)
  else some (lane l)

/-- The field of D that a lane's result fills: its lowest bit and width. -/
def Cvt.field (k : Cvt) (l : Nat) : Nat × Nat :=
  if k.dst = fp64 then (32 * l, 64)
  else if k.pack then (k.dst.width * l, k.dst.width)
  else (32 * l, 32)

/-- The lanes whose activity moves queue entries: between FP64 registers the even ones, as under ET 3 (R270, R283). -/
def Cvt.gov (k : Cvt) (m : Mask) : Mask := if k.src = fp64 ∧ k.dst = fp64 then etGov 3 m else m

/-- A conversion: every active lane that takes part, in ascending order (R283). With active lanes of which none takes part
the queue operands move all the same (R44). FP64 to FP64 under .sat clamps an infinity as conv does (log entry 50). -/
def vconvert (f : XR) : Eff Unit := whenLanes f.pred f.sense fun m0 => do
  let k := cvtOf f
  let m := k.gov m0
  if m = 0 then pure () else do
  let a ← rV f.a
  let mode ← Eff.gets fun s => s.mode f.m
  let ls := (upTo 64).filter fun l => m.getLsbD l && (k.source a l).isSome
  let xs ← rounded mode id (fun r l => convert k.dst mode r (f.sa == 1) (k.src.dec ((k.source a l).getD 0))) ls
  if ls = [] then (if f.d.toNat < 56 then pure () else wV f.d (BitVec.allOnes 64) 0)
  else do
    let old ← Eff.gets fun s => s.vOld f.d
    wV f.d (BitVec.allOnes 64) (xs.foldl (fun v x =>
      setFld v (k.field x.1).1 (k.field x.1).2 (if k.pack then x.2 else laneFill k.dst x.2)) old)

/-- vcvt (R282, R283). -/
def execVcvt (f : XR) (s : State) : Host.Outcome State Fault Refusal := issue (.vcvt f) (vconvert f) s
/-- vcvti (R282, R283). -/
def execVcvti (f : XR) (s : State) : Host.Outcome State Fault Refusal := issue (.vcvti f) (vconvert f) s

/-! ## Block records (R284) -/

/-- The blocks of 32 lanes with an active lane. -/
def blocksOf (m : Mask) : List Nat := ([0, 1] : List Nat).filter fun b => fld m (32 * b) 32 ≠ 0

/-- The FP32 values of a block's lanes, inactive ones +0. -/
def blockVals (a : Vec) (m : Mask) (b : Nat) : List Ext :=
  (upTo 32).map fun k => if m.getLsbD (32 * b + k) then fp32.dec (lane a (32 * b + k)).toNat else .zero

/-- The draws of a block's lanes: an active lane steps once when its element is rounded. -/
def blockDraws (mode : Nat) (m : Mask) (b : Nat) (rounds : Bool) : Eff Draws :=
  Eff.collect (upTo 32) fun k => draw (if rounds && m.getLsbD (32 * b + k) then mode else 0) (32 * b + k)

/-- The records of the blocks with an active lane, in order. -/
def encodeBlocks (f : XR) (m : Mask) (a : Vec) (mode : Nat) : Eff (List (Nat × Nat)) :=
  Eff.collect (blocksOf m) fun b => do
    let xs := blockVals a m b
    let ds ← blockDraws mode m b (blockRounds f.f.toNat xs)
    let x := encRecord f.f.toNat mode (f.sa == 1) xs ds
    setFlags x.2
    pure (b, x.1)

/-- vcvtb (R284): block encoding, or decoding under .dec. -/
def execVcvtb (f : XR) (s : State) : Host.Outcome State Fault Refusal :=
  let c := f.f.toNat
  let n := 8 * recBytes c
  issue (.vcvtb f) (whenLanes f.pred f.sense fun m => do
    let a ← rV f.a
    let mode ← Eff.gets fun s => s.mode f.m
    if f.x.getLsbD 0 then do
      Eff.each (blocksOf m) fun b => setFlags (scaleFlags c (fld a (n * b) 8))
      let xs ← rounded mode id (fun r l =>
        convert fp32 mode r (f.sa == 1) ((decRecord c 0 (fld a (n * (l / 32)) n)).getD (l % 32) .zero))
        ((upTo 64).filter fun l => m.getLsbD l)
      wV f.d m (etVec 0 xs)
    else do
      let rs ← encodeBlocks f m a mode
      let old ← Eff.gets fun s => s.vOld f.d
      wV f.d (BitVec.allOnes 64) (rs.foldl (fun v x => setFld v (n * x.1) n x.2) old)) s

end Sys2Proof.Machine
end

