-- ==== Sys2Proof/Machine/Units.lean ====
section
/-! DEFINITION. Events of the units around a context: results, page requests and waiters (R38, R117, R386), the deadlock
counter (R63), deadlines (R263), other packages (R89, R90, R140, R256, R436), held records (R394), harvest commits (R57). -/

namespace Sys2Proof.Machine
open Sys2Proof

/-! ## Results (R38, R39) -/

/-- RESULT_COMPLETE: the signals that the sequencer holds are made where their links have room (R39). A sequencer at a
region marker makes its signals when the region lets it go on (R232). -/
def execResultComplete (q : SeqId) (s : State) : Host.Outcome State Fault Refusal :=
  let x := s.ctx.seqs.get q
  let c := makeSignals s.ctx q
  if x.atB || x.atE || c.tok == s.ctx.tok then .next s
  else .next (s.modCtx fun _ => { c with seqs := c.seqs.map fun _ => Seqr.recheck })

/-! ## Page requests and waiters (R117, R386) -/

/-- PAGE_REQUEST_POSTED: the request held longest is posted once the ring has room, for which EQHEAD is read (R385, R386). -/
def execPageRequestPosted (d : BitVec 4) (s : State) : Host.Outcome State Fault Refusal :=
  match (s.dom d).pageq with
  | none => .next s
  | some p => match p.waiting with
    | [] => .next s
    | va :: rest =>
      let s := (s.modDom d fun x => { x with pageq := some { p with waiting := [] } }).pageRequest d va
      .next (s.modDom d fun x => { x with pageq := x.pageq.map fun y => { y with waiting := y.waiting ++ rest } })

/-- The page that a sequencer waited for may be there: it issues again (R117, R120). -/
def pageIn (va : BitVec 52) (x : Seqr) : Seqr := if x.wait = .page va then { x with wait := .none } else x
/-- A context that waits for a page is woken. -/
def Ctx.pageCame (c : Ctx) (va : BitVec 52) : Ctx :=
  let qs := c.seqs.map fun _ => pageIn va
  if qs = c.seqs then c else wakeCtx { c with seqs := qs }

/-! ### An access of another package at this exporting home (R89, R90) -/

/-- The right that an access of another package needs. -/
def peerNeed (op : BitVec 2) : BitVec 7 :=
  match op.toNat with
  | 0 => needRD
  | 1 => needWR
  | _ => needAT

/-- The registry entry of a request, when NAME, GEN, LIVE, rights and LIMIT pass the home's own checks (R89): the
rights are those of an export that was taken up (R256). -/
def State.peerEntry (s : State) (r : PeerReq) : Option RegEnt :=
  match (s.dom r.dom).regOf r.name with
  | none => none
  | some e =>
    let last := r.off.toNat + (r.len.toNat - 1)
    let exported := (s.dom r.dom).exps.any fun x =>
      x.used && x.name == r.name && x.gen == r.gen && subRights (peerNeed r.op) x.rights && decide (last ≤ x.limit.toNat)
    if e.live && e.gen == r.gen && exported && decide (last ≤ e.limit.toNat) then some e else none

/-- Its translation at the home, page by page: the places; `none` where a frame's tag turns the access away; a parked
walk otherwise (R89, R115, R117, R454). -/
def State.peerWalk (s : State) (r : PeerReq) : List (Nat × Nat × Nat) → Except State (Option (List Place))
  | [] => .ok (some [])
  | (_, va, n) :: rest =>
    let v := BitVec.ofNat 52 va
    let w : Waiter := { dom := r.dom, va := v, ctx := none, peer := some r }
    match s.walk r.dom v with
    | .invalid ea => .error (s.park ea w true)
    | .malformed ea lvl =>
      let rc : RecF := { kind := 0x83, dom := r.dom, addr := v.zeroExtend 64, info := put 128 0 8 0x08 ||| put 128 8 8 lvl ||| put 128 64 64 ea }
      .error ((s.report r.dom 0 (mkRec rc)).park ea w false)
    | .ok e =>
      let pa := e.pa.toNat + va % 2 ^ e.bits
      if e.tagOf pa ≠ e.layout then .ok none
      else match State.peerWalk s r rest with
        | .ok (some ps) => .ok (some (run .phys pa n ++ ps))
        | x => x

/-- The access performed: a load reads, a store writes what it brings; the result of an atomic, whose operation the
exporting home computes, is free (log entry 22). -/
def State.peerPerform (s : State) (r : PeerReq) (ps : List Place) : State :=
  match r.op.toNat with
  | 0 => (s.readPlaces ps).2
  | 1 => s.writePlaces ps (r.data.take ps.length)
  | _ =>
    let (bs, s) := s.freeBytes ps.length
    s.writePlaces ps bs

/-- The home's part of a window-3 access: performed, refused with nothing changed, or parked. -/
def State.peerAccess (s : State) (r : PeerReq) : State :=
  if r.len = 0 then s
  else match s.peerEntry r with
    | none => s
    | some e =>
      let s := s.mergeAll
      match s.peerWalk r (frames (e.vbase.toNat + r.off.toNat) r.len.toNat) with
      | .error s => s
      | .ok none => s
      | .ok (some ps) => s.peerPerform r ps

/-- The domain of this package's member of a job: it holds a graph of it. -/
def State.memberOf (s : State) (job : BitVec 32) : Option (BitVec 4) :=
  ((upTo 16).map (BitVec.ofNat 4)).find? fun d => (s.dom d).graphs.any fun g => g.job == job
/-- The domain of a job here: the one that an access names, where it holds the job, else that of the package's member. -/
def State.jobDom (s : State) (job : BitVec 32) (pref : Option (BitVec 4)) : BitVec 4 :=
  match pref with
  | some d => if (s.dom d).graphs.any fun g => g.job == job then d else (s.memberOf job).getD d
  | none => (s.memberOf job).getD (((s.gangs.find? fun g => g.job == job).map (·.dom)).getD 0)

/-- An engine entry stands in a queue. -/
def State.entryStands (s : State) (num : Nat) : Bool :=
  (s.allCores.any fun k => (k.copyq ++ k.matq ++ k.gathq ++ k.colq).any fun e => e.num == num) ||
    s.xfq.any fun x => x.2.any fun e => e.num == num
/-- A waiter walks again (R117): a context goes on when the walk succeeds and parks again otherwise; so does an engine entry
that still stands in a queue; an access of another package is tried again, unless a gang switch holds its job (R149). -/
def State.rewalk (s : State) (w : Waiter) : State :=
  match w.peer with
  | some r => if s.gangs.any (fun g => g.dom == s.jobDom r.job (some r.dom) && g.job == r.job && g.bars) then { s with woken := s.woken ++ [w] } else s.peerAccess r
  | none => match w.ctx with
    | none => match w.eng with
      | none => s
      | some (k, own) =>
        if !s.entryStands k || (s.findCtx own).isNone then s
        else match (s.focus own).translate w.dom w.va w none with
          | .error s => s
          | .ok (_, s) => s
    | some (c, q) =>
      match s.findCtx c with
      | none => s
      | some k =>
        if !(allSeqs.any fun x => (k.seqs.get x).wait == .page w.va) then s
        else match (s.focus c).translate w.dom w.va w (some (q, (k.seqs.get q).pc)) with
          | .error s => s
          | .ok (_, s) => s.modCtx fun x => x.pageCame w.va

/-- WAITER_REWALK: the waiter woken first walks again. -/
def execWaiterRewalk (s : State) : Host.Outcome State Fault Refusal :=
  match s.woken with
  | [] => .next s
  | w :: rest => .next (({ s with woken := rest } : State).rewalk w)

/-- OVERFLOW_REWALK: the walks held in the overflow list are made again. -/
def execOverflowRewalk (s : State) : Host.Outcome State Fault Refusal :=
  .next (s.overflow.foldl State.rewalk { s with overflow := [] })

/-! ## The deadlock counter (R63) -/

/-- The cause code of an internally blocked sequencer. One at a region marker waits for the marker, whatever signals it will
make (R232). -/
def Seqr.blockedOn (x : Seqr) (tok : Vector (BitVec 4) 8) : Option Nat :=
  match x.run with
  | .halted _ => some 0
  | .faulted => none
  | .running =>
    if x.atB || x.atE then none
    else match x.heldUp tok with
    | some l => some (if 4 ≤ l.val then 3 else 4)
    | none =>
      match x.wait with
      | .tokPred => some 1
      | .tokSucc => some 2
      | .dqEmpty => some 5
      | .dqFull => some 6
      | .boEmpty => some 7
      | .boFull => some 8
      | _ => none

/-- All four sequencers are internally blocked and one is not halted: the counter advances. -/
def Ctx.deadlocked (c : Ctx) : Bool :=
  (c.cst == .run || c.cst == .sleep) && (allSeqs.all fun q => ((c.seqs.get q).blockedOn c.tok).isSome) &&
    !(allSeqs.all fun q => (c.seqs.get q).blockedOn c.tok == some 0)

/-- The counter after n clocks; it stands while the context is PARKED. -/
def Ctx.tickDlk (c : Ctx) (n : Nat) : Ctx :=
  if c.cst = .parked then c
  else if c.deadlocked then { c with dlk := BitVec.ofNat 20 (min (c.dlk.toNat + n) (2 ^ 20 - 1)) }
  else { c with dlk := 0 }

/-- The address that a record names for SC: its next instruction, or the halt at which it stopped. -/
def Seqr.haltPc (x : Seqr) : BitVec 52 :=
  match x.run with
  | .halted (some a) => a
  | _ => x.pc

/-- TOKDL (R63): INFO names the cause for each sequencer and where LD, EX and ST stand. -/
def tokdl (c : Ctx) : Trap :=
  let cause (q : SeqId) : Nat := ((c.seqs.get q).blockedOn c.tok).getD 0
  { kind := 0x07
    info := (allSeqs.foldl (fun i q => i ||| put 128 (4 * seqCode q) 4 (cause q)) 0) |||
      put 128 32 32 c.seqs.ld.pc.toNat ||| put 128 64 32 c.seqs.ex.pc.toNat ||| put 128 96 32 c.seqs.st.pc.toNat }

/-- DEADLOCK_COUNTER_EXPIRY (R63): the counter of the context in focus passes 2^20 − 1; TOKDL is raised on SC, the context
stands FAULTED, and every sequencer stays as it is. -/
def execDeadlockCounterExpiry (s : State) : Host.Outcome State Fault Refusal :=
  let c := s.ctx
  if c.deadlocked ∧ c.dlk = BitVec.allOnes 20 then
    let t := tokdl c
    let r := { c.recF 0x07 with precise := true, sq := 3, pc := c.seqs.sc.haltPc.zeroExtend 64, info := t.info }
    let s := s.modCtx fun c => { c with cst := .faulted, dlk := 0 }
    .next (s.reportHeld s.domOf (s.queueOf s.ctx) (mkRec r) (.ctx c.id .sc 0x07))
  else .next s

/-! ## Deadlines of waits (R263) -/

/-- The deadline of a timed address wait has passed. -/
def Seqr.late (x : Seqr) (gts : Word) : Bool :=
  match x.wait with
  | .addr _ _ _ _ _ (some t) => t.ule gts && !x.timed
  | _ => false

/-- WAITWT_DEADLINE (R263): the condition is evaluated once more, at the deadline. -/
def execWaitwtDeadline (q : SeqId) (s : State) : Host.Outcome State Fault Refusal :=
  let x := s.ctx.seqs.get q
  if x.late s.gts then .next (s.modCtx fun c => wakeCtx { c with seqs := c.seqs.set q { x with timed := true } })
  else .next s

/-! ## Answers of other packages (R90, R140) -/

/-- PEND of a context falls by bytes that are performed or refused (R140), also while a gang switch keeps it saved (R410). -/
def State.lowerPend (s : State) (c : CtxId) (n : Nat) : State :=
  let low (k : Ctx) : Ctx := if k.id = c then { k with pend := k.pend - BitVec.ofNat 40 (min n k.pend.toNat) } else k
  { s.mapCtxs low with gangs := s.gangs.map fun g => { g with ctxs := g.ctxs.map low } }

/-- A write that has left the package whole and may be answered next, in any order. -/
def State.somePeer (s : State) : Option (PeerOut × State) :=
  let waits (k : Nat) : Bool := s.ports.toList.any fun x => x.txq.any fun y => y.pkt == k
  let ps := s.peers.filter fun p => !p.answered && !waits p.pkt
  let (k, s) := s.freeNat
  (ps[k % ps.length]?).map fun p => (p, s)

/-- The family of an ENGINE code (R312). -/
def familyOf (n : BitVec 8) : Family :=
  match n.toNat with
  | 0 => .mat
  | 1 => .spa
  | 2 => .xf
  | 3 => .col
  | _ => .cpy

/-- An engine entry in a queue whose write was refused will end with code 0x02 (R253). -/
def refuseEntry (own : CtxId) (fam : Family) (tk : Word) (e : EngEnt) : EngEnt :=
  if e.own = own ∧ e.tk = tk ∧ e.body.family = some fam then { e with fin := some 2 } else e

/-- A write refused (R90): its bytes count as delivered, and the PKTBAD record that it carries holds its pointer, whether or
not its context still stands (R454). -/
def State.peerRefused (s : State) (p : PeerOut) : State :=
  let s := s.lowerPend p.own p.bytes
  let s := match p.engine with
    | none => s
    | some (n, tk) =>
      let f := refuseEntry p.own (familyOf n) tk
      s.mapCores fun k => { k with copyq := k.copyq.map f, colq := k.colq.map f }
  s.report p.dom p.queue p.rcd

/-- The answer to a write reaches its context: its bytes are performed (R140), or refused (R90). -/
def State.answerPeer (s : State) (pkt : Nat) (refused : Bool) : State :=
  match s.peers.find? fun p => p.pkt == pkt with
  | none => s
  | some p =>
    let s := { s with peers := s.peers.erase p }
    if refused then s.peerRefused p else s.lowerPend p.own p.bytes

/-- A fabric wake write performed (R436): refused without a member of the job or beyond WAKEN; otherwise the wake word is
written. -/
def State.fabricWake (s : State) (job : BitVec 32) (idx : BitVec 45) (v : Word) : State :=
  match s.memberOf job with
  | none => s
  | some d => if idx.toNat < (s.dom d).waken then s.wakeLocal d idx.toNat v else s

/-- CAPABILITY_REQUEST_AT_HOME (R256, R81): one capimp for each KEY, whose token agrees with the export and the
registry; a share or a drop of an imported capability changes REFCNT here. -/
def execCapabilityRequestAtHome (r : CapReq) (s : State) : Host.Outcome State Fault Refusal :=
  match r.ask with
  | .imp key rights limit =>
    let x := s.dom r.dom
    let live := match x.regOf r.name with
      | some e => e.live && e.gen == r.gen
      | none => false
    let fits (e : ExportRec) : Bool :=
      e.key == key && !e.used && e.name == r.name && e.gen == r.gen && e.rights == rights && e.limit == limit
    if live && r.pkg != s.pkg.pkgno && x.exps.any fits then
      .next (s.modDom r.dom fun x => { x with exps := x.exps.map fun e => if fits e then { e with used := true } else e })
    else .next s
  | .share =>
    .next (s.modReg r.dom r.name r.gen fun e => if e.refcnt = BitVec.allOnes 32 then e else e.inc)
  | .drop => .next (s.modReg r.dom r.name r.gen RegEnt.dec)

/-! ## Held records (R394) -/

/-- HELD_RECORD_QUEUED (R394): the record held longest is arbitrated and queued once its exception queue has room; its
raiser waits for an answer that names it. -/
def execHeldRecordQueued (d : BitVec 4) (q : BitVec 6) (s : State) : Host.Outcome State Fault Refusal :=
  match s.findQ d q with
  | none => .next s
  | some x => match x.late with
    | [] => .next s
    | (r, w) :: rest =>
      .next (((s.modQ d q fun y => { y with late := [] }).reportHeld d q r w).modQ d q fun y => { y with late := y.late ++ rest })

/-! ## Harvest commits (R57, R70) -/

/-- HARVEST_COMMIT: every listed sequencer of the harvest context in focus stands at the end of the region, the lease is held
with no restart marked, and its buffered pushes and peer bytes fit: the region commits. -/
def execHarvestCommit (n : BitVec 12) (s : State) : Host.Outcome State Fault Refusal :=
  match s.ctx.rgns.find? fun r => r.num == n with
  | none => .next s
  | some r =>
    if s.ctx.id.harv && s.ctx.allAtEnd n r.mask && s.mayCommit then .next (s.harvestCommit n r.mask) else .next s

end Sys2Proof.Machine
end

