-- ==== Sys2Proof/Machine/Schedule.lean ====
section
/-! DEFINITION. Hardware scheduling: the slot table, eligibility, stride and deadline (R395-R398), pre-emption and restore
(R59, R61, R302), and the lease of a reserve bank (R414, R415). -/

namespace Sys2Proof.Machine
open Sys2Proof

/-! ## The slot table (R395) -/

/-- The row of a partition. -/
def rowOf (l : Loc) : Nat := l.sock.toNat * 128 + l.core.toNat * 8 + l.part.toNat
/-- The bind record of a context. -/
def State.bindOf (s : State) (c : CtxId) : Option BindRec :=
  if c.harv then none else s.binds.find? fun b => b.ctxId == c
/-- Change the bind record of a context. -/
def State.modBind (s : State) (c : CtxId) (f : BindRec → BindRec) : State :=
  { s with binds := s.binds.map fun b => if b.ctxId = c then f b else b }

/-- A context that dispatch may choose: in RUN, or PARKED out of RUN (R396). -/
def Ctx.wantsCore (c : Ctx) : Bool := c.cst == .run || (c.cst == .parked && c.was == .run)
/-- An eligible record; a job that a gang switch holds takes no core (R403). -/
def State.eligible (s : State) (b : BindRec) : Bool := (s.findCtx b.ctxId).any Ctx.wantsCore && !s.gangHolds b.dom b.job

/-! ## Stride and deadline (R397, R398) -/

/-- The stride of a record. -/
def BindRec.stride (b : BindRec) : Nat := 2 ^ 20 / b.tickets.toNat
/-- PASS after u clocks of residency. -/
def BindRec.charge (b : BindRec) (u : Nat) : BindRec := { b with pass := b.pass + BitVec.ofNat 48 (ceilDiv (b.stride * u) 4096) }

/-- A launch is complete: its block is DONE, or without a block all its records have been popped. -/
def State.launchDone (s : State) (d : BitVec 4) (l : Launch) : Bool :=
  l.done ||
  if l.dljcb.getLsbD 15 then
    match s.jcb (fldv l.dljcb 0 12) with
    | some j => j.done
    | none => true
  else match s.edge d { graph := l.graph, num := l.edge } with
    | some e => !l.waits && decide (l.upto ≤ e.popped)
    | none => true

/-- The incomplete launches of a job with a deadline. -/
def State.openLaunches (s : State) (d : BitVec 4) (job : BitVec 32) : List Launch :=
  ((((s.dom d).graphs.filter fun g => g.job == job).map (·.launches)).flatten).filter fun l =>
    !s.launchDone d l && l.deadline != 0

/-- Least of a list of numbers. -/
def leastOf : List Nat → Option Nat
  | [] => none
  | a :: t => some (t.foldl min a)

/-- Band and rank of a record under deadline (R398). -/
def State.band (s : State) (b : BindRec) : Nat × Nat :=
  let ls := s.openLaunches b.dom b.job
  match leastOf ((ls.filter (·.missed)).map fun l => l.deadline.toNat) with
  | some k => (1, k)
  | none => match leastOf (ls.map fun l => l.deadline.toNat) with
    | some k => (0, k)
    | none => (2, b.pass.toNat)
/-- Rank of a record under its domain's policy. -/
def State.rank (s : State) (b : BindRec) : Nat × Nat := if b.pol = 1 then s.band b else (2, b.pass.toNat)
/-- One rank before another. -/
def before (x y : Nat × Nat) : Bool := decide (x.1 < y.1 ∨ (x.1 = y.1 ∧ x.2 < y.2))
/-- The record that dispatch chooses in a row: the best rank, on a tie the lower position. -/
def State.choose (s : State) (row : Nat) : Option BindRec :=
  ((s.binds.filter fun b => b.row == row && s.eligible b)).foldl (fun a b =>
    match a with
    | none => some b
    | some x =>
      if before (s.rank b) (s.rank x) || (!before (s.rank x) (s.rank b) && b.pos.toNat < x.pos.toNat) then some b
      else some x) none

/-- A record that becomes eligible takes the least PASS of the other eligible records of its partition, if that is
more than its own (R397). -/
def State.catchUp (s : State) (b : BindRec) : BindRec :=
  let now := s.eligible b
  if now && !b.elig then
    match leastOf ((s.binds.filter fun x => x.row == b.row && x.pos != b.pos && x.elig && s.eligible x).map (·.pass.toNat)) with
    | some p => { b with elig := true, pass := BitVec.ofNat 48 (max b.pass.toNat p) }
    | none => { b with elig := true }
  else { b with elig := now }
/-- Dispatch looks at every record. -/
def State.refreshPass (s : State) : State :=
  match s.binds with
  | [] => s
  | bs => { s with binds := bs.map s.catchUp }

/-! ## Pre-emption and restore (R59, R61, R302) -/

/-- The entries of a context in the matrix and gather queues of its core, in the order of their acceptance. -/
def State.ownEntries (s : State) (c : CtxId) : List (Nat × EngEnt) :=
  ((s.core.matq.filter fun e => e.own == c).map fun e => (1, e)) ++ (s.core.gathq.filter fun e => e.own == c).map fun e => (2, e)

/-- The context in focus gives up its core: its matrix and gather entries leave their queues, a begun one at its tile
boundary; the lease of its reserve bank is revoked and kept, and what it has lent is saved with it. -/
def State.unseat (s : State) : State :=
  let c := s.ctx.id
  let es := s.ownEntries c
  let s := es.foldl (fun s e => if e.2.waited then s.updShadow e.2 e.2.idx 2 else s) s
  let s := s.modCore fun k => { k with
    matq := k.matq.filter fun e => !(e.own == c), gathq := k.gathq.filter fun e => !(e.own == c) }
  let p := s.part
  let s := if c.harv then s
    else (s.setPart { p with lent := 0, scrub := 0, lease := if p.lease = .vacant then .vacant else .parked }).parkHarvest c.loc
  s.modCtx fun x => { x.park with
    ents := x.ents ++ es
    lentSv := if c.harv then x.lentSv else p.lent
    scrubSv := if c.harv then x.scrubSv else p.scrub }

/-- An address wait, with or without its wait slot, is cancelled by a pre-emption and evaluated again at resume (R263). -/
def resumeSeq (x : Seqr) : Seqr :=
  let x := { x with sent := false }
  match x.wait with
  | .addr _ _ _ _ _ _ => { x with wait := .none, woke := none, timed := false, wpos := none, wva := none }
  | .slot _ => { x with wait := .none, woke := none, timed := false, wpos := none, wva := none }
  | _ => x

/-- The context in focus takes its core again, as it stood (R61); its entries re-enter their queues at the tails. -/
def State.seat (s : State) : State :=
  let es := s.ctx.ents
  let back (s : State) (e : Nat × EngEnt) : State :=
    let s := if e.1 = 1 then s.modCore fun k => { k with matq := k.matq ++ [e.2] }
      else s.modCore fun k => { k with gathq := k.gathq ++ [e.2] }
    if e.2.waited then s.updShadow e.2 e.2.idx 1 else s
  let c := s.ctx
  let s := if c.id.harv then s else s.setPart { s.part with lent := c.lentSv, scrub := c.scrubSv }
  let s := { s with pkg := { s.pkg with ran := true } }
  (es.foldl back s).modCtx fun x => { x.unpark with
    ents := [], lentSv := 0, scrubSv := 0
    seqs := x.seqs.map fun _ => resumeSeq }

/-- A record stops being resident after u clocks: its context gives up the core and its PASS rises (R397). -/
def State.unseatAt (s : State) (c : CtxId) (u : Nat) : State :=
  ((s.focus c).unseat).modBind c fun b => { b.charge u with res := false }
/-- A context becomes resident. -/
def State.seatAt (s : State) (c : CtxId) : State := ((s.focus c).seat).modBind c fun b => { b with res := true }

/-- The resident record of a row. -/
def State.residentOf (s : State) (row : Nat) : Option BindRec := s.binds.find? fun b => b.row == row && b.res

/-- The chosen record takes the core where none is resident. -/
def State.fill (s : State) (row : Nat) : State :=
  match s.residentOf row with
  | some _ => s
  | none => match s.choose row with
    | none => s
    | some b => s.seatAt b.ctxId

/-- Clocks of residency since the last choice, at most a quantum; timing leaves them open (log entry 6). -/
def State.freeClocks (s : State) : Nat × State :=
  let (u, s) := s.freeNat
  (u % 4097, s)

/-- Another record than the resident one should have the core: the resident has left RUN, or under deadline one of a
better band or an earlier deadline is eligible (R396, R398). -/
def State.outranked (s : State) (b : BindRec) : Bool :=
  match s.choose b.row with
  | none => false
  | some x =>
    x.pos != b.pos &&
      (!s.eligible b || (b.pol == 1 && (s.rank x).1 < 2 && before (s.rank x) (s.rank b)))

/-- PRE_EMPTION (R59, R396): the resident context of the partition in focus, which has left RUN or is outranked, gives up
the core, and the chosen one is restored. -/
def execPreEmption (s : State) : Host.Outcome State Fault Refusal :=
  match s.residentOf (rowOf s.ctx.id.loc) with
  | none => .next s
  | some b =>
    if s.outranked b then
      let (u, s) := s.freeClocks
      .next ((s.unseatAt b.ctxId u).fill b.row)
    else .next s

/-- CONTEXT_RESTORE (R61, R396): a context that dispatch chooses takes the core of a partition without a resident. -/
def execContextRestore (id : CtxId) (s : State) : Host.Outcome State Fault Refusal :=
  match s.bindOf id with
  | none => .next s
  | some b =>
    match s.residentOf b.row with
    | some _ => .next s
    | none => if (s.choose b.row).any fun x => x.pos == b.pos then .next (s.seatAt id) else .next s

/-- QUANTUM_EXPIRY (R396, R397): at the end of a quantum of 4,096 clocks of the resident context of the partition in
focus, dispatch chooses anew. -/
def execQuantumExpiry (s : State) : Host.Outcome State Fault Refusal :=
  match s.residentOf (rowOf s.ctx.id.loc) with
  | none => .next s
  | some b =>
    let s := s.modBind b.ctxId fun x => x.charge 4096
    match s.choose b.row with
    | none => .next s
    | some x => if x.pos = b.pos then .next s else .next ((s.unseatAt b.ctxId 0).fill b.row)

/-- The launches of the package with their domains. -/
def State.allLaunches (s : State) : List (BitVec 4 × Graph × Launch) :=
  ((upTo 16).map fun d => (((s.dom (BitVec.ofNat 4 d)).graphs.map fun g => g.launches.map fun l =>
    (BitVec.ofNat 4 d, g, l)).flatten)).flatten

/-- The domain's policy is deadline (R396, R418). -/
def Dom.deadlinePol (x : Dom) : Bool := bitAt (x.cfg.get 0) 5

/-- A launch whose DEADLINE gts() has reached has missed. -/
def State.missedNow (s : State) (d : BitVec 4) (l : Launch) : Bool :=
  (s.dom d).deadlinePol && l.deadline != 0 && !l.missed && !s.launchDone d l && l.deadline.ule s.gts

/-- DEADLINE_MISS (R398): the k-th launch of the package has missed; DLMISS is posted once, to its queue. -/
def execDeadlineMiss (k : BitVec 32) (s : State) : Host.Outcome State Fault Refusal :=
  match s.allLaunches[k.toNat]? with
  | none => .next s
  | some (d, g, l) =>
    if s.missedNow d l then
      let rc : RecF := { kind := 0x80, dom := d, job := g.job,
                         info := put 128 0 64 l.deadline.toNat ||| put 128 64 32 l.tag.toNat ||| put 128 96 16 l.dljcb.toNat |||
                           put 128 112 16 l.queue.toNat }
      .next ((s.modGraph d g.id fun x => { x with launches := x.launches.map fun y =>
        if y = l then { y with missed := true } else y }).report d l.queue (mkRec rc))
    else .next s

/-! ## The lease of a reserve bank (R414, R415) -/

/-- The harvest context in the reserve bank of a partition. -/
def State.harvestOf (s : State) (l : Loc) : Option Ctx := s.ctxs.find? fun c => c.id.loc == l && c.id.harv
/-- Change the partition record at a place. -/
def State.modPartAt (s : State) (l : Loc) (f : Part → Part) : State :=
  s.mapCores fun k => if k.isAt l.sock l.core then
    { k with parts := k.parts.set l.part.toNat (f (k.parts.get l.part.toFin)) l.part.isLt } else k
/-- The partition record at a place. -/
def State.partAt (s : State) (l : Loc) : Part :=
  match s.coreAt l.sock l.core with
  | some k => k.parts.get l.part.toFin
  | none => {}

/-- Consent between a harvest context's domain and an owner's (R419). -/
def State.consent (s : State) (h o : BitVec 4) : Bool :=
  let admits (x y : BitVec 4) : Bool := bitAt ((s.dom x).cfg.get 0) (16 + y.toNat)
  h == o || (admits o h && admits h o)

/-- One range lies within another. -/
def Range.within (a b : Range) : Bool := decide (b.lo ≤ a.lo) && decide (a.lo + a.len ≤ b.lo + b.len)

/-- The owner in a partition sleeps or is done, is latency-critical, and its domain consents: the harvest context may
hold the lease (R413, R414, R417). -/
def State.mayHold (s : State) (l : Loc) (h : Ctx) : Bool :=
  match s.ownerOf l with
  | none => false
  | some o => !s.gangHolds h.bnd.dom h.bnd.job && (o.cst == .sleep || o.cst == .done) && o.bnd.crit && s.consent h.bnd.dom o.bnd.dom &&
      h.bnd.spm.all fun r => o.bnd.lend.any r.within

/-- HARVEST_HELD (R414): the owner of the bank's partition sleeps or has finished, and the parked harvest context may
issue; a restart mark restarts its region first (R58), and a context parked out of SLEEP then runs (R55). -/
def execHarvestHeld (bank : Loc) (s : State) : Host.Outcome State Fault Refusal :=
  let p := s.partAt bank
  match s.harvestOf bank with
  | none => .next s
  | some h =>
    if p.lease = .parked ∧ s.mayHold bank h then
      let s := (s.modPartAt bank fun p => { p with lease := .held, restart := false }).mapCtxs fun c =>
        if c.id = h.id then c.unpark else c
      if p.restart then
        .next ((s.focus h.id).abortRgn.modCtx fun c => Ctx.settle { c with cst := if c.cst = .sleep then .run else c.cst })
      else .next s
    else .next s

/-- HARVEST_REVOCATION (R414, R415): the owner demands its slot while the lease is held: the harvest context issues
nothing further. -/
def execHarvestRevocation (bank : Loc) (s : State) : Host.Outcome State Fault Refusal :=
  if (s.partAt bank).lease = .held then .next (s.modPartAt bank fun p => { p with lease := .revoking }) else .next s

/-- The owner's first issue after a revocation parks the lease (R414). -/
def State.ownerIssues (s : State) : State :=
  let p := s.part
  if !s.ctx.id.harv ∧ p.lease = .revoking then (s.setPart { p with lease := .parked }).parkHarvest s.ctx.id.loc else s

/-- The deadlock counters after n clocks: that of a harvest context stands while its bank is not held, PARKED or denied its
slot (R63, R414). -/
def State.tickDlk (s : State) (n : Nat) : State :=
  s.mapCtxs fun c => if c.id.harv && (s.partAt c.id.loc).lease != .held then c else c.tickDlk n

end Sys2Proof.Machine
end

