-- ==== Sys2Proof/Machine/Image.lean ====
section
/-! DEFINITION. Code objects, kernel images and their checks at bind (spec/16 R365-R371), and what a bind, an unbind and
an abort do to a context, its core and its reserve bank (R36, R53, R83, R394, R417). -/

namespace Sys2Proof.Machine
open Sys2Proof

/-! ## Memory as the firmware reads it -/

/-- Bytes of consecutive frames of a domain virtual range. -/
def vaFrames (s : State) (d : BitVec 4) : List (Nat × Nat × Nat) → Option (List Byte)
  | [] => some []
  | (_, va, n) :: rest =>
    match s.walk d (BitVec.ofNat 52 va) with
    | .ok e =>
      if e.layout ≠ 0 then none
      else match vaFrames s d rest with
        | none => none
        | some bs => some (Memory.getN s.mem (e.pa.toNat + va % 2 ^ e.bits) n ++ bs)
    | _ => none

/-- Bytes at a domain virtual address, when every page is resident with LAYOUT 0x0. -/
def State.vaBytes (s : State) (d : BitVec 4) (va n : Nat) : Option (List Byte) :=
  if n = 0 then some []
  else if 2 ^ 52 < va + n then none
  else vaFrames s d (frames va n)

/-- The 8-byte words of bytes. -/
def words8 (bs : List Byte) : List Word := (upTo (bs.length / 8)).map fun k => ofBytes 64 ((bs.drop (8 * k)).take 8)

/-! ## A kernel image (R366, R367) -/

/-- What a kernel header and its tables say. -/
structure Kern where
  hdr : BitVec 1024
  obj : BitVec 512
  index : Nat
  dict : List Word
  spm : List Word
  fmt : List Word
  lend : List Word
  cap : List (BitVec 256)
  rgn : List Word

def Kern.kver (k : Kern) : Nat := fld k.hdr 0 16
def Kern.cls (k : Kern) : Nat := fld k.hdr 16 4
def Kern.harv (k : Kern) : Bool := bitAt k.hdr 20
def Kern.strict (k : Kern) : Bool := bitAt k.hdr 21
def Kern.stamp (k : Kern) : Nat := fld k.hdr 32 16
def Kern.dfirst (k : Kern) : Nat := fld k.hdr 64 10
def Kern.dcount (k : Kern) : Nat := fld k.hdr 74 11
/-- Entry offset of a sequencer. -/
def Kern.ent (k : Kern) (q : SeqId) : BitVec 32 := fldv k.hdr (128 + 32 * seqCode q) 32
def Kern.tfirst (k : Kern) : Nat := fld k.hdr 576 5
def Kern.tcount (k : Kern) : Nat := fld k.hdr 581 6
def Kern.cbd (k : Kern) : BitVec 32 := fldv k.hdr 640 32
def Kern.imgLen (k : Kern) : Nat := fld k.hdr 704 32

/-- A range of a map in bytes. -/
def rangeOf (w : Word) : Range := { lo := fld w 0 16 * 4096, len := fld w 32 16 * 4096 }
def Kern.ranges (k : Kern) : List Range := k.spm.map rangeOf
def Kern.lends (k : Kern) : List Range := k.lend.map rangeOf
/-- Template slots with their capabilities. -/
def Kern.caps (k : Kern) : List (BitVec 8 × BitVec 128) := k.cap.map fun e => (fldv e 0 8, fldv e 64 128)
/-- Regions with their SEQMASK. -/
def Kern.regions (k : Kern) : List (BitVec 12 × BitVec 4) := k.rgn.map fun e => (fldv e 0 12, fldv e 12 4)

/-- The six tables of a header: place of the offset, place and width of the count, entry size, limit. -/
def tables : List (Nat × Nat × Nat × Nat × Nat) :=
  [(96, 74, 11, 8, 1024), (256, 288, 6, 8, 32), (320, 352, 7, 8, 64), (384, 416, 5, 8, 16), (448, 480, 9, 32, 256),
   (512, 544, 13, 8, 4096)]
/-- Offset and bytes of table n. -/
def tabSpan (h : BitVec 1024) (n : Nat) : Nat × Nat :=
  match tables[n]? with
  | some (o, c, w, z, _) => (fld h o 32, fld h c w * z)
  | none => (0, 0)

/-- The kernel's ordinal position in the code object, walking IMGLEN by IMGLEN from offset 0x40; 0xFFFF when the walk does
not arrive (R369). -/
def State.kernIndex (s : State) (d : BitVec 4) (code off nk : Nat) : Nat → Nat → Nat → Nat
  | 0, _, _ => 0xFFFF
  | fuel + 1, i, pos =>
    if pos = off then i
    else if off < pos ∨ nk ≤ i + 1 then 0xFFFF
    else match s.vaBytes d (code + pos + 88) 4 with
      | none => 0xFFFF
      | some bs => if leNat bs < 0x80 then 0xFFFF else State.kernIndex s d code off nk fuel (i + 1) (pos + leNat bs)

/-- The headers and tables read; without an answer, check 1 fails and the index is given (R369). -/
def State.readKern (s : State) (d : BitVec 4) (code off : Nat) : Except Nat Kern :=
  match s.vaBytes d code 64 with
  | none => .error 0xFFFF
  | some ob =>
    let obj := ofBytes 512 ob
    let index := s.kernIndex d code off (fld obj 16 16) (fld obj 16 16 + 1) 0 0x40
    match s.vaBytes d (code + off) 128 with
    | none => .error index
    | some hb =>
      let h := ofBytes 1024 hb
      let tab (n : Nat) : Option (List Byte) := s.vaBytes d (code + off + (tabSpan h n).1) (tabSpan h n).2
      match tab 0, tab 1, tab 2, tab 3, tab 4, tab 5 with
      | some t0, some t1, some t2, some t3, some t4, some t5 =>
        .ok { hdr := h, obj := obj, index := index, dict := words8 t0, spm := words8 t1, fmt := words8 t2, lend := words8 t3
              cap := (upTo (t4.length / 32)).map fun k => ofBytes 256 ((t4.drop (32 * k)).take 32)
              rgn := words8 t5 }
      | _, _, _, _, _, _ => .error index

/-! ## The checks of R369 and R370 -/

/-- Reserved spans of a header or an entry: low bit and width. -/
def clear {n : Nat} (x : BitVec n) (spans : List (Nat × Nat)) : Bool := spans.all fun p => fld x p.1 p.2 == 0

/-- No element occurs twice. -/
def distinct {α : Type} [DecidableEq α] (l : List α) : Bool := (dedup l).length == l.length

/-- Two ranges share a byte. -/
def Range.meets (a b : Range) : Bool := decide (a.lo < b.lo + b.len) && decide (b.lo < a.lo + a.len)
/-- No two of a list of ranges share a byte. -/
def apart : List Range → Bool
  | [] => true
  | r :: t => !(t.any r.meets) && apart t

/-- Bytes of a bank and of a scratchpad of a class (R97). -/
def bankBytes (cls : Nat) : Nat :=
  match cls with
  | 3 => 2 ^ 17
  | 4 => 2 ^ 16
  | _ => 2 ^ 18
def spadBytes (cls : Nat) : Nat := banksOf cls * bankBytes cls

/-- Check 2: versions and reserved bits. -/
def Kern.check2 (k : Kern) : Bool :=
  fld k.obj 0 16 == 1 && k.kver == 1 && clear k.obj [(64, 448)] &&
  clear k.hdr [(22, 10), (48, 16), (85, 11), (294, 26), (359, 25), (421, 27), (489, 23), (557, 19), (587, 53), (672, 32), (736, 288)] &&
  (k.spm ++ k.lend).all (fun e => clear e [(16, 16), (48, 16)]) && k.fmt.all (fun e => clear e [(6, 2), (17, 47)]) &&
  k.cap.all (fun e => clear e [(8, 56), (64 + 55, 1), (64 + 57, 7), (192, 64)]) && k.rgn.all fun e => clear e [(16, 48)]
/-- Check 4: within OLEN, IMGLEN and the limits. -/
def Kern.check4 (k : Kern) (off : Nat) : Bool :=
  let nk := fld k.obj 16 16
  decide (1 ≤ nk ∧ nk ≤ 1024) && decide (0x80 ≤ k.imgLen) && decide (off + k.imgLen ≤ fld k.obj 32 32) && decide (k.tcount ≤ 32) &&
  (upTo 6).all fun n =>
    let (o, z) := tabSpan k.hdr n
    match tables[n]? with
    | some (_, c, w, _, lim) => decide (fld k.hdr c w ≤ lim) && (z == 0 || decide (o + z ≤ k.imgLen))
    | none => true
/-- Check 5: the entry points. -/
def Kern.check5 (k : Kern) : Bool :=
  let es := allSeqs.map fun q => (k.ent q).toNat
  es.any (· != 0) && es.all fun e => e == 0 || (e % 2 == 0 && decide (0x80 ≤ e) && decide (e < k.imgLen))
/-- Check 8 for one class: distinct banks that hold part of a range, no reserved format. -/
def Kern.check8 (k : Kern) (cls : Nat) : Bool :=
  distinct (k.fmt.map fun e => fld e 0 6) && k.fmt.all fun e =>
    let b := fld e 0 6
    decide (b < banksOf cls) && decide (fld e 8 5 < 0x14) && decide (fld e 13 3 < 5) &&
      k.ranges.any fun r => r.meets { lo := b * bankBytes cls, len := bankBytes cls }
/-- Check 13: the regions. -/
def Kern.check13 (k : Kern) : Bool :=
  distinct (k.regions.map (·.1)) && k.regions.all fun r =>
    r.2 != 0 && allSeqs.all fun q => !(r.2.getLsbD (seqCode q)) || k.ent q != 0
/-- Check 14: what R370 asks of a harvest kernel. -/
def Kern.check14 (k : Kern) : Bool :=
  !k.harv || (k.lend.isEmpty && k.fmt.isEmpty && k.tcount == 0 && k.cbd == 0 && !k.rgn.isEmpty)

/-- The checks of an image that concern it alone, as the numbers that fail, in order. `cls` is the class that the node
gives the body. -/
def Kern.fails (k : Kern) (off cls : Nat) : List Nat :=
  let no (b : Bool) (n : Nat) : List Nat := if b then [] else [n]
  no k.check2 2 ++ no (k.cls == cls) 3 ++ no (k.check4 off) 4 ++ no k.check5 5 ++
  no (decide (k.dfirst + k.dcount ≤ 1024)) 6 ++
  no (k.ranges.all (fun r => decide (0 < r.len) && decide (r.lo + r.len ≤ spadBytes cls)) && apart k.ranges) 7 ++
  no (k.check8 cls) 8 ++
  no (k.lends.all fun r => decide (0 < r.len) && k.ranges.any r.within) 9 ++
  no (decide (k.tfirst + k.tcount ≤ 32) && (k.tcount == 0 || cls == 1 || cls == 2)) 10 ++
  no (distinct (k.caps.map (·.1))) 12 ++ no k.check13 13 ++ no k.check14 14

/-! ## The kernels of a core -/

/-- A context is bound. -/
def State.isBound (s : State) (c : Ctx) : Bool :=
  if c.id.harv then c.cst != .idle else s.binds.any fun b => b.ctxId == c.id
/-- The contexts bound on a core. -/
def State.boundOn (s : State) (sock : BitVec 6) (num : BitVec 4) : List Ctx :=
  s.ctxs.filter fun c => c.id.loc.sock == sock && c.id.loc.core == num && s.isBound c
/-- Two binds carry the same image. -/
def Bind.sameImage (a b : Bind) : Bool := a.dom == b.dom && a.code == b.code && a.body == b.body

/-- The bind that an image gives a context of a node. -/
def Kern.bind (k : Kern) (d : BitVec 4) (g : BitVec 32) (job : BitVec 32) (code : BitVec 52) (off : BitVec 32) (n : BitVec 512) :
    Bind :=
  { dom := d, graph := g, node := fldv n 0 16, stage := fldv n 16 16, job := job, crit := bitAt n 41, code := code, body := off
    inE := (upTo (fld n 48 3)).map fun i => fldv n (224 + 16 * i) 16
    outE := (upTo (fld n 52 3)).map fun i => fldv n (288 + 16 * i) 16
    strict := k.strict, dfirst := k.dfirst, dcount := k.dcount, spm := k.ranges, lend := k.lends, tmpl := k.caps
    rgns := k.regions, tfirst := k.tfirst, tcount := k.tcount, cbd := k.cbd, ent := allSeqs.map k.ent }

/-- Two spans of numbers share one. -/
def spansMeet (a n b m : Nat) : Bool := decide (0 < n) && decide (0 < m) && decide (a < b + m) && decide (b < a + n)

/-- The checks of an owner kernel against another owner kernel of its core: dictionary ranges (6), scratchpad maps (7),
tiles (10), descriptors (11). -/
def Bind.clashes (k o : Bind) : List Nat :=
  if k.sameImage o then []
  else
    (if spansMeet k.dfirst k.dcount o.dfirst o.dcount then [6] else []) ++
    (if k.spm.any fun r => o.spm.any r.meets then [7] else []) ++
    (if spansMeet k.tfirst k.tcount o.tfirst o.tcount then [10] else []) ++
    (if k.cbd &&& o.cbd ≠ 0 then [11] else [])

/-- Two harvest kernels of a core meet: in bank 1 of the dictionary (R196), or in the scratchpad (R360). -/
def Bind.harvMeets (k o : Bind) : Bool :=
  !k.sameImage o && (spansMeet k.dfirst k.dcount o.dfirst o.dcount || k.spm.any fun r => o.spm.any r.meets)

/-! ## Binding one context (R36, R371) -/

/-- A template capability, compared with the registry (R83); that of an imported one stands at its exporting home, whose answer
is free here (R89). -/
def State.tmplCap (s : State) (d : BitVec 4) (c : BitVec 128) : BitVec 128 × State :=
  let (stale, s) := if capImp c then s.freeBool else (!(s.dom d).liveCap c, s)
  (if stale then setFld c 57 1 1 else c, s)
/-- The same for every slot of a template. -/
def State.tmplCaps (s : State) (d : BitVec 4) (l : List (BitVec 8 × BitVec 128)) : List (BitVec 8 × BitVec 128) × State :=
  l.foldl (init := ([], s)) fun a e =>
    let (c, s) := a.2.tmplCap d e.2
    (a.1 ++ [(e.1, c)], s)

/-- A context as it starts on a node: everything zero, its sequencers at the header's address plus their entry offsets (R36, R91,
R371). Bit 0 of a program counter is always 0 (R183); a code object or a body at an odd address is not refused (log entry 57). -/
def startCtx (id : CtxId) (b : Bind) : Ctx :=
  let at_ (q : SeqId) : Seqr :=
    let e := b.ent.getD (seqCode q) 0
    { pc := (b.code + b.body.zeroExtend 52 + e.zeroExtend 52) &&& ~~~1, run := if e = 0 then .halted none else .running }
  { id := id, bnd := b, cst := .run, seqs := { ld := at_ .ld, ex := at_ .ex, st := at_ .st, sc := at_ .sc } }

/-- A context stands in the place of the one with its name, or is added. -/
def State.putCtx (s : State) (c : Ctx) : State :=
  if s.ctx.id = c.id then { s with ctx := c }
  else if s.others.any fun k => k.id == c.id then { s with others := s.others.map fun k => if k.id = c.id then c else k }
  else { s with others := s.others ++ [c] }

/-- An image loaded into a core (R99, R196, R260, R371): its presets, and its dictionary unless it is in use there; the first
kernel of a core finds its semaphores at 0. -/
def Core.load (c : Core) (k : Kern) (first inUse : Bool) : Core :=
  let c := if first then { c with sem := Vector.replicate 64 0 } else c
  let es := (upTo k.dict.length).zip k.dict
  let fill (m : Sparse Word) : Sparse Word := if inUse then m else es.foldl (fun m e => sput 0 m (k.dfirst + e.1) e.2) m
  let c := if k.harv then { c with dict1 := fill c.dict1 } else { c with dict0 := fill c.dict0 }
  { c with spfmt := k.fmt.foldl (fun v e => v.set (fld e 0 6) (fldv e 8 9) (Nat.mod_lt _ (by decide))) c.spfmt }

/-- Load an image for a context at a place. -/
def State.loadKern (s : State) (k : Kern) (b : Bind) (id : CtxId) : State :=
  let on := s.boundOn id.loc.sock id.loc.core
  let inUse := on.any fun c => c.id.harv == id.harv && c.bnd.sameImage b
  s.mapCores fun c => if c.isAt id.loc.sock id.loc.core then c.load k on.isEmpty inUse else c

/-! ## The end of a bind -/

/-- Two binds of one body. -/
def Bind.sameBody (a b : Bind) : Bool := a.dom == b.dom && a.graph == b.graph && a.node == b.node
/-- The node's body carries a bound context, or one that a gang switch has saved. -/
def State.bodyBound (s : State) (b : Bind) : Bool :=
  (s.ctxs.any fun c => s.isBound c && c.bnd.sameBody b) || s.gangs.any fun g => g.ctxs.any fun c => c.bnd.sameBody b
/-- A body's template references are taken or dropped (R83). -/
def State.templateRefs (s : State) (b : Bind) (take : Bool) : State :=
  b.tmpl.foldl (fun s e => if take then s.incRef b.dom e.2 else s.decRef b.dom e.2) s

/-- Ranges of a core are zeroed, with their poison (R417). -/
def State.scrubAt (s : State) (l : Loc) (rs : List Range) : State :=
  s.mapCores fun c => if c.isAt l.sock l.core then
    { c with
      spad := rs.foldl (fun m r => sclear m r.lo r.len) c.spad
      spois := rs.foldl (fun m r => sclear m (r.lo / 64) (r.len / 64)) c.spois } else c
/-- The ranges of a list whose bits are set. -/
def chosen (lend : List Range) (m : BitVec 16) : List Range :=
  ((lend.zip (upTo 16)).filter fun r => m.getLsbD r.2).map (·.1)
/-- The lent and the still unscrubbed ranges of a partition come back zeroed; the lease is parked, with its restart mark
(R417). -/
def State.reclaimAll (s : State) (l : Loc) (lend : List Range) : State :=
  let p := s.partAt l
  (s.scrubAt l (chosen lend (p.lent ||| p.scrub))).modPartAt l fun p => { p with
    lent := 0, scrub := 0, restart := p.lease != .vacant
    lease := if p.lease = .vacant then .vacant else .parked }
/-- What an owner has lent comes back zeroed: from the partition while it is resident, else from what is saved with it (R61,
R417); the harvest context beside it stands PARKED, to restart its region. -/
def State.takeBack (s : State) (c : Ctx) (res : Bool) : State :=
  if res then (s.reclaimAll c.id.loc c.bnd.lend).parkHarvest c.id.loc
  else
    let s := s.scrubAt c.id.loc (chosen c.bnd.lend (c.lentSv ||| c.scrubSv))
    if c.lentSv = 0 then s
    else (s.modPartAt c.id.loc fun p => { p with
      restart := p.restart || p.lease != .vacant
      lease := if p.lease = .vacant then .vacant else .parked }).parkHarvest c.id.loc
/-- An owner context holds its core. -/
def State.seated (s : State) (c : CtxId) : Bool := !c.harv && (s.residentOf (rowOf c.loc)).any fun b => b.pos == c.pos

/-- Entries of a context leave every engine queue. -/
def State.dropEntries (s : State) (c : CtxId) : State :=
  let out (l : List EngEnt) : List EngEnt := l.filter fun e => !(e.own == c)
  let s := s.mapCores fun k => { k with copyq := out k.copyq, matq := out k.matq, gathq := out k.gathq, colq := out k.colq }
  { s with xfq := (s.xfq.map fun e => (e.1, out e.2)).filter fun e => !e.2.isEmpty }

/-- The records of a context await no answer any more. -/
def State.clearPending (s : State) (c : CtxId) : State :=
  { s with pending := s.pending.filter fun p => match p.2 with
      | .ctx k _ _ => !(k == c)
      | _ => true }

/-- What a context that goes leaves to do (R70, R75, R237, R394): a harvest region's provisional pops are returned and its
buffered effects dropped (log entry 14), the shares of a push under way are undone, and the task ends, nothing of it held
back. -/
def State.endAll (s : State) : State :=
  let s := if s.ctx.id.harv then s.harvestUndo else s
  let shares (x : Seqr) : List (BitVec 128) := (x.pushing.map (·.shares)).getD []
  let made := (allSeqs.map fun q => shares (s.ctx.seqs.get q)).flatten
  ((made.foldl (fun s c => s.decRef s.domOf c) s).modCtx fun c => { c with rgns := [] }).endTask

/-- The writes of a context on their way to other packages stand under another name. -/
def State.renamePeers (s : State) (o n : CtxId) : State :=
  { s with peers := s.peers.map fun p => if p.own = o then { p with own := n } else p }
/-- A context is gone: what is on its way for it answers to a name that no context takes (R140). -/
def State.forget (s : State) (id : CtxId) : State :=
  { s.renamePeers id { id with away := s.nextAway } with nextAway := s.nextAway + 1 }

/-- A context goes to IDLE (R394): its task ends, its buffered effects are dropped, its registers, tokens and queues are
cleared, and it is bound no longer; a harvest context leaves its bank, an owner takes back what it lent. -/
def State.idle (s : State) (id : CtxId) : State :=
  match s.findCtx id with
  | none => s
  | some c =>
    let res := s.seated id
    let s := (((s.focus id).endAll.dropEntries id).clearPending id).forget id
    let s := { s with binds := s.binds.filter fun b => id.harv || !(b.ctxId == id) }
    let s := if id.harv then s.modPartAt id.loc fun p => { p with lease := .vacant, restart := false }
      else s.takeBack c res
    let s := s.putCtx { id := id }
    let s := if s.bodyBound c.bnd then s else s.templateRefs c.bnd false
    s.fill (rowOf id.loc)

/-! ## A context that a gang switch has saved (R394, R405) -/

/-- What a context does when it stands in focus beside all others, and what becomes of it. -/
def State.asCtx (s : State) (c : Ctx) (f : State → State) : Ctx × State :=
  let t := f { s with ctx := c, others := s.ctx :: s.others }
  match t.others with
  | k :: rest => (t.ctx, { t with ctx := k, others := rest })
  | [] => (t.ctx, t)
/-- A saved context ends as any other does: its task, its records, its body's template references when it was the last. -/
def State.idleSaved (s : State) (c : Ctx) : State :=
  let s := (s.asCtx c State.endAll).2
  let s := (s.clearPending c.id).forget c.id
  let drop (g : Gang) : Gang :=
    if g.ctxs.any fun k => k.id == c.id then
      { g with ctxs := g.ctxs.filter fun k => k.id ≠ c.id
               binds := g.binds.filter fun b => c.id.harv || b.ctxId ≠ { c.id with away := 0 } }
    else g
  let s := { s with gangs := s.gangs.map drop }
  if s.bodyBound c.bnd then s else s.templateRefs c.bnd false

/-! ## Usable cores (R20, R28, R418, R444) -/

/-- A core is enabled, works, and belongs to a domain. -/
def State.usable (s : State) (d : BitVec 4) (sock : BitVec 6) (num : BitVec 4) : Bool :=
  s.present sock && (s.pkg.pop.get sock.toFin).cores.getLsbD num.toNat &&
  ((s.dom d).cores.get sock.toFin).getLsbD num.toNat && (s.coreAt sock num).any (·.live)
/-- The usable cores of a socket, in ascending order. -/
def State.usableCores (s : State) (d : BitVec 4) (sock : Nat) : List (BitVec 4) :=
  ((upTo 16).map (BitVec.ofNat 4)).filter fun c => s.usable d (BitVec.ofNat 6 sock) c

/-! ## Harvest placement (R413) -/

/-- The owner record that a reserve bank stands beside: the resident one, else the lowest position. -/
def State.bankOwner (s : State) (l : Loc) : Option BindRec :=
  match s.residentOf (rowOf l) with
  | some b => some b
  | none => (s.binds.filter fun b => b.row == rowOf l).foldl (fun a b =>
      match a with
      | none => some b
      | some x => if b.pos.toNat < x.pos.toNat then some b else some x) none

/-- A reserve bank is eligible for a harvest kernel of a domain's node. -/
def State.bankFits (s : State) (d : BitVec 4) (n : BitVec 512) (b : Bind) (l : Loc) : Bool :=
  classOf l.sock == fld n 32 4 && (fld n 64 64 == 0 || bitAt n (64 + l.sock.toNat)) &&
  (s.partAt l).lease == .vacant && s.present l.sock && (s.coreAt l.sock l.core).any (·.live) &&
  match s.bankOwner l with
  | none => false
  | some o => match s.findCtx o.ctxId with
    | none => false
    | some oc =>
      o.crit && s.consent d o.dom && b.spm.all (fun r => oc.bnd.lend.any r.within) &&
      !((s.boundOn l.sock l.core).any fun c => c.id.harv && b.harvMeets c.bnd)

/-- A harvest context is placed: PARKED, at the start of its streams (R55, R414). -/
def State.placeHarvest (s : State) (k : Kern) (b : Bind) (l : Loc) : State :=
  let id : CtxId := { loc := l, pos := 0, harv := true }
  let s := if s.bodyBound b then s else s.templateRefs b true
  let s := (s.loadKern k b id).putCtx (startCtx id b).park
  s.modPartAt l fun p => { p with lease := .parked, restart := false }

/-- The contexts of a node. -/
def State.nodeCtxs (s : State) (d : BitVec 4) (g : BitVec 32) (n : BitVec 16) : List Ctx :=
  s.ctxs.filter fun c => s.isBound c && c.bnd.dom == d && c.bnd.graph == g && c.bnd.node == n
/-- CTXMAX lets another context of the node be bound (R66). -/
def State.ctxRoom (s : State) (d : BitVec 4) (g : Graph) (n : BitVec 512) : Bool :=
  fld n 192 12 == 0 || decide ((s.nodeCtxs d g.id (fldv n 0 16)).length < fld n 192 12)

/-- Place a harvest node's context in one bank, when the bank and the image allow it. -/
def State.tryPlace (s : State) (d : BitVec 4) (g : Graph) (n : BitVec 512) (l : Loc) : State :=
  let off := fldv n 128 32
  match s.readKern d g.code.toNat off.toNat with
  | .error _ => s
  | .ok k =>
    if k.harv && (k.fails off.toNat (fld n 32 4)).isEmpty && s.ctxRoom d g n then
      let b := k.bind d g.id g.job g.code off n
      let (tmpl, s) := s.tmplCaps d b.tmpl
      let b := { b with tmpl := tmpl }
      if s.bankFits d n b l then s.placeHarvest k b l else s
    else s

/-! ## Saved harvest contexts (R410) -/

/-- A name for another. -/
def reName (o n x : CtxId) : CtxId := if x = o then n else x
def Raiser.reName (o n : CtxId) (w : Raiser) : Raiser :=
  match w with
  | .ctx c q k => .ctx (Machine.reName o n c) q k
  | w => w
def ESlot.reName (o n : CtxId) (e : ESlot) : ESlot :=
  match e with
  | .held c => .held (Machine.reName o n c)
  | e => e
def SubQ.reName (o n : CtxId) (x : SubQ) : SubQ := { x with late := x.late.map fun r => (r.1, r.2.reName o n) }
def Edge.reName (o n : CtxId) (e : Edge) : Edge := { e with slots := e.slots.map (ESlot.reName o n) }
def Graph.reName (o n : CtxId) (g : Graph) : Graph := { g with edges := g.edges.map (Edge.reName o n) }
def Dom.reName (o n : CtxId) (x : Dom) : Dom :=
  { x with queues := x.queues.map (SubQ.reName o n), graphs := x.graphs.map (Graph.reName o n) }

/-- What stands under the name of a saved context stands under the name that it takes when it is placed. -/
def State.reName (s : State) (o n : CtxId) : State :=
  if o = n then s
  else { s with
    doms := s.doms.map (Dom.reName o n)
    pending := s.pending.map fun p => (p.1, p.2.reName o n)
    peers := s.peers.map fun p => { p with own := Machine.reName o n p.own } }

/-- A saved sequencer makes its waits anew. -/
def Seqr.anew (x : Seqr) : Seqr :=
  { x with wait := if x.atB || x.atE then .marker else .none, sent := false, woke := none, timed := false, wpos := none, wva := none }
/-- A saved context as it is put back under a name; one that slept evaluates what it slept on again (R150). -/
def Ctx.anew (c : Ctx) (id : CtxId) : Ctx :=
  { c.park with id := id, was := if c.park.was = .sleep then .run else c.park.was, seqs := c.seqs.map fun _ => Seqr.anew }

/-- The entries of a range of keys as they were saved. -/
def splice {α : Type} [DecidableEq α] (d : α) (old cur : Sparse α) (lo len : Nat) : Sparse α :=
  (old.filter fun e => decide (lo ≤ e.1) && decide (e.1 < lo + len)).foldl (fun m e => sput d m e.1 e.2) (sclear cur lo len)

/-- The switches whose job is back on the package. -/
def Gang.back (g : Gang) : Bool := g.gst == .restore || g.gst == .reinj || g.gst == .barrier || g.gst == .run

/-- A saved harvest context is placed in a bank, its region marked for restart. -/
def State.placeSaved (s : State) (g : Gang) (c : Ctx) (l : Loc) : State :=
  let id : CtxId := { loc := l, pos := 0, harv := true }
  let dict (k : Core) : Core :=
    match g.cores.find? fun o => o.isAt c.id.loc.sock c.id.loc.core with
    | some o => { k with dict1 := splice 0 o.dict1 k.dict1 c.bnd.dfirst c.bnd.dcount }
    | none => k
  let s := (s.reName c.id id).mapCores fun k => if k.isAt l.sock l.core then dict k else k
  let s := (s.putCtx (c.anew id)).modPartAt l fun p => { p with lease := .parked, restart := true }
  let drop (y : Gang) : Gang :=
    if y.job = g.job ∧ y.dom = g.dom then { y with ctxs := y.ctxs.filter fun k => k.id ≠ c.id } else y
  { s with gangs := (s.gangs.map drop).filter fun y => !(y.gst == .run && y.ctxs.isEmpty) }

/-- A saved harvest context of a node that has found no bank. -/
def State.unplaced (s : State) (d : BitVec 4) (graph : BitVec 32) (node : BitVec 16) : Option (Gang × Ctx) :=
  (s.gangs.filter fun g => g.dom == d && g.back).findSome? fun g =>
    (g.ctxs.find? fun c => c.id.harv && c.bnd.graph == graph && c.bnd.node == node).map fun c => (g, c)

/-- The firmware places a context of a domain's harvest node in a bank that has become eligible (R413); one that a
gang switch holds without a bank comes first (R410). -/
def State.placeIn (s : State) (graph : BitVec 32) (node : BitVec 16) (bank : Loc) (d : BitVec 4) : State :=
  match (s.dom d).graphs.find? fun g => g.id == graph with
  | none => s
  | some g => match g.nodes.find? fun n => (fldv n 0 16 : BitVec 16) == node with
    | none => s
    | some n => match s.unplaced d graph node with
      | some (y, c) => if s.bankFits d n c.bnd bank then s.placeSaved y c bank else s
      | none => s.mergeAll.tryPlace d g n bank
/-- HARVEST_PLACEMENT (R413): every domain that has loaded the graph with such a node, in ascending order; a bank takes one
context. -/
def execHarvestPlacement (graph : BitVec 32) (node : BitVec 16) (bank : Loc) (s : State) : Host.Outcome State Fault Refusal :=
  if s.pkg.cmperr then .next s
  else .next (((upTo 16).map (BitVec.ofNat 4)).foldl (fun s d => s.placeIn graph node bank d) s)

end Sys2Proof.Machine
end

