-- ==== Sys2Proof/Machine/Packets.lean ====
section
/-! DEFINITION. Submission queues and the taking of packets (R385-R387, R392-R394, R399, R431). -/

namespace Sys2Proof.Machine
open Sys2Proof

/-! ## Queues -/

/-- The firmware complex runs: the boot has ended and the pair agrees (R384, R438). -/
def State.running (s : State) : Bool := fld s.pkg.bootstat 0 3 == 7 && !s.pkg.cmperr

/-- A queue is held by a record that awaits an answer, queued or not (R394). -/
def SubQ.held (x : SubQ) (d : BitVec 4) : Bool :=
  x.hold.isSome || x.late.any fun r => r.2 == .packet d x.num || r.2 == .index d x.num
/-- A packet stands at SQHEAD that the device knows of. -/
def SubQ.ready (x : SubQ) : Bool := x.sqhead != x.sqtail
/-- The 64 bytes at SQHEAD. -/
def State.headPkt (s : State) (d : BitVec 4) (x : SubQ) : BitVec 512 :=
  ofBytes 512 (s.hostBytes d (x.pkt.toNat + 64 * (x.sqhead.toNat % 2 ^ x.n)) 64)

/-- A queue ends: it is no longer a queue of the domain (R388). While status entries of its packets wait for room these have not
completed, and it stands until they have (R387). -/
def State.endQueue (s : State) (d : BitVec 4) (q : BitVec 6) : State :=
  let open_ := (s.findQ d q).any fun x => !x.stwait.isEmpty
  let s := { s with pending := s.pending.filter fun p => p.2 != Raiser.packet d q && p.2 != Raiser.index d q }
  if open_ then s.modQ d q fun y => { y with ending := true, taken := false, hold := none, late := [] }
  else s.modDom d fun x => { x with queues := x.queues.filter fun y => y.num ≠ q }

/-- Status entries that waited for room are written; the device reads STHEAD while any waits (R385, R387). A queue that was to end
with them ends. -/
def State.drainStatus (s : State) (d : BitVec 4) (q : BitVec 6) : State :=
  match s.findQ d q with
  | none => s
  | some x =>
    let s := x.stwait.foldl (fun s e => s.putStatus d q e) (s.modQ d q fun y => { y with stwait := [] })
    if (s.findQ d q).any fun y => y.ending && !y.taken && y.stwait.isEmpty then s.endQueue d q else s

/-! ## The fields of a packet (R387) -/

def pktOp (b : BitVec 512) : Nat := fld b 0 8
def pktNostat (b : BitVec 512) : Bool := bitAt b 9
def pktTag (b : BitVec 512) : BitVec 32 := fldv b 32 32
/-- A reserved header bit is set. -/
def pktHeadBad (b : BitVec 512) : Bool := fld b 10 22 != 0
/-- An operand field: byte offset and bytes. -/
def pktB (b : BitVec 512) (off n : Nat) : Nat := fld b (8 * off) (8 * n)
/-- Opcodes of the table of R388. -/
def pktKnown (op : Nat) : Bool := decide (1 ≤ op ∧ op ≤ 0x0E)

/-- INFO of a packet's PKTBAD (R392). -/
def pktInfo (cause : Nat) (x : SubQ) (b : BitVec 512) : BitVec 128 :=
  put 128 0 8 cause ||| put 128 8 8 (pktOp b) ||| put 128 16 16 x.num.toNat ||| put 128 32 32 (pktTag b).toNat |||
  put 128 64 64 x.sqhead.toNat
/-- INFO of an EMPTYAFF (R392). -/
def emptyInfo (aff : Word) (cls : Nat) (x : SubQ) (b : BitVec 512) : BitVec 128 :=
  put 128 0 64 aff.toNat ||| put 128 64 8 cls ||| put 128 72 8 (pktOp b) ||| put 128 80 16 x.num.toNat |||
  put 128 96 32 (pktTag b).toNat

/-- Why a packet is refused: a PKTBAD cause; an image check (R369) or an EMPTYAFF, with the graph's job and the node. -/
inductive Refuse where
  | cause (n : Nat)
  | image (check index : Nat) (job : BitVec 32) (node : BitVec 16)
  | empty (aff : Word) (cls : Nat) (job : BitVec 32) (node : BitVec 16)

/-- The record of a refused packet. -/
def Refuse.record (r : Refuse) (d : BitVec 4) (x : SubQ) (b : BitVec 512) : RecF :=
  match r with
  | .cause n => { kind := 0x83, dom := d, info := pktInfo n x b }
  | .image c i job node =>
    { kind := 0x83, dom := d, job := job, node := node,
      info := setFld (setFld (pktInfo 0x10 x b) 8 8 c) 16 16 i }
  | .empty aff cls job node => { kind := 0x0C, dom := d, job := job, node := node, info := emptyInfo aff cls x b }

/-- What a packet comes to: done with a STATUS and a RESULT; refused; or it waits at the head of its queue. -/
inductive PktEnd where
  | done (status : Nat) (result : Word) (s : State)
  | refuse (r : Refuse)
  /-- Refused after an access of the host's memory. -/
  | refuseIn (r : Refuse) (s : State)
  | wait (s : State)

/-- The queue goes past its head packet. -/
def State.advanceHead (s : State) (d : BitVec 4) (q : BitVec 6) : State :=
  match s.findQ d q with
  | none => s
  | some x =>
    (s.modQ d q fun y => { y with sqhead := y.sqhead + 1, taken := false }).putIdx d x.ctl 0x04 (x.sqhead + 1)

/-- A packet completes (R387, R393): its status entry, unless NOSTAT and it succeeded; then SQHEAD. -/
def State.completePkt (s : State) (d : BitVec 4) (q : BitVec 6) (b : BitVec 512) (status : Nat) (result : Word) : State :=
  let s := if pktNostat b ∧ status = 0 then s else s.putStatus d q (mkStatus (pktTag b) (pktOp b) status result)
  s.advanceHead d q

/-- A refused packet holds its queue with its record (R394). -/
def State.refusePkt (s : State) (d : BitVec 4) (x : SubQ) (b : BitVec 512) (r : Refuse) : State :=
  (s.modQ d x.num fun y => { y with taken := false }).reportHeld d x.num (mkRec (r.record d x b)) (.packet d x.num)
/-- The end of a taken packet. A queue that was ended meanwhile goes with it. -/
def State.endPkt (s : State) (d : BitVec 4) (x : SubQ) (b : BitVec 512) (e : PktEnd) : State :=
  match e with
  | .wait s => s.modQ d x.num fun y => { y with taken := true }
  | .refuse r => s.refusePkt d x b r
  | .refuseIn r s => s.refusePkt d x b r
  | .done status result s =>
    let s := s.completePkt d x.num b status result
    if (s.findQ d x.num).any (·.ending) then s.endQueue d x.num else s

/-- The DEADLINE that ranks a queue's head packet: a launch's, when it carries one (R399). -/
def headDeadline (b : BitVec 512) : Nat := if pktOp b = 3 ∧ pktB b 0x18 8 ≠ 0 then pktB b 0x18 8 else 2 ^ 64

/-- The worker core that serves a queue (R383). -/
def workerOf (q : BitVec 6) : Nat := q.toNat % 6
/-- A worker may take a packet of a queue: one stands there, nothing holds or delays the queue, and its status ring has room
(R387, R399). -/
def State.queueOpen (s : State) (d : BitVec 4) (x : SubQ) : Bool :=
  x.ready && !x.held d && !x.taken && !x.ending && x.stwait.isEmpty && s.stRoom d x
/-- The queues of a domain from which its worker w may take a packet. -/
def State.openQueues (s : State) (d : BitVec 4) (w : Nat) : List SubQ :=
  (s.dom d).queues.filter fun x => workerOf x.num == w && s.queueOpen d x

/-- The queue from which worker w takes: the least PASS under stride, the least DEADLINE under deadline, the lower number
on a tie (R399). -/
def State.nextQueue (s : State) (d : BitVec 4) (w : Nat) : Option SubQ :=
  let key (x : SubQ) : Nat := if (s.dom d).deadlinePol then headDeadline (s.headPkt d x) else x.pass
  (s.openQueues d w).foldl (fun a x =>
    match a with
    | none => some x
    | some y => if key x < key y ∨ (key x = key y ∧ x.num.toNat < y.num.toNat) then some x else some y) none

/-- One quantum of a queue's stride (R397, R399). -/
def State.chargeQueue (s : State) (d : BitVec 4) (x : SubQ) : State :=
  s.modQ d x.num fun y => { y with pass := y.pass + 2 ^ 20 / x.tickets.toNat }

/-- A queue from which its worker may take a packet again takes the least PASS of the other such queues of its worker, if that
is more than its own (R397, R399). -/
def State.queueCatchUp (s : State) (d : BitVec 4) (x : SubQ) : SubQ :=
  let now := s.queueOpen d x
  if now && !x.elig then
    match leastOf (((s.openQueues d (workerOf x.num)).filter fun y => y.num != x.num && y.elig).map (·.pass)) with
    | some p => { x with elig := true, pass := max x.pass p }
    | none => { x with elig := true }
  else { x with elig := now }

/-- A QERR record of a queue that holds it at an index error (R392, R394). -/
def State.qerrIndex (s : State) (d : BitVec 4) (q : BitVec 6) (cause : Nat) : State :=
  s.reportHeld d q (mkRec { kind := 0x84, dom := d, info := put 128 0 16 0xFFFF ||| put 128 16 8 cause ||| put 128 32 16 q.toNat })
    (.index d q)

/-- TAKING A PACKET. The row of a packet's opcode acts when the packet is the one that its worker takes next; an unknown
OP is refused by whatever row meets it, and a ring that the host does not let be read holds its queue (R388, R392, R399). -/
def takePkt (k : Pkt) (op : Nat) (f : SubQ → State → PktEnd) (s : State) : Host.Outcome State Fault Refusal :=
  match s.nextQueue k.dom (workerOf k.queue) with
  | none => .next s
  | some x =>
    if !s.running || x.num != k.queue || s.headPkt k.dom x != k.bits then .next s
    else if pktKnown (pktOp k.bits) && pktOp k.bits != op then .next s
    else
      let (bad, s) := s.hostAnswer k.dom
      if bad then .next (s.qerrIndex k.dom x.num 3)
      else
        let s := s.chargeQueue k.dom x
        .next (s.endPkt k.dom x k.bits (if pktKnown (pktOp k.bits) then f x s else .refuse (.cause 2)))

/-- A packet with its reserved bits checked first: cause 0x01. -/
def takeChecked (k : Pkt) (op : Nat) (zero : List (Nat × Nat)) (f : SubQ → State → PktEnd) (s : State) :
    Host.Outcome State Fault Refusal :=
  takePkt k op (fun x s =>
    if pktHeadBad k.bits || zero.any fun z => fld k.bits z.1 z.2 ≠ 0 then .refuse (.cause 1) else f x s) s

/-! ## The doorbell (R385, R392, R431) -/

/-- The parts of a queue lie in the host window (R429). -/
def State.queueReadable (s : State) (d : BitVec 4) (x : SubQ) : Bool :=
  let w := (s.dom d).hwlen
  decide (x.pkt.toNat + 64 * 2 ^ x.n ≤ w) && decide (x.stat.toNat + 32 * 2 ^ x.n ≤ w) &&
  decide (x.exq.toNat + 64 * 2 ^ x.m ≤ w) && decide (x.ctl.toNat + 64 ≤ w)

/-- The control block is read again: SQTAIL, with a QERR record when it or the rings cannot be read or it stands more than
the ring ahead. A queue that is held reads it when it is released. -/
def State.readIndex (s : State) (d : BitVec 4) (q : BitVec 6) : State :=
  let s := s.drainStatus d q
  match s.findQ d q with
  | none => s
  | some x =>
    if x.held d then s.modQ d q fun y => { y with bell := true }
    else
      let s := s.modQ d q fun y => { y with bell := false }
      if !s.queueReadable d x then s.qerrIndex d q 3
      else
        let t := s.getIdx d x.ctl 0x00
        let (bad, s) := s.hostAnswer d
        if bad then s.qerrIndex d q 3
        else if 2 ^ x.n < (t - x.sqhead).toNat then s.qerrIndex d q 2
        else s.modQ d q fun y => { y with sqtail := t }

/-- A queue that is released looks at a doorbell that came meanwhile (R394, R431). -/
def State.released (s : State) (d : BitVec 4) (q : BitVec 6) : State :=
  if (s.findQ d q).any (·.bell) then s.readIndex d q else s

/-- The workers look at every queue: status entries that wait, and the queues that may be served again (R385, R397). -/
def State.refreshQueues (s : State) (d : BitVec 4) : State :=
  let s := ((s.dom d).queues.filter fun x => !x.stwait.isEmpty).foldl (fun s x => s.drainStatus d x.num) s
  match (s.dom d).queues with
  | [] => s
  | qs => s.modDom d fun x => { x with queues := qs.map (s.queueCatchUp d) }

/-- DOORBELL (R431): ignored for a queue that does not exist. -/
def execDoorbell (d : BitVec 4) (q : BitVec 6) (s : State) : Host.Outcome State Fault Refusal :=
  if s.running then .next (s.readIndex d q) else .next s

/-! ## Creating and ending queues (R386, R388) -/

/-- A new queue; the device's counts start at 0. -/
def newQueue (q : BitVec 6) (n m : Nat) (pkt stat exq ctl : Word) (tickets : BitVec 16) : SubQ :=
  { num := q, n := n, m := m, pkt := pkt, stat := stat, exq := exq, ctl := ctl, tickets := tickets }

/-- QNEW (R386, R388), on queue 0. The spec names no cause for an operand out of its range or a queue that exists:
0x06 for those, 0x05 for a misaligned offset (log entry 24). -/
def execQnew (k : Pkt) (s : State) : Host.Outcome State Fault Refusal :=
  takePkt k 0x0D (fun x s =>
    let b := k.bits
    let page := bitAt b 70
    let q : BitVec 6 := fldv b 64 6
    let n := fld b 72 4 + 4
    let m := fld b 76 4 + 4
    let pkt : Word := fldv b 128 64
    let stat : Word := fldv b 192 64
    let exq : Word := fldv b 256 64
    let ctl : Word := fldv b 320 64
    if x.num ≠ 0 then .refuse (.cause 2)
    else if pktHeadBad b || [(71, 1), (80, 48), (400, 112)].any fun z => fld b z.1 z.2 ≠ 0 then .refuse (.cause 1)
    else if 16 < n ∨ 16 < m then .refuse (.cause 6)
    else if page then
      if (s.dom k.dom).pageq.isSome then .refuse (.cause 6)
      else if exq.toNat % 16 ≠ 0 ∨ ctl.toNat % 64 ≠ 0 then .refuse (.cause 5)
      else .done 0 0 (s.modDom k.dom fun y => { y with pageq := some { num := q, n := m, ring := exq, ctl := ctl } })
    else if fld b 384 16 = 0 ∨ (s.findQ k.dom q).isSome then .refuse (.cause 6)
    else if pkt.toNat % 64 ≠ 0 ∨ stat.toNat % 32 ≠ 0 ∨ exq.toNat % 64 ≠ 0 ∨ ctl.toNat % 64 ≠ 0 then .refuse (.cause 5)
    else .done 0 0 (s.modDom k.dom fun y => { y with
      queues := y.queues ++ [newQueue q n m pkt stat exq ctl (fldv b 384 16)] })) s

/-- QEND (R388), on queue 0: the queue ends once its taken packets complete. Without such a queue it is refused with
cause 0x06 (log entry 24). -/
def execQend (k : Pkt) (s : State) : Host.Outcome State Fault Refusal :=
  takePkt k 0x0E (fun x s =>
    let q : BitVec 6 := fldv k.bits 64 6
    if x.num ≠ 0 then .refuse (.cause 2)
    else if pktHeadBad k.bits || fld k.bits 70 442 ≠ 0 then .refuse (.cause 1)
    else match s.findQ k.dom q with
      | none =>
        if ((s.dom k.dom).pageq.any fun p => p.num == q) then .done 0 0 (s.modDom k.dom fun y => { y with pageq := none })
        else .refuse (.cause 6)
      | some y =>
        if y.taken || q == x.num then .done 0 0 (s.modQ k.dom q fun z => { z with ending := true })
        else .done 0 0 (s.endQueue k.dom q)) s

end Sys2Proof.Machine
end

