-- ==== Sys2Proof/Machine/Firmware.lean ====
section
/-! DEFINITION. The packets of the firmware: graphs (R64-R67, R28, R369, R388), launches (R71, R390, R391), blocks, buffers,
exports, page tables, counters (R388, R389), answers (R394). -/

namespace Sys2Proof.Machine
open Sys2Proof

/-! ## The instruction subset of the firmware cores (R383) -/

/-- A firmware core runs an instruction of this layout and opcode. -/
def firmwareRuns (sh : Shape) : Bool :=
  let wide (op : Nat) : Bool :=
    decide ((0x01 ≤ op ∧ op ≤ 0x28) ∨ (0x2C ≤ op ∧ op ≤ 0x2F) ∨ (0x60 ≤ op ∧ op ≤ 0x63)) ||
      [0x40, 0x41, 0x68, 0x73, 0x78, 0x79].contains op
  match sh with
  | .w32 op _ => decide (0x01 ≤ op.toNat ∧ op.toNat ≤ 0x34)
  | .xr op _ => wide op.toNat
  | .xi op _ => wide op.toNat
  | .xm op _ => wide op.toNat
  | .xb op _ => wide op.toNat
  | .xe op _ => wide op.toNat
  | .c16 _ => false
  | .bad _ _ => false
  | .event => false
/-- The kind that an instruction raises inside the complex: ILLOP for an opcode outside the subset. -/
def firmwareKind (i : Instr) : Option (BitVec 8) := if firmwareRuns (shape i) then none else some 0x01
/-- A firmware core issues an instruction word: ILLOP is raised inside the complex for an opcode outside the subset. -/
noncomputable def State.firmwareIssues (s : State) (k : Fin 7) (w : BitVec 64) : State :=
  if (firmwareKind (decodeWord w).1).isSome then { s with pkg := { s.pkg with fwIllop := s.pkg.fwIllop ||| bitTo 7 k.val true } } else s

/-! ## Graph records (R64-R67) -/

/-- The fallback class of a class (R27); 0 for none. -/
def fallbackOf (cls : Nat) : Nat :=
  match cls with
  | 1 => 2
  | 2 => 1
  | 4 => 3
  | _ => 0

/-- A record of `n` bits at a place in bytes. -/
def recAt (n : Nat) (bs : List Byte) (o : Nat) : BitVec n := ofBytes n ((bs.drop o).take (n / 8))

def nNin (n : BitVec 512) : Nat := fld n 48 3
def nNout (n : BitVec 512) : Nat := fld n 52 3
def nInEdge (n : BitVec 512) (k : Nat) : Nat := fld n (224 + 16 * k) 16
def nOutEdge (n : BitVec 512) (k : Nat) : Nat := fld n (288 + 16 * k) 16

/-- A node record by itself (R27, R66). -/
def nodeOk (i : Nat) (n : BitVec 512) : Bool :=
  let cls := fld n 32 4
  let fb := fld n 36 4
  clear n [(42, 6), (51, 1), (55, 9), (204, 20), (352, 160)] && fld n 0 16 == i &&
  [1, 2, 3, 4, 7].contains cls && (fb == 0 || (fb == fallbackOf cls && fallbackOf cls != 0)) &&
  decide (nNin n ≤ 4) && decide (nNout n ≤ 4) && fld n 128 32 != 0 && ((fb == 0) == (fld n 160 32 == 0)) &&
  (upTo 4).all fun k => (decide (k < nNin n) || nInEdge n k == 0xFFFF) && (decide (k < nNout n) || nOutEdge n k == 0xFFFF)

def eSrc (e : BitVec 256) : Nat := fld e 16 16
def eDst (e : BitVec 256) : Nat := fld e 32 16
/-- The ring of an edge record, as a range of the carve. -/
def eRing (e : BitVec 256) : Range := { lo := fld e 64 60, len := 64 * 2 ^ fld e 52 5 }

/-- An edge record by itself (R67). -/
def edgeOk (nn carve i : Nat) (e : BitVec 256) : Bool :=
  clear e [(57, 7), (128, 128)] && fld e 0 16 == i && decide (eDst e < nn) && (eSrc e == 0xFFFF || decide (eSrc e < nn)) &&
  (eSrc e != 0xFFFF || fld e 48 2 == 0) && decide (1 ≤ fld e 52 5 ∧ fld e 52 5 ≤ 16) && fld e 124 4 == 1 &&
  fld e 64 6 == 0 && decide ((eRing e).lo + (eRing e).len ≤ carve)

/-- The ports of a node name edges that name them back (R67). -/
def portsOk (es : List (BitVec 256)) (n : BitVec 512) : Bool :=
  (upTo (nNin n)).all (fun k => match es[nInEdge n k]? with
    | some e => eDst e == fld n 0 16 && fld e 50 2 == k
    | none => false) &&
  (upTo (nNout n)).all fun k => match es[nOutEdge n k]? with
    | some e => eSrc e == fld n 0 16 && fld e 48 2 == k
    | none => false

/-- How many input or output ports of a graph name an edge. -/
def named (ns : List (BitVec 512)) (out : Bool) (i : Nat) : Nat :=
  ((ns.map fun n => if out then (upTo (nNout n)).map (nOutEdge n) else (upTo (nNin n)).map (nInEdge n)).flatten.filter
    (· == i)).length

/-- Rings of the graphs that a domain has loaded. -/
def Dom.rings (x : Dom) : List Range :=
  (x.graphs.map fun g => g.edges.map fun e => { lo := e.ring.toNat, len := 64 * e.depth : Range }).flatten

/-- Edges of all loaded graphs of the package. -/
def State.edgeCount (s : State) : Nat :=
  ((upTo 16).map fun d => ((s.dom (BitVec.ofNat 4 d)).graphs.map fun g => g.edges.length).sum).sum

/-- A graph as its records give it, when every check of R64 to R67 passes; a graph number that the domain has loaded
already is turned away with them (log entry 25). No rule keeps records apart from one another and from the header: ones
that share bytes are accepted (log entry 51). -/
def State.parseGraph (s : State) (d : BitVec 4) (q : BitVec 6) (code : BitVec 52) (bs : List Byte) : Option Graph :=
  let h := recAt 512 bs 0
  let nn := fld h 64 16
  let ne := fld h 80 16
  let no := fld h 96 32
  let eo := fld h 128 32
  if bs.length < 64 ∨ fld h 160 352 ≠ 0 ∨ nn = 0 ∨ 1024 < nn ∨ ne = 0 ∨ 4096 < ne ∨ no % 64 ≠ 0 ∨ eo % 32 ≠ 0 ∨
      bs.length < no + 64 * nn ∨ bs.length < eo + 32 * ne then none
  else
    let ns := (upTo nn).map fun i => recAt 512 bs (no + 64 * i)
    let es := (upTo ne).map fun i => recAt 256 bs (eo + 32 * i)
    let x := s.dom d
    let rings := es.map eRing
    if (x.graphs.any fun g => g.id == fldv h 0 32) || 16384 < s.edgeCount + ne ||
        !((ns.zip (upTo nn)).all fun p => nodeOk p.2 p.1) ||
        !((es.zip (upTo ne)).all fun p => edgeOk nn x.carveLen p.2 p.1) || !(ns.all (portsOk es)) ||
        !((es.zip (upTo ne)).all fun p => named ns false p.2 == 1 && named ns true p.2 == (if eSrc p.1 = 0xFFFF then 0 else 1)) ||
        !(apart (x.rings ++ rings)) then none
    else
      some { id := fldv h 0 32, job := fldv h 32 32, queue := q, code := code, nodes := ns
             edges := es.map fun e =>
               { num := fldv e 0 16, src := fldv e 16 16, dst := fldv e 32 16, log2d := fld e 52 5, ring := fldv e 64 60 } }

/-! ## Placement (R28) and binding (R369, R371, R395) -/

/-- What becomes of a node at bind: refused, or bound on sockets of a class. -/
inductive Placed where
  | bad
  | none
  | on (cls : Nat) (socks : List Nat)

/-- The placement of a node (R28). -/
def State.place (s : State) (d : BitVec 4) (n : BitVec 512) : Placed :=
  let cls := fld n 32 4
  let fb := if bitAt n 40 && fld n 36 4 ≠ 0 then fld n 36 4 else 0
  let allowed (c : Nat) : Bool := c == cls || (fb != 0 && c == fb)
  let aff := fld n 64 64
  let cand := (upTo 64).filter fun k => if aff = 0 then allowed (designMap.getD k 0) else bitAt n (64 + k)
  if !(cand.all fun k => allowed (designMap.getD k 0)) then .bad
  else
    let eligible (c : Nat) : List Nat := cand.filter fun k => designMap.getD k 0 == c && !(s.usableCores d k).isEmpty
    match eligible cls with
    | [] => if fb = 0 then .none else match eligible fb with
      | [] => .none
      | l => .on fb l
    | l => .on cls l

/-- The partitions of cores, in ascending row. -/
def partsOf (sock : Nat) (cores : List (BitVec 4)) : List Loc :=
  (cores.map fun c => (upTo 8).map fun p => ({ sock := BitVec.ofNat 6 sock, core := c, part := BitVec.ofNat 3 p } : Loc)).flatten

/-- The lowest free position of a row. -/
def State.freePos (s : State) (row : Nat) : Option Nat :=
  (upTo 4).find? fun k => !(s.binds.any fun b => b.row == row && b.pos.toNat == k)

/-- Bind one owner context: its image loaded, its record written, its context ready to be dispatched (R36, R371, R395,
R396). None when the partition has no free position. -/
def State.bindOwner (s : State) (d : BitVec 4) (x : SubQ) (k : Kern) (b : Bind) (fb : Bool) (l : Loc) : Option State :=
  match s.freePos (rowOf l) with
  | none => none
  | some pos =>
    let id : CtxId := { loc := l, pos := BitVec.ofNat 2 pos, harv := false }
    let cstep := (s.pkg.pop.get l.sock.toFin).cstep
    let s := s.loadKern k b id
    let s := s.putCtx { startCtx id b with cst := .parked, was := .run }
    let r : BindRec :=
      { row := rowOf l, pos := BitVec.ofNat 2 pos, fb := fb, unm := k.stamp == 0 || k.stamp != lclassOf k.cls cstep
        crit := b.crit, res := false, dom := d, pol := if (s.dom d).deadlinePol then 1 else 0, node := b.node, job := b.job
        graph := b.graph, body := b.body, code := b.code.zeroExtend 64, tickets := x.tickets, pass := 0, elig := false }
    some (({ s with binds := s.binds ++ [r] }).fill (rowOf l))

/-- Bind contexts in partitions one after another. -/
def bindAll (d : BitVec 4) (x : SubQ) (k : Kern) (b : Bind) (fb : Bool) : List Loc → State → Option State
  | [], s => some s
  | l :: rest, s => match s.bindOwner d x k b fb l with
    | none => none
    | some s => bindAll d x k b fb rest s

/-- The kernel header at a place says that its image is a harvest kernel (R366, R413). -/
def State.kernHarv (s : State) (d : BitVec 4) (code off : Nat) : Bool :=
  (s.vaBytes d (code + off) 128).any fun bs => bitAt (ofBytes 1024 bs) 20

/-- The first check that a bind fails on the cores where it stands, among the image's own and those against the cores'
other owner kernels. -/
def State.bindFails (s : State) (k : Kern) (b : Bind) (off cls : Nat) (cores : List (BitVec 6 × BitVec 4)) : Option Nat :=
  leastOf (k.fails off cls ++
    (cores.map fun c => ((s.boundOn c.1 c.2).filter fun o => !o.id.harv).map fun o => b.clashes o.bnd).flatten.flatten)

/-- The cores of a list of partitions. -/
def coresOf (ls : List Loc) : List (BitVec 6 × BitVec 4) := dedup (ls.map fun l => (l.sock, l.core))
/-- Bind one node of a graph that is already among the domain's (R28, R369); a harvest node, whose affinity is checked in the same
way, is placed instead (R413). -/
def State.bindNode (s : State) (d : BitVec 4) (x : SubQ) (g : Graph) (n : BitVec 512) : Except Refuse State :=
  let node : BitVec 16 := fldv n 0 16
  let body : BitVec 32 := fldv n 128 32
  match s.place d n, s.kernHarv d g.code.toNat body.toNat with
    | .bad, _ => .error (.cause 7)
    | .on _ _, true => .ok s
    | .none, _ => .error (.empty (fldv n 64 64) (fld n 32 4) g.job node)
    | .on cls socks, false =>
      let fb := cls != fld n 32 4
      let off : BitVec 32 := if fb then fldv n 160 32 else body
      match s.readKern d g.code.toNat off.toNat with
      | .error i => .error (.image 1 i g.job node)
      | .ok k =>
        let b := k.bind d g.id g.job g.code off n
        let (tmpl, s) := s.tmplCaps d b.tmpl
        let b := { b with tmpl := tmpl }
        let ls := (socks.map fun k => partsOf k (s.usableCores d k)).flatten
        let ls := if fld n 192 12 = 0 then ls else ls.take (fld n 192 12)
        match s.bindFails k b off.toNat cls (coresOf ls) with
        | some c => .error (.image c k.index g.job node)
        | none =>
          match bindAll d x k b fb ls (s.templateRefs b true) with
          | none => .error (.cause 7)
          | some s => .ok s

/-- Bind the nodes one after another. -/
def bindNodes (d : BitVec 4) (x : SubQ) (g : Graph) : List (BitVec 512) → State → Except Refuse State
  | [], s => .ok s
  | n :: rest, s => match s.bindNode d x g n with
    | .error r => .error r
    | .ok s => bindNodes d x g rest s

/-- The record of a harvest image that fails a check (R369, R413). -/
def Graph.harvRec (g : Graph) (d : BitVec 4) (n : BitVec 512) (check index : Nat) : BitVec 512 :=
  mkRec { kind := 0x83, dom := d, job := g.job, node := fldv n 0 16
          info := put 128 0 8 0x10 ||| put 128 8 8 check ||| put 128 16 16 index }
/-- The harvest placements of a node at bind (R413): every bank in ascending order; an image that fails is reported once
and placed nowhere. -/
def State.placeNode (s : State) (d : BitVec 4) (q : BitVec 6) (g : Graph) (n : BitVec 512) : State :=
  let off := fld n 128 32
  if !s.kernHarv d g.code.toNat off then s
  else match s.readKern d g.code.toNat off with
    | .error i => s.report d q (g.harvRec d n 1 i)
    | .ok k => match k.fails off (fld n 32 4) with
      | c :: _ => s.report d q (g.harvRec d n c k.index)
      | [] =>
        let banks := ((upTo 64).map fun k => partsOf k ((upTo 16).map (BitVec.ofNat 4))).flatten
        banks.foldl (fun s l => s.tryPlace d g n l) s

/-- GLOAD (R388): the graph and its images checked, every node bound, harvest nodes placed; RESULT is GRAPH. A refusal
changes nothing. A graph that cannot be read, or a code object beyond 2^52, is refused with cause 0x05 (log entry 25). -/
def execGload (k : Pkt) (s : State) : Host.Outcome State Fault Refusal :=
  takeChecked k 0x01 [(224, 288)] (fun x s =>
    let d := k.dom
    let s0 := s.mergeAll
    match if pktB k.bits 0x10 8 < 2 ^ 52 then s0.vaBytes d (pktB k.bits 0x08 8) (pktB k.bits 0x18 4) else none with
    | none => .refuse (.cause 5)
    | some bs => match s0.parseGraph d x.num (fldv k.bits 128 52) bs with
      | none => .refuse (.cause 7)
      | some g =>
        match bindNodes d x g g.nodes (s0.modDom d fun y => { y with graphs := y.graphs ++ [g] }) with
        | .error r => .refuse r
        | .ok s => .done 0 (g.id.zeroExtend 64) (g.nodes.foldl (fun s n => s.placeNode d x.num g n) s)) s

/-! ## Unloading (R388) -/

/-- The capabilities of the records left in an edge's ring are dropped. -/
def State.dropRing (s : State) (d : BitVec 4) (e : Edge) : State :=
  ((upTo e.slots.length).zip e.slots).foldl (init := s) fun s p =>
    if p.2 = .published then
      let r := s.slotRec d e p.1
      (upTo (recNcap r)).foldl (fun s n => s.decRef d (recCap r n)) s
    else s

/-- The contexts that gang switches have saved. -/
def State.saves (s : State) : List Ctx := (s.gangs.map (·.ctxs)).flatten
/-- A graph is unloaded: its contexts go to IDLE, those that a gang switch has saved too, its rings are emptied. -/
def State.unload (s : State) (d : BitVec 4) (g : BitVec 32) : State :=
  let ids := (s.ctxs.filter fun c => s.isBound c && c.bnd.dom == d && c.bnd.graph == g).map (·.id)
  let s := ids.foldl State.idle s
  let s := (s.saves.filter fun c => c.bnd.dom == d && c.bnd.graph == g).foldl State.idleSaved s
  let s := match s.graph d g with
    | none => s
    | some x => x.edges.foldl (fun s e => s.dropRing d e) s
  s.modDom d fun x => { x with graphs := x.graphs.filter fun y => y.id ≠ g }

/-- GUNLOAD (R388). -/
def execGunload (k : Pkt) (s : State) : Host.Outcome State Fault Refusal :=
  takeChecked k 0x02 [(96, 416)] (fun _ s =>
    let g : BitVec 32 := fldv k.bits 64 32
    match s.graph k.dom g with
    | none => .refuse (.cause 3)
    | some _ => .done 0 0 (s.unload k.dom g)) s

/-! ## Launches (R71, R390, R391) -/

def lnGraph (b : BitVec 512) : BitVec 32 := fldv b 64 32
def lnEdge (b : BitVec 512) : BitVec 16 := fldv b 96 16
def lnK (b : BitVec 512) : Nat := if fld b 112 16 = 0 then 65536 else fld b 112 16
def lnPtr (b : BitVec 512) : Nat := fld b 128 64
def lnDljcb (b : BitVec 512) : BitVec 16 := fldv b 256 16

/-- Record n of a launch. -/
def State.launchRec (s : State) (d : BitVec 4) (b : BitVec 512) (n : Nat) : BitVec 512 :=
  ofBytes 512 (s.hostBytes d (lnPtr b + 64 * n) 64)

/-- The records that an edge holds, published or popped and held. -/
def State.edgeRecs (s : State) (d : BitVec 4) (e : Edge) : List (BitVec 512) :=
  ((e.slots.zip (upTo e.slots.length)).filter fun x => x.1 != .reserved && x.1 != .behind).map fun x =>
    ofBytes 512 (s.carveBytes d (e.slotAddr x.2) 64)
/-- The domain holds an import of a capability (R81): some context has it loaded or its template names it, or a gang switch has saved
one of which that holds, or a record on an edge carries it. -/
def State.holdsImport (s : State) (d : BitVec 4) (c : BitVec 128) : Bool :=
  let same (x : BitVec 128) : Bool :=
    capImp x && capName x == capName c && capGen x == capGen c && capPeer x == capPeer c
  ((s.ctxs ++ s.saves).any fun k => k.bnd.dom == d &&
    ((k.table.any fun e => e.2.any fun x => same x.cap) || k.bnd.tmpl.any fun e => same e.2)) ||
  (s.dom d).graphs.any fun g => g.edges.any fun e => (s.edgeRecs d e).any fun r =>
    (upTo (recNcap r)).any fun i => same (recCap r i)

/-- A carried capability is one that a launch may bring (R391): its reserved bits are zero, and PEER without IMP (R80). -/
def State.launchCap (s : State) (d : BitVec 4) (c : BitVec 128) : Bool :=
  clear c [(55, 1), (58, 6)] && !capStale c &&
  if capImp c then s.holdsImport d c
  else fld c 116 12 == 0 && match (s.dom d).regOf (capName c) with
    | some e => e.live && e.gen == capGen c && decide ((capLimit c).toNat ≤ e.limit.toNat)
    | none => false

/-- A live block of a domain. -/
def State.liveJcb (s : State) (d : BitVec 4) (b : BitVec 12) : Bool := (s.jcb b).any fun j => j.dom == d

/-- A record obeys R74 (R391). -/
def State.launchRecOk (s : State) (d : BitVec 4) (r : BitVec 512) : Bool :=
  !recReserved r && (!recJcbv r || s.liveJcb d (recJcb r)) && (upTo (recNcap r)).all fun n => s.launchCap d (recCap r n)

/-- The sockets that hold a bound context of a node (R391), on a core that has not failed (R444). -/
def State.effective (s : State) (d : BitVec 4) (g : BitVec 32) (n : BitVec 16) : List Nat :=
  dedup ((s.nodeCtxs d g n).filter (fun c => c.cst != .idle && (s.coreAt c.id.loc.sock c.id.loc.core).any (·.live)) |>.map
    fun c => c.id.loc.sock.toNat)

/-- The checks of a launch, in order (R391); `lost`: the host does not let its records be read. -/
def State.launchBad (s : State) (d : BitVec 4) (b : BitVec 512) (lost : Bool) : Option Refuse :=
  match s.graph d (lnGraph b) with
  | none => some (.cause 3)
  | some g => match g.edges.find? fun e => e.num == lnEdge b with
    | none => some (.cause 4)
    | some e =>
      if e.src ≠ 0xFFFF ∨ e.depth < lnK b then some (.cause 4)
      else if lnPtr b % 64 ≠ 0 ∨ (s.dom d).hwlen < lnPtr b + 64 * lnK b ∨ lost then some (.cause 5)
      else if !((upTo (lnK b)).all fun n => s.launchRecOk d (s.launchRec d b n)) then some (.cause 6)
      else if (lnDljcb b).getLsbD 15 && !s.liveJcb d (fldv (lnDljcb b) 0 12) then some (.cause 6)
      else if (s.effective d g.id e.dst).isEmpty then
        let n := (g.nodes.find? fun n => (fldv n 0 16 : BitVec 16) == e.dst).getD 0
        some (.empty (fldv n 64 64) (fld n 32 4) g.job e.dst)
      else none

/-- The edge of a launch has room for its records. -/
def State.launchRoom (s : State) (d : BitVec 4) (b : BitVec 512) : Bool :=
  match s.edge d { graph := lnGraph b, num := lnEdge b } with
  | some e => decide (lnK b ≤ e.free)
  | none => false

/-- What is known of a launch that has passed its checks (R398); `none` while it waits for room. -/
def launchOf (x : SubQ) (b : BitVec 512) (upto : Option Nat) : Launch :=
  { graph := lnGraph b, edge := lnEdge b, k := lnK b, deadline := fldv b 192 64, dljcb := lnDljcb b, queue := x.num
    tag := pktTag b, upto := upto.getD 0, waits := upto.isNone }
/-- The records of a launch are appended in order, each carried capability counted as it is published (R71, R81); when all have
been popped is known from then on (R398). -/
def State.appendLaunch (s : State) (d : BitVec 4) (x : SubQ) (b : BitVec 512) : State :=
  let e : EdgeId := { graph := lnGraph b, num := lnEdge b }
  let before := match s.edge d e with
    | some y => y.popped + fillOf y.slots
    | none => 0
  let s := (upTo (lnK b)).foldl (init := s) fun s n =>
    let r := s.launchRec d b n
    let s := (upTo (recNcap r)).foldl (fun s i => s.incRef d (recCap r i)) s
    s.pushEdge d e r
  let l := launchOf x b (some (before + lnK b))
  s.modGraph d (lnGraph b) fun g =>
    let w := g.launches.find? fun y => y.waits && y.queue == x.num
    { g with launches := (g.launches.filter fun y => !(y.waits && y.queue == x.num)) ++
        [{ l with missed := (w.map (·.missed)).getD false, done := (w.map (·.done)).getD false }] }

/-- The checks up to the reading of the records pass: the host is asked for them. -/
def State.launchReads (s : State) (d : BitVec 4) (b : BitVec 512) : Bool :=
  match s.launchBad d b true with
  | some (.cause 5) => decide (lnPtr b % 64 = 0 ∧ lnPtr b + 64 * lnK b ≤ (s.dom d).hwlen)
  | _ => false
/-- A launch checked, then appended or left waiting for its edge. -/
def launchEnd (k : Pkt) (x : SubQ) (s : State) : PktEnd :=
  let (lost, s) := if s.launchReads k.dom k.bits then s.hostAnswer k.dom else (false, s)
  match s.launchBad k.dom k.bits lost with
  | some r => .refuseIn r s
  | none =>
    if s.launchRoom k.dom k.bits then .done 0 0 (s.appendLaunch k.dom x k.bits)
    else .wait (s.modGraph k.dom (lnGraph k.bits) fun g => { g with launches := g.launches ++ [launchOf x k.bits none] })

/-- LAUNCH (R391). -/
def execLaunch (k : Pkt) (s : State) : Host.Outcome State Fault Refusal :=
  takeChecked k 0x03 [(268, 3), (272, 240)] (launchEnd k) s

/-- LAUNCH_APPEND (R71, R391): the launch that waits at the head of a queue, its checks passed, is appended once FREE reaches
K. -/
def execLaunchAppend (d : BitVec 4) (q : BitVec 6) (s : State) : Host.Outcome State Fault Refusal :=
  match s.findQ d q with
  | none => .next s
  | some x =>
    let b := s.headPkt d x
    if s.running && x.taken && pktOp b == 3 && s.launchRoom d b then
      .next (s.endPkt d x b (.done 0 0 (s.appendLaunch d x b)))
    else .next s

/-- Every context that a gang switch has saved, changed by one function (R405). -/
def State.mapSaved (s : State) (f : Ctx → Ctx) : State :=
  let g1 (g : Gang) : Gang := { g with ctxs := g.ctxs.map f }
  { s with gangs := s.gangs.map g1 }

/-! ## Blocks (R76, R78, R388) -/

/-- JCBNEW (R78, R388): the lowest free block; one created with E = 0 is complete at once. With none free the packet is
refused with cause 0x06 (log entry 25). -/
def execJcbnew (k : Pkt) (s : State) : Host.Outcome State Fault Refusal :=
  takeChecked k 0x04 [(112, 16), (224, 288)] (fun x s =>
    match (upTo 4096).find? fun b => (s.jcb (BitVec.ofNat 12 b)).isNone with
    | none => .refuse (.cause 6)
    | some b =>
      let j : Jcb := { expect := fldv k.bits 64 48, count := 0, job := fldv k.bits 192 32, dom := k.dom, done := false
                       donegts := 0, wake := fldv k.bits 128 64, queue := x.num }
      let s := s.setJcb (BitVec.ofNat 12 b) (some j)
      let s := if j.expect = 0 then s.jcbDone (BitVec.ofNat 12 b) j else s
      .done 0 (BitVec.ofNat 64 b) s) s

/-- A task that holds a block holds none. -/
def Task.forgetJcb (b : BitVec 12) (t : Task) : Task := if t.jcb = some b then { t with jcb := none } else t
/-- Every task that holds a block holds none from then on, in its checkpoints as well, and its end makes no post. -/
def Ctx.forgetJcb (b : BitVec 12) (c : Ctx) : Ctx :=
  { c with
    task := c.task.map (Task.forgetJcb b)
    ends := c.ends.filter fun e => e != .auto b
    rgns := c.rgns.map fun r => { r with chk := { r.chk with task := r.chk.task.map (Task.forgetJcb b) } } }

/-- JCBFREE (R388). A block that is not live in the domain is refused with cause 0x06; a launch that counted on it counts
as complete (log entry 25). -/
def execJcbfree (k : Pkt) (s : State) : Host.Outcome State Fault Refusal :=
  takeChecked k 0x05 [(76, 436)] (fun _ s =>
    let b : BitVec 12 := fldv k.bits 64 12
    if !s.liveJcb k.dom b then .refuse (.cause 6)
    else
      let hit (l : Launch) : Bool := l.dljcb.getLsbD 15 && (fldv l.dljcb 0 12 : BitVec 12) == b
      let close (g : Graph) : Graph := { g with launches := g.launches.map fun l => if hit l then { l with done := true } else l }
      let s := ((s.setJcb b none).mapCtxs (Ctx.forgetJcb b)).mapSaved (Ctx.forgetJcb b)
      .done 0 0 (s.modDom k.dom fun x => { x with graphs := x.graphs.map close })) s

/-! ## Buffers and exports (R79-R82, R256, R389) -/

/-- The lowest index of a home's partition that is neither live nor retired. -/
def Dom.freeIndex (x : Dom) (home : BitVec 6) : Option Nat :=
  let mine := x.reg.filter fun e => (fldv e.name 0 6 : BitVec 6) == home
  let i := ((upTo (mine.length + 1)).find? fun i =>
    !(mine.any fun e => fld e.name 6 26 == i && (e.live || e.retired))).getD mine.length
  if i < 2 ^ 26 then some i else none

/-- BUFNEW (R79, R389): the checks in their order; RESULT is NAME and GEN. -/
def execBufnew (k : Pkt) (s : State) : Host.Outcome State Fault Refusal :=
  takeChecked k 0x06 [(198, 314)] (fun _ s =>
    let limit := pktB k.bits 0x08 8
    let vbase := pktB k.bits 0x10 8
    let home : BitVec 6 := fldv k.bits 192 6
    if vbase % 65536 ≠ 0 ∨ 2 ^ 52 ≤ limit ∨ 2 ^ 52 ≤ vbase + limit ∨ !(s.present home && classOf home == 5) then .refuse (.cause 6)
    else match (s.dom k.dom).freeIndex home with
      | none => .refuse (.cause 6)
      | some i =>
        let name : BitVec 32 := BitVec.ofNat 32 (home.toNat + 64 * i)
        let gen : BitVec 16 := match (s.dom k.dom).regOf name with
          | some e => e.gen
          | none => 1
        let e : RegEnt := { name := name, gen := gen, live := true, retired := false, refcnt := 1
                            limit := BitVec.ofNat 52 limit, vbase := BitVec.ofNat 64 vbase, rtref := true }
        .done 0 (put 64 0 32 name.toNat ||| put 64 32 16 gen.toNat) (s.modDom k.dom fun x => { x with
          reg := e :: x.reg.filter fun y => y.name ≠ name })) s

/-- BUFREL by its bit 0; the spec names no cause for a name that is not live, or a runtime reference that is gone: 0x06
(log entry 25). -/
def takeBufrel (k : Pkt) (revoke : Bool) (f : RegEnt → State → PktEnd) (s : State) : Host.Outcome State Fault Refusal :=
  if bitAt k.bits 96 != revoke then .next s
  else takeChecked k 0x07 [(97, 415)] (fun _ s =>
    match (s.dom k.dom).regOf (fldv k.bits 64 32) with
    | none => .refuse (.cause 6)
    | some e => if e.live then f e s else .refuse (.cause 6)) s

/-- BUFREL_DROP (R81, R388): the runtime reference is dropped. -/
def execBufrelDrop (k : Pkt) (s : State) : Host.Outcome State Fault Refusal :=
  takeBufrel k false (fun e s =>
    if !e.rtref then .refuse (.cause 6)
    else .done 0 0 (s.modReg k.dom e.name e.gen fun y => ({ y with rtref := false } : RegEnt).dec)) s

/-- A capability of a revoked buffer. -/
def capOf (name : BitVec 32) (c : BitVec 128) : Bool := !capImp c && capName c == name
/-- STALE is marked in every loaded slot and template slot of a context that holds a name, and in the slots that a restart would
put back (R58, R82, R83). -/
def Ctx.markStale (d : BitVec 4) (name : BitVec 32) (c : Ctx) : Ctx :=
  if c.bnd.dom ≠ d then c
  else
    let mark (x : BitVec 128) : BitVec 128 := if capOf name x then setFld x 57 1 1 else x
    let marked (t : Sparse (Option Slot)) : Sparse (Option Slot) := t.map fun e => (e.1, e.2.map fun x => { x with cap := mark x.cap })
    { c with
      table := marked c.table
      rgns := c.rgns.map fun r => { r with chk := { r.chk with table := marked r.chk.table } }
      bnd := { c.bnd with tmpl := c.bnd.tmpl.map fun e => (e.1, mark e.2) } }

/-- BUFREL_REVOKE (R82): loaded copies become stale and the buffer is freed. -/
def execBufrelRevoke (k : Pkt) (s : State) : Host.Outcome State Fault Refusal :=
  takeBufrel k true (fun e s =>
    let s := s.mapCtxs (Ctx.markStale k.dom e.name)
    let s := s.mapSaved (Ctx.markStale k.dom e.name)
    .done 0 0 (s.modReg k.dom e.name e.gen RegEnt.free)) s

/-- EXPWD (R256, R388): an export that was never imported is withdrawn with its reference. One that is not there is refused
with cause 0x06 (log entry 25). -/
def execExpwd (k : Pkt) (s : State) : Host.Outcome State Fault Refusal :=
  takeChecked k 0x08 [(128, 384)] (fun _ s =>
    match (s.dom k.dom).exps.find? fun e => e.key == fldv k.bits 64 64 && !e.used with
    | none => .refuse (.cause 6)
    | some e =>
      .done 0 0 ((s.modDom k.dom fun x => { x with exps := x.exps.filter fun y => y.key ≠ e.key }).modReg k.dom e.name e.gen
        RegEnt.dec)) s

/-! ## Page tables and counters (R114, R123, R363, R388) -/

/-- A walk of an address reads the entry at a place. -/
def visits (s : State) (va : BitVec 52) (at_ : Nat) (base : Nat) : List (Nat × Nat × Nat) → Bool
  | [] => false
  | (lo, w, _) :: rest =>
    let ea := base + 8 * fld va lo w
    let e := BitVec.ofNat 64 (leNat (Memory.getN s.mem ea 8))
    ea == at_ || (pteV e && !pteLeaf e && visits s va at_ (pteAddr e) rest)

/-- TLB entries that a test selects are invalidated at both levels, their counts added to their shadow words (R114, R123). -/
def State.tlbDrop (s : State) (sel : TlbEnt → Bool) : State :=
  let out := (s.allCores.map fun c => c.tlb.filter sel).flatten
  let s := s.mapCores fun c => { c with tlb := c.tlb.filter fun e => !sel e }
  let s := { s with tlb2 := (s.tlb2.map fun t => (t.1, t.2.filter fun e => !sel e)).filter fun t => !t.2.isEmpty }
  out.foldl (fun s e => s.addShadow e.dom e.leaf.toNat e.acc.toNat e.wr.toNat) s

/-- An address wait of a domain's context on a word whose page is not there any more, or elsewhere, gives its wait slot up and is
made again, in the position that it keeps (R121). -/
def State.remake (s : State) (d : BitVec 4) (x : Seqr) : Seqr :=
  match x.wait with
  | .addr .phys a _ _ _ _ =>
    let there := x.wva.any fun va => match s.walk d va with
      | .ok e => e.pa.toNat + (va.toNat - e.va.toNat) == a
      | _ => false
    if x.woke.isNone && !x.timed && !there then { x with wait := .none } else x
  | _ => x
/-- The firmware sets the tags of frames when it assigns them (R115). The rule does not say when that is: here a leaf entry that
is written may assign the frames from its address on, of a page of one of the sizes of R112, with its LAYOUT for their
tag (log entry 52). -/
def State.assignFrames (s : State) (v : Word) : State :=
  let (n, s) := s.freeNat
  let frames := ((0 :: levels.map fun l => 2 ^ (l.1 - 16)) : List Nat).getD (n % 5) 0
  if pteV v && pteLeaf v && (pteLayout v).toNat < 4 && frames != 0 then
    s.withTags ((upTo frames).foldl (fun m k => sput 0 m (pteAddr v / 65536 + k) (pteLayout v)) s.tags)
  else s

/-- PTESET (R388): the entry is written and no TLB keeps a translation that came through it. An address that is not an
aligned place in memory is refused with cause 0x05 (log entry 25). -/
def execPteset (k : Pkt) (s : State) : Host.Outcome State Fault Refusal :=
  takeChecked k 0x09 [(192, 320)] (fun _ s =>
    let a := pktB k.bits 0x08 8
    if a % 8 ≠ 0 ∨ !s.physOk a 8 then .refuse (.cause 5)
    else
      let s := s.mergeAll
      let s := s.tlbDrop fun e => e.leaf.toNat == a || visits s e.va a (s.dom e.dom).ptroot levels
      let v : Word := fldv k.bits 128 64
      let s := s.writeRun .phys a (toBytes v)
      let s := s.assignFrames v
      .done 0 0 (s.mapCtxs fun c => { c with seqs := c.seqs.map fun _ => s.remake c.bnd.dom })) s

/-- A validation block (R363). -/
def Ctx.block (c : Ctx) : BitVec 512 := (upTo 16).foldl (init := 0) fun r n => r ||| put 512 (32 * n) 32 (vget c.vblk n).toNat

/-- CTRRD (R363, R388): the block of the resident or the harvest context of a partition is written to the host window and
cleared. No such context of the domain is refused with cause 0x06, a destination that is misaligned or beyond the window
with 0x05 (log entry 25). -/
def execCtrrd (k : Pkt) (s : State) : Host.Outcome State Fault Refusal :=
  takeChecked k 0x0A [(78, 50), (192, 320)] (fun _ s =>
    let l : Loc := { sock := fldv k.bits 64 6, core := fldv k.bits 70 4, part := fldv k.bits 74 3 }
    let dst := pktB k.bits 0x10 8
    let c := if bitAt k.bits 77 then s.harvestOf l else (s.residentOf (rowOf l)).bind fun b => s.findCtx b.ctxId
    if dst % 64 ≠ 0 ∨ (s.dom k.dom).hwlen < dst + 64 then .refuse (.cause 5)
    else match c with
      | none => .refuse (.cause 6)
      | some c =>
        if c.bnd.dom ≠ k.dom then .refuse (.cause 6)
        else
          let s := s.writeHost k.dom dst (toBytes c.block)
          .done 0 0 (s.mapCtxs fun x => if x.id = c.id then { x with vblk := Vector.replicate 16 0 } else x)) s

/-! ## Answers (R394) -/

/-- A context after an answer of resume or skip: the sequencer goes on, at its instruction or past it; the context leaves
FAULTED when none of its sequencers is stopped, for RUN where it holds its core or lease. -/
def Ctx.answered (c : Ctx) (q : SeqId) (kind : BitVec 8) (skip : Bool) (holds : Bool) : Ctx :=
  let x := c.seqs.get q
  let x := if kind = 0x07 then x else { x with run := .running, skip := skip && kind != 0x05 }
  let c := { c with seqs := (c.seqs.set q x).map fun _ => Seqr.recheck }
  let stopped := allSeqs.any fun q => (c.seqs.get q).run == .faulted
  if stopped then c
  else if c.cst = .faulted then (if holds then { c with cst := .run } else { c with cst := .parked, was := .run })
  else if c.cst = .parked ∧ c.was = .faulted then { c with was := .run }
  else c

/-- The end of a context that an answer aborts, where it stands or as a gang switch has saved it (R394, R405). -/
def State.abortCtx (s : State) (c : CtxId) : State :=
  match s.saves.find? fun k => k.id == c with
  | some k => s.idleSaved k
  | none => if (s.findCtx c).any fun k => s.isBound k then s.idle c else s

/-- A switch-in whose job has no context left is released (R412); its packet completes with STATUS 0x02 (log entry 26). -/
def State.releaseGangs (s : State) : State :=
  let dead (g : Gang) : Bool :=
    g.back && g.gst != .run && g.ctxs.isEmpty && !(s.ctxs.any fun c => s.isBound c && c.bnd.dom == g.dom && c.bnd.job == g.job)
  (s.gangs.filter dead).foldl (init := s) fun s g =>
    let s := { s with gangs := s.gangs.filter fun y => !(y.dom == g.dom && y.job == g.job) }
    match s.findQ g.dom g.inq with
    | none => s
    | some x => s.endPkt g.dom x (s.headPkt g.dom x) (.done 2 0 s)

/-- An answer to a context: resume, skip or abort. A failed context is only aborted (R424). -/
def State.answerCtx (s : State) (c : CtxId) (q : SeqId) (kind : BitVec 8) (action : Nat) : State :=
  if action = 2 ∨ kind = 0x81 then (s.abortCtx c).releaseGangs
  else
    let holds := s.resident c && (!c.harv || (s.partAt c.loc).lease == .held)
    let f (k : Ctx) : Ctx := if k.id = c then k.answered q kind (action == 1) holds else k
    (s.mapCtxs f).mapSaved f

/-- An answer to a queue held at a packet. -/
def State.answerPkt (s : State) (d : BitVec 4) (q : BitVec 6) (action : Nat) : State :=
  match s.findQ d q with
  | none => s
  | some x =>
    let b := s.headPkt d x
    let s := s.modQ d q fun y => { y with hold := none }
    match action with
    | 0 => s.released d q
    | 1 => ((s.putStatus d q (mkStatus (pktTag b) (pktOp b) 2 0)).advanceHead d q).released d q
    | _ => (s.advanceHead d q).endQueue d q

/-- An answer to a queue held at an index error. -/
def State.answerIndex (s : State) (d : BitVec 4) (q : BitVec 6) (action : Nat) : State :=
  let s := s.modQ d q fun y => { y with hold := none }
  if action = 2 then s.endQueue d q else s.readIndex d q

/-- The effect of an answer on the raiser of a pending record. -/
def State.answer (s : State) (w : Raiser) (action : Nat) : State :=
  match w with
  | .ctx c q kind => s.answerCtx c q kind action
  | .packet d q => s.answerPkt d q action
  | .index d q => s.answerIndex d q action

/-- The domain of a raiser, as an answer finds it. -/
def State.raiserDom (s : State) (w : Raiser) : Option (BitVec 4) :=
  match w with
  | .packet d _ => some d
  | .index d _ => some d
  | .ctx c _ _ => (((s.ctxs.filter s.isBound) ++ s.saves).find? fun k => k.id == c).map (·.bnd.dom)

/-- ANSWER by its action (R394): a record that is not pending in the domain completes with STATUS 0x03; action 3 is refused
with cause 0x01. -/
def takeAnswer (k : Pkt) (action : Nat) (s : State) : Host.Outcome State Fault Refusal :=
  let a := fld k.bits 128 2
  if a ≠ action ∧ a ≠ 3 then .next s
  else takeChecked k 0x0B [(130, 382)] (fun _ s =>
    if a = 3 then .refuse (.cause 1)
    else match s.pending.find? fun p => p.1 == fldv k.bits 64 64 && s.raiserDom p.2 == some k.dom with
      | none => .done 3 0 s
      | some p => .done 0 0 (({ s with pending := s.pending.filter fun y => y.1 ≠ p.1 } : State).answer p.2 action)) s

/-- ANSWER_RESUME (R394). -/
def execAnswerResume (k : Pkt) (s : State) : Host.Outcome State Fault Refusal := takeAnswer k 0 s
/-- ANSWER_SKIP (R394). -/
def execAnswerSkip (k : Pkt) (s : State) : Host.Outcome State Fault Refusal := takeAnswer k 1 s
/-- ANSWER_ABORT (R394). -/
def execAnswerAbort (k : Pkt) (s : State) : Host.Outcome State Fault Refusal := takeAnswer k 2 s

end Sys2Proof.Machine
end

