-- ==== Sys2Proof/Machine/Plate.lean ====
section
/-! DEFINITION. The plate network: the way of a packet, the buffers it can stand in, and its flits (R16, R404, R407, R453).
When a packet moves on, and which buffer has room, are timing. -/

namespace Sys2Proof.Machine
open Sys2Proof

/-! ## Routing (R16) -/

/-- The way round a ring of eight from one position to another: the hops, and whether they ascend; four hops ascend. -/
def ringWay (a b : Nat) : Nat × Bool :=
  let up := (b + 8 - a) % 8
  if up ≤ 4 then (up, true) else (8 - up, false)
/-- The positions that a packet comes to on a ring, in order, after the one where it starts. -/
def ringStops (a b : Nat) : List Nat :=
  let (n, asc) := ringWay a b
  (upTo n).map fun k => if asc then (a + k + 1) % 8 else (a + 8 - (k + 1)) % 8

/-- Input ports of a router, named by the direction of travel (R404). -/
def portEast : Nat := 0
def portWest : Nat := 1
def portSouth : Nat := 2
def portNorth : Nat := 3
def portLocal : Nat := 4

/-- The router buffers that a packet passes, each a socket and an input port: its source's local port, then the row ring,
then the column ring. Socket 8r + c stands in row r and column c. -/
def routeOf (src dst : BitVec 6) : List (BitVec 6 × Nat) :=
  let r := src.toNat / 8
  let c := src.toNat % 8
  let r' := dst.toNat / 8
  let c' := dst.toNat % 8
  let row := (ringStops c c').map fun x => (BitVec.ofNat 6 (8 * r + x), if (ringWay c c').2 then portEast else portWest)
  let col := (ringStops r r').map fun y => (BitVec.ofNat 6 (8 * y + c'), if (ringWay r r').2 then portSouth else portNorth)
  (src, portLocal) :: row ++ col

/-- The entry rule of R16: a packet of n flits enters a ring when at least two slots of the receiving buffer stay free. -/
def mayEnter (free n : Nat) : Bool := decide (n + 2 ≤ free)

/-! ## Where a packet can stand -/

/-- A packet has 1 to 9 flits, all of them there (R16, R453). -/
def netWhole (p : NetPkt) : Bool := decide (1 ≤ p.nflit.toNat ∧ p.nflit.toNat ≤ 9) && p.flits.length == 32 * p.nflit.toNat
/-- A packet stands where one of its kind can: in the buffer of a fabric port at its FIO socket, or in a router buffer on its
way, which begins or ends at an FIO socket when the packet comes from or goes to another package. -/
def netStands (p : NetPkt) : Bool :=
  netWhole p &&
    if p.fab then p.place == fioOf p.port
    else (p.src :: fioSocks).any fun a => (p.dst :: fioSocks).any fun b => (routeOf a b).contains (p.place, p.port.toNat)

/-! ## The transmit buffers of the fabric ports (R404) -/

/-- Plate flits cut into packets; flits whose first has gone already come first, by themselves. -/
def packetsOf : List LinkSlot → List (List LinkSlot)
  | [] => []
  | x :: t =>
    match packetsOf t with
    | [] => [[x]]
    | l :: ls => if (l.head?.map (·.first)).getD true then [x] :: l :: ls else (x :: l) :: ls
/-- A whole packet of a job of a domain waits in the buffer. -/
def ofJob (d : BitVec 4) (job : BitVec 32) (l : List LinkSlot) : Bool :=
  l.head?.any fun x => x.first && x.dom == d && x.job == job
/-- A packet that waits at a port, as a record names it (R407); `own` is the number of this package. -/
def txRecord (own : BitVec 12) (port : BitVec 7) (l : List LinkSlot) : Option NetPkt :=
  l.head?.map fun x =>
    { job := x.job, src := x.src, dst := x.dst, vc := x.vc, seq := x.seq, nflit := BitVec.ofNat 4 l.length, fab := true
      port := port, place := fioOf port, peer := own, flits := (l.map fun y => toBytes y.data).flatten, tx := true, dom := x.dom, pkt := x.pkt }
/-- The packets of a job in the transmit buffers, in ascending port. -/
def State.txPackets (s : State) (d : BitVec 4) (job : BitVec 32) : List NetPkt :=
  ((upTo 128).map fun k => ((packetsOf (vget s.ports k).txq).filter (ofJob d job)).filterMap
    (txRecord s.pkg.pkgno (BitVec.ofNat 7 k))).flatten
/-- A port without the packets of a job. -/
def Port.without (d : BitVec 4) (job : BitVec 32) (x : Port) : Port :=
  { x with txq := ((packetsOf x.txq).filter fun l => !ofJob d job l).flatten }
/-- The plate flits that a port holds, or has sent and not seen acknowledged (R434). -/
def Port.held (x : Port) : List LinkSlot := x.txq ++ (x.unacked.map (·.slots)).flatten
/-- Nothing of a job stands in a transmit buffer, or is unacknowledged. -/
def State.txClear (s : State) (d : BitVec 4) (job : BitVec 32) : Bool :=
  (upTo 128).all fun k => !((vget s.ports k).held.any fun x => x.dom == d && x.job == job)
/-- The flits of a record as a link carries them. -/
def netSlots (p : NetPkt) : List LinkSlot :=
  (upTo p.nflit.toNat).map fun k =>
    { vc := p.vc, first := k == 0, job := p.job, src := p.src, dst := p.dst, seq := p.seq, dom := p.dom, pkt := p.pkt
      data := ofBytes 256 ((p.flits.drop (32 * k)).take 32) }
/-- A packet stands in the transmit buffer of its port again. -/
def State.reSend (s : State) (p : NetPkt) : State :=
  let x := s.ports.get p.port.toFin
  { s with ports := s.ports.set p.port.toNat { x with txq := x.txq ++ netSlots p } p.port.isLt }

end Sys2Proof.Machine
end

