-- ==== Sys2Proof/Machine/Gang.lean ====
section
/-! DEFINITION. The gang switch (spec/18 R401-R412) and gang failure (R424). A switch is carried by its GANGSW packets, by
gts() passing its cutoff and the close of its late bin, by late packets, and by the READY and DRAINED messages of its group. -/

namespace Sys2Proof.Machine
open Sys2Proof

/-! ## The proof area (R406) -/

/-- A header field of a proof area in a domain's carve. -/
def State.hdr (s : State) (d : BitVec 4) (proof off n : Nat) : Nat := leNat (s.carveBytes d (proof + off) n)
def State.putHdr (s : State) (d : BitVec 4) (proof off n v : Nat) : State := s.writeCarve d (proof + off) (leBytes n v)

/-- The population bytes of this package (R26). -/
def Pkg.popBytes (p : Pkg) : List Byte := ((upTo 64).map fun k => toBytes (p.popWord k)).flatten

/-- A packet record (R407). -/
def netRec (p : NetPkt) (fab : Bool) (ord : Nat) : List Byte :=
  let n := 32 * p.nflit.toNat
  leBytes 16 (p.src.toNat + p.dst.toNat * 2 ^ 6 + p.vc.toNat * 2 ^ 12 + p.seq.toNat * 2 ^ 15 + p.nflit.toNat * 2 ^ 23 +
    (if fab then 2 ^ 27 else 0) + p.port.toNat * 2 ^ 28 + (if fab then fioOf p.port else p.place).toNat * 2 ^ 35 +
    (if fab then p.peer.toNat * 2 ^ 41 else 0) + ord * 2 ^ 64) ++ (p.flits ++ List.replicate n 0).take n
/-- Records in order, numbered from 0. -/
def netRecs (fab : NetPkt → Bool) (ps : List NetPkt) : List (List Byte) :=
  (ps.zip (upTo ps.length)).map fun p => netRec p.1 (fab p.1) p.2

/-- Bytes of n records that stand one after another. -/
def usedLen (s : State) (d : BitVec 4) (a : Nat) : Nat → Nat
  | 0 => 0
  | n + 1 =>
    let k := 16 + 32 * (leNat (s.carveBytes d a 4) / 2 ^ 23 % 16)
    k + usedLen s d (a + k) n

/-- PCRC of a proof area, with PSTATE read as 2. -/
def State.pcrc (s : State) (d : BitVec 4) (proof : Nat) : Nat :=
  let m := s.carveBytes d
  let a := proof + 0x100000
  let b := proof + 0x1000000
  (crc32c (m proof 2 ++ [2] ++ m (proof + 3) 0x3D ++ m a (usedLen s d a (s.hdr d proof 0x20 4)) ++
    m b (usedLen s d b (s.hdr d proof 0x24 4)))).toNat
/-- PCRC written. -/
def State.seal (s : State) (g : Gang) : State := s.putHdr g.dom g.proof 0x40 4 (s.pcrc g.dom g.proof)

/-! ## The switch of a job -/

/-- The switch of a job of a domain. -/
def State.findGang (s : State) (d : BitVec 4) (job : BitVec 32) : Option Gang := s.gangs.find? fun g => g.dom == d && g.job == job
/-- What an event of a job means for its switch, in each domain that switches a job of that number. After a mismatch of the
Campion pair the firmware does nothing (R384). -/
def State.eachGang (s : State) (job : BitVec 32) (f : Gang → State → State) : State :=
  if s.pkg.cmperr then s
  else ((s.gangs.filter fun g => g.job == job).map (·.dom)).foldl (init := s) fun s d =>
    match s.findGang d job with
    | some g => f g s
    | none => s
/-- The switch of a job of a domain replaced. -/
def State.setGang (s : State) (g : Gang) : State :=
  { s with gangs := s.gangs.map fun y => if y.job = g.job ∧ y.dom = g.dom then g else y }

/-- The bound contexts of a job. -/
def State.gangCtxs (s : State) (d : BitVec 4) (job : BitVec 32) : List Ctx :=
  s.ctxs.filter fun c => s.isBound c && c.bnd.dom == d && c.bnd.job == job
/-- LATECLOSE. -/
def Gang.lateclose (g : Gang) : Word := g.sweepEnd + 10000

/-- A record of the switch, to a queue of its domain. -/
def State.gangRecord (s : State) (g : Gang) (q : BitVec 6) (kind : BitVec 8) (sock : BitVec 6) (info : BitVec 128) : State :=
  s.report g.dom q (mkRec { kind := kind, dom := g.dom, job := g.job, sock := sock, info := info })

/-! ## The packet (R401, R402) -/

def gsAction (b : BitVec 512) : Nat := fld b 64 2
def gsForce (b : BitVec 512) : Bool := bitAt b 66
def gsJob (b : BitVec 512) : BitVec 32 := fldv b 96 32
def gsCutoff (b : BitVec 512) : Word := fldv b 128 64
def gsProof (b : BitVec 512) : Nat := fld b 192 64
def gsSpill (b : BitVec 512) : BitVec 32 := fldv b 256 32
def gsGen (b : BitVec 512) : BitVec 16 := fldv b 288 16
def gsGroup (b : BitVec 512) : Nat := fld b 320 64

/-- The packages of a group table that is readable and names this one; one package may stand alone. -/
def State.gangGroup (s : State) (d : BitVec 4) (off : Nat) : Option (List (BitVec 12)) :=
  let len := (s.dom d).carveLen
  if len < off + 8 then none
  else
    let n := leNat (s.carveBytes d off 2)
    if n = 0 ∨ 4096 < n ∨ len < off + 8 + 2 * n then none
    else
      let t := s.carveBytes d off (8 + 2 * n)
      if leNat ((t.drop 6).take 2) = 0 ∧ grpRoot t < n ∧ grpSelf t < n ∧ grpMember t (grpSelf t) = s.pkg.pkgno.toNat ∧
          (upTo n).all fun i => decide (grpMember t i < 4096)
      then some ((upTo n).map fun i => BitVec.ofNat 12 (grpMember t i)) else none

/-- Bytes of spill buffer that an OUT issued now would need, no more than the largest buffer holds; the layout is the device's
own (log entry 26). -/
def State.spillNeed (s : State) (d : BitVec 4) (job : BitVec 32) : Nat :=
  min (Config.spillBytes s.tick ((s.gangCtxs d job).map (·.id))) (2 ^ 52)

/-- The spill buffer that a packet names, when it is live and holds n bytes. -/
def State.spillBuf (s : State) (d : BitVec 4) (b : BitVec 512) (n : Nat) : Option RegEnt :=
  match (s.dom d).regOf (gsSpill b) with
  | some e => if e.live && e.gen == gsGen b && decide (n ≤ e.limit.toNat + 1) then some e else none
  | none => none

/-- No switch of the job is in progress, and it has a bound context. -/
def State.gangFree (s : State) (d : BitVec 4) (job : BitVec 32) : Bool :=
  !(s.gangCtxs d job).isEmpty && !(s.gangs.any fun g => g.dom == d && g.job == job && g.gst != .run)

/-- Taking a GANGSW packet by its action: checks 1 and 2 of R402, then the rest. Action 3 is refused by whatever row
meets it. -/
def takeGang (k : Pkt) (action : Nat) (f : SubQ → State → List (BitVec 12) → PktEnd) (s : State) :
    Host.Outcome State Fault Refusal :=
  let b := k.bits
  if gsAction b ≠ action ∧ gsAction b ≠ 3 then .next s
  else takeChecked k 0x0C [(67, 29), (304, 16), (384, 128)] (fun x s =>
    if gsAction b = 3 ∨ (gsForce b ∧ gsAction b ≠ 1) then .refuse (.cause 1)
    else if gsProof b % 2 ^ 25 ≠ 0 ∨ (s.dom k.dom).carveLen < gsProof b + 2 ^ 25 then .refuse (.cause 5)
    else match s.gangGroup k.dom (gsGroup b) with
      | none => .refuse (.cause 5)
      | some ms => f x s ms) s

/-- GANGSW_SIZE (R402): RESULT is the number of bytes that an OUT would need now. -/
def execGangswSize (k : Pkt) (s : State) : Host.Outcome State Fault Refusal :=
  takeGang k 2 (fun _ s _ =>
    if !s.gangFree k.dom (gsJob k.bits) then .refuse (.cause 6)
    else .done 0 (BitVec.ofNat 64 (s.spillNeed k.dom (gsJob k.bits))) s) s

/-! ## Stop (R404 step 1, R405) -/

/-- The entries of a context in the copy, collective and transform queues, with what names the queue. -/
def State.farEntries (s : State) (c : CtxId) : List (Nat × EngEnt) :=
  let own (l : List EngEnt) (k : Nat) : List (Nat × EngEnt) := (l.filter fun e => e.own == c).map fun e => (k, e)
  own s.core.copyq 3 ++ own s.core.colq 4 ++ (s.xfq.map fun e => own e.2 (5 + e.1)).flatten
/-- A stopped entry enters its queue again, at the tail. -/
def State.reEnter (s : State) (l : Loc) (e : Nat × EngEnt) : State :=
  match e.1 with
  | 3 => s.mapCores fun k => if k.isAt l.sock l.core then { k with copyq := k.copyq ++ [e.2] } else k
  | 4 => s.mapCores fun k => if k.isAt l.sock l.core then { k with colq := k.colq ++ [e.2] } else k
  | n => { s with xfq := sput [] s.xfq (n - 5) (sget [] s.xfq (n - 5) ++ [e.2]) }

/-- A context of the job stops at an instruction boundary and gives up its core, its engine entries leave their queues; an
owner takes back what it lent, a harvest context's region is marked for restart. -/
def State.stopCtx (s : State) (id : CtxId) : State :=
  match s.findCtx id with
  | none => s
  | some c =>
    let res := s.seated id
    let s := s.focus id
    let es := s.farEntries id
    let s := if id.harv then (s.modPartAt id.loc fun p => { p with lease := .parked, restart := true }).parkHarvest id.loc
      else (s.takeBack c res).modCtx fun x => { x with lentSv := 0, scrubSv := 0 }
    let s := if res || id.harv then s.unseat else s
    (((s.dropEntries id).modCtx fun x => { x with ents := x.ents ++ es }).modBind id fun b => { b with res := false }).focus id

/-- The job's contexts stop, and other jobs take their cores. -/
def State.stopGang (s : State) (g : Gang) : State :=
  let ids := (s.gangCtxs g.dom g.job).map (·.id)
  let s := ids.foldl State.stopCtx (s.setGang { g with gst := .sweep })
  ids.foldl (fun s c => if c.harv then s else s.fill (rowOf c.loc)) s

/-! ## GANGSW_OUT -/

/-- The header of a proof area as a switch-out opens it. -/
def State.openProof (s : State) (d : BitVec 4) (b : BitVec 512) : State :=
  let p := gsProof b
  let s := s.writeCarve d p (List.replicate 4096 0)
  let s := ((((s.putHdr d p 0 2 1).putHdr d p 2 1 1).putHdr d p 4 4 (gsJob b).toNat).putHdr d p 8 8 (gsCutoff b).toNat)
  let s := ((s.putHdr d p 0x2C 2 s.pkg.pkgno.toNat).putHdr d p 0x30 4 (gsSpill b).toNat).putHdr d p 0x34 2 (gsGen b).toNat
  s.writeCarve d (p + 0x100) s.pkg.popBytes

/-- GANGSW_OUT (R402, R403): ARMED until gts() reaches CUTOFF; at once SWEEP when it has passed. Harvest contexts that an
earlier switch of the job left without a bank stay saved. -/
def execGangswOut (k : Pkt) (s : State) : Host.Outcome State Fault Refusal :=
  takeGang k 0 (fun x s ms =>
    let b := k.bits
    if !s.gangFree k.dom (gsJob b) then .refuse (.cause 6)
    else match s.spillBuf k.dom b (s.spillNeed k.dom (gsJob b)) with
      | none => .refuse (.cause 6)
      | some _ =>
        let old := s.gangs.find? fun g => g.dom == k.dom && g.job == gsJob b
        let g : Gang := { job := gsJob b, dom := k.dom, queue := x.num, gst := .armed, cutoff := gsCutoff b, proof := gsProof b
                          spill := gsSpill b, members := ms, ctxs := (old.map (·.ctxs)).getD []
                          cores := (old.map (·.cores)).getD [] }
        let s := { s with gangs := s.gangs.filter (fun (y : Gang) => !(y.dom == g.dom && y.job == g.job)) ++ [g] }
        let s := s.openProof k.dom b
        .wait (if g.cutoff.ule s.gts then s.stopGang g else s)) s

/-! ## Sweep (R404 steps 2 and 3) -/

/-- Place of a packet in sweep order: routers by socket and input port, then fabric ports, the receive buffer of each before
its transmit buffer. -/
def sweepKey (p : NetPkt) : Nat :=
  if p.fab then 1024 + 2 * p.port.toNat + (if p.tx then 1 else 0) else p.place.toNat * 8 + p.port.toNat
/-- Insert a packet behind those that come no later. -/
def sweepIn (p : NetPkt) : List NetPkt → List NetPkt
  | [] => [p]
  | q :: t => if sweepKey p < sweepKey q then p :: q :: t else q :: sweepIn p t
def sweepOrder (ps : List NetPkt) : List NetPkt := ps.foldl (fun l p => sweepIn p l) []

/-- A sweep has passed its bound of 50 µs and has not said so (R409). -/
def Gang.overdue (g : Gang) (gts : Word) : Bool := g.gst == .sweep && !g.sweepto && decide (g.cutoff.toNat + 50000 < gts.toNat)
/-- SWEEPTO: the record names the step and the socket or port being swept, and FAULT says it. -/
def State.sweepLate (s : State) (g : Gang) (stage place : Nat) : State :=
  let s := (s.putHdr g.dom g.proof 3 1 (s.hdr g.dom g.proof 3 1 ||| 1)).setGang { g with sweepto := true }
  s.gangRecord g g.queue 0x0E 0 (put 128 0 64 (s.gts - g.cutoff).toNat ||| put 128 64 8 stage ||| put 128 72 8 place)
/-- Step 2 with a socket, or step 3 with a port. -/
def sweepPlace (stage place : BitVec 8) : Bool := (stage == 2 && place.toNat < 64) || (stage == 3 && place.toNat < 128)
/-- The step and the place that a sweep is at, which timing leaves open. -/
def State.sweepAt (s : State) : BitVec 8 × BitVec 8 :=
  let (ports, n) := Config.sweeping s.tick
  if ports then (3, BitVec.ofNat 8 (n % 128)) else (2, BitVec.ofNat 8 (n % 64))
/-- SWEEPTO (R409): the sweep has passed 50 µs. -/
def execSweepto (job : BitVec 32) (stage place : BitVec 8) (s : State) : Host.Outcome State Fault Refusal :=
  if sweepPlace stage place then
    .next (s.eachGang job fun g s => if g.overdue s.gts then s.sweepLate g stage.toNat place.toNat else s)
  else .next s

/-- Bytes of a packet's record (R407). -/
def recLen (p : NetPkt) : Nat := 16 + 32 * p.nflit.toNat
/-- Those of some packets, in order, whose records fit into n bytes. -/
def thatFit : Nat → List NetPkt → List NetPkt
  | _, [] => []
  | n, p :: t => if recLen p ≤ n then p :: thatFit (n - recLen p) t else thatFit n t
/-- A packet is of the switched job. -/
def Gang.owns (g : Gang) (p : NetPkt) : Bool := p.dom == g.dom && p.job == g.job
/-- The job's packets that stand in the routers and port buffers are swept; which stand in the routers and the receive
buffers, timing leaves open (R407): those that stood there before one that the model has seen come to its port. They never exceed
15 MiB (R406). -/
def State.sweepGang (s : State) (g : Gang) : State :=
  let seen := s.net.filter g.owns ++ s.txPackets g.dom g.job
  let before := thatFit (15 * 2 ^ 20 - (seen.map recLen).sum)
    ((Config.standing s.fresh).filter fun p => g.owns p && !p.tx && netStands p)
  let ps := sweepOrder (before ++ seen)
  let s := { s with fresh := s.fresh + 1, net := s.net.filter fun p => !g.owns p, ports := s.ports.map (Port.without g.dom g.job) }
  let d := g.dom
  let s := s.writeCarve d (g.proof + 0x100000) (netRecs (·.fab) ps).flatten
  let s := (s.putHdr d g.proof 0x20 4 ps.length).putHdr d g.proof 0x10 8 s.gts.toNat
  let g := { g with swept := ps, sweepEnd := s.gts, passed := 128, gst := .save }
  (s.putHdr d g.proof 0x18 8 g.lateclose.toNat).setGang g

/-! ## Save (R404 steps 4 to 6) -/

/-- The places of a spill buffer's bytes, or a parked switch. -/
def State.spillWalk (s : State) (d : BitVec 4) : List (Nat × Nat × Nat) → Except State (List Place)
  | [] => .ok []
  | (_, va, n) :: rest =>
    let v := BitVec.ofNat 52 va
    let w : Waiter := { dom := d, va := v, ctx := none }
    match s.walk d v with
    | .invalid ea => .error (s.park ea w true)
    | .malformed ea _ => .error (s.park ea w false)
    | .ok e => match State.spillWalk s d rest with
      | .error s => .error s
      | .ok ps => .ok (run .phys (e.pa.toNat + va % 2 ^ e.bits) n ++ ps)

/-- A context leaves the package: its place is empty, its bind record is gone, an owner's reserve bank is handled as at any
unbind (R417). It and all that stands for it take a name under which no context is bound (R150). -/
def State.leave (s : State) (c : Ctx) : Ctx × State :=
  let id := { c.id with away := s.nextAway }
  let s := { s with binds := s.binds.filter fun b => c.id.harv || !(b.ctxId == c.id), nextAway := s.nextAway + 1 }
  let s := if c.id.harv then s.modPartAt c.id.loc fun p => { p with lease := .vacant, restart := false } else s
  ({ c with id := id }, (s.reName c.id id).putCtx { id := c.id })
/-- Contexts leave one after another. -/
def State.leaveAll (s : State) : List Ctx → List Ctx × State
  | [] => ([], s)
  | c :: cs =>
    let (c, s) := s.leave c
    let (cs, s) := s.leaveAll cs
    (c :: cs, s)

/-- A switch of the domain waits for a page of its spill buffer (R404). -/
def State.switchParked (s : State) (d : BitVec 4) : Bool :=
  ((s.mons.map (·.waiters)).flatten ++ s.overflow ++ s.woken).any fun w =>
    w.dom == d && w.ctx.isNone && w.eng.isNone && w.peer.isNone

/-- The job's contexts, memories and queue states are saved and its contexts are unbound; the spill buffer's bytes are the
device's own. OUT is reached and its packet completes. -/
def State.saveGang (s : State) (g : Gang) : State :=
  let d := g.dom
  let e := ((s.dom d).regOf g.spill).map fun e => (e.vbase.toNat, min (s.spillNeed d g.job) (e.limit.toNat + 1))
  let (va, n) := e.getD (0, 0)
  let s := s.mergeAll
  match s.spillWalk d (if n = 0 then [] else frames va n) with
  | .error s => s
  | .ok ps =>
    let (bs, s) := s.freeBytes n
    let s := s.writePlaces ps bs
    let cs := s.gangCtxs d g.job
    let at_ (k : Core) : Bool := cs.any fun c => k.isAt c.id.loc.sock c.id.loc.core
    let cores := s.allCores.filter at_
    let alone (k : Core) : Bool := (s.boundOn k.sock k.num).all fun c => c.bnd.dom == d && c.bnd.job == g.job
    let g := { g with
      binds := s.binds.filter fun b => b.dom == d && b.job == g.job
      cores := cores ++ g.cores, solo := (cores.filter alone).map fun k => (k.sock, k.num), gst := .out }
    let (away, s) := s.leaveAll cs
    let s := ((s.putHdr d g.proof 0x38 8 n).putHdr d g.proof 0x44 4 (crc32c bs).toNat).putHdr d g.proof 2 1 2
    let s := s.setGang { g with ctxs := g.ctxs ++ away }
    let s := if g.closed then s.seal g else s
    match s.findQ d g.queue with
    | none => s
    | some x => s.endPkt d x (s.headPkt d x) (.done 0 0 s)

/-- CUTOFF_REACHED (R404): gts() has reached CUTOFF and the job stops; then the sweep ends and the job is saved. A save that
waits for a page of the spill buffer is tried again. -/
def execCutoffReached (job : BitVec 32) (s : State) : Host.Outcome State Fault Refusal :=
  .next (s.eachGang job fun g s =>
    match g.gst with
    | .armed => if g.cutoff.ule s.gts then s.stopGang g else s
    | .sweep =>
      let at_ := s.sweepAt
      let s := if g.overdue s.gts then s.sweepLate g at_.1.toNat at_.2.toNat else s
      let s := s.sweepGang ((s.findGang g.dom job).getD g)
      s.saveGang ((s.findGang g.dom job).getD g)
    | .save => if s.switchParked g.dom then s else s.saveGang g
    | _ => s)

/-! ## Late packets (R407, R408) -/

/-- LATEPKT. -/
def State.latepkt (s : State) (g : Gang) (p : NetPkt) (cause : Nat) : State :=
  s.gangRecord g g.queue 0x0D (fioOf p.port)
    (put 128 0 8 cause ||| put 128 16 16 p.port.toNat ||| put 128 32 16 p.peer.toNat ||| put 128 48 8 p.vc.toNat |||
      put 128 56 8 p.seq.toNat ||| put 128 64 64 g.cutoff.toNat)

/-- A packet of the job is lost: LOST, a bit of FAULT, PCRC while PSTATE is 2 and the bin is closed; the first one is
reported. -/
def State.losePkt (s : State) (g : Gang) (p : NetPkt) (cause : Nat) : State :=
  let d := g.dom
  let n := cause - 1
  let f := s.hdr d g.proof 3 1
  let s := s.putHdr d g.proof 0x28 4 (min (s.hdr d g.proof 0x28 4 + 1) (2 ^ 32 - 1))
  let s := s.putHdr d g.proof 3 1 (if f / 2 ^ n % 2 = 1 then f else f + 2 ^ n)
  let s := if g.closed ∧ s.hdr d g.proof 2 1 = 2 then s.seal g else s
  if g.lost1 then s else (s.setGang { g with lost1 := true }).latepkt g p cause

/-- A late packet is captured when the bin has room. -/
def State.capturePkt (s : State) (g : Gang) (p : NetPkt) : State :=
  let d := g.dom
  let r := netRec p true g.lates.length
  let used := (netRecs (fun _ => true) g.lates).flatten.length
  if 2 ^ 24 < used + r.length then s.losePkt g p 2
  else
    let s := (s.writeCarve d (g.proof + 0x1000000 + used) r).putHdr d g.proof 0x24 4 (g.lates.length + 1)
    let s := s.setGang { g with lates := g.lates ++ [p], late1 := true }
    if g.late1 then s else s.latepkt g p 1

/-- What a packet asks of this package is performed (R89, R140, R436). -/
def State.performAsk (s : State) (p : NetPkt) : State :=
  match p.ask with
  | .nothing => s
  | .wake idx v => s.fabricWake p.job idx v
  | .access r => s.peerAccess r
  | .answer k refused => s.answerPeer k refused
/-- Records of one flow (R149). -/
def sameFlow (p q : NetPkt) : Bool := p.src == q.src && p.dst == q.dst && p.vc == q.vc && p.job == q.job && p.dom == q.dom
/-- READY has been sent and the re-injected packets have not all been performed: a packet of one of their flows waits for them
(R149). -/
def Gang.rejoins (g : Gang) : Bool := !g.bars && (g.gst == .restore || g.gst == .reinj)
/-- Packets of the job that are performed before one that arrives now, where they are of its flow. -/
def State.earlier (s : State) (g : Gang) : List NetPkt := (if g.gst = .restore then g.swept ++ g.lates else []) ++ s.net
/-- A packet of a job reaches a fabric port (R403, R407). While the sweep goes on it stands where it is, unless the sweep has read
that port out already, or no room is left (R406); then, and after the sweep until LATECLOSE, it is late; from then until READY is
sent it is lost; otherwise it is performed, behind the earlier packets of its flow (R149). -/
def State.arrive (s : State) (p : NetPkt) : State :=
  match s.findGang p.dom p.job with
  | none => s.performAsk p
  | some g =>
    if g.rejoins && (s.earlier g).any (sameFlow p) then { s with net := s.net ++ [p] }
    else if !g.bars then s.performAsk p
    else match g.gst with
    | .sweep =>
      let n := max g.passed (Config.portsSwept s.tick % 129)
      let g := { g with passed := n }
      if p.port.toNat < n || decide (15 * 2 ^ 20 < s.jobHeld g.dom g.job + recLen p) then (s.setGang g).capturePkt g p
      else { s.setGang g with net := s.net ++ [p] }
    | .restore => s.losePkt g p 3
    | _ => if s.gts.ult g.lateclose then s.capturePkt g p else s.losePkt g p 3

/-- LATE_PACKET_ARRIVAL: a packet of 1 to 9 flits reaches its fabric port. It answers no write of this package: those answers are
events of their own. -/
def execLatePacketArrival (p : NetPkt) (s : State) : Host.Outcome State Fault Refusal :=
  let ask := match p.ask with
    | .answer _ _ => .nothing
    | a => a
  let pref := match p.ask with
    | .access r => some r.dom
    | _ => none
  if netWhole p then
    .next (s.arrive { p with fab := true, tx := false, place := fioOf p.port, dom := s.jobDom p.job pref, pkt := 0, ask := ask })
  else .next s

/-- A request of a job of another package as a packet: its header content and its header flit are free, its payload stands
(R16, R453). -/
def State.asPacket (s : State) (d : BitVec 4) (job : BitVec 32) (peer : Option (BitVec 12)) (dst : Option (BitVec 6)) (data : List Byte)
    (ask : NetAsk) : NetPkt × State :=
  let (n, s) := s.freeNat
  let (m, s) := s.freeNat
  let port : BitVec 7 := BitVec.ofNat 7 n
  let flits := 1 + (data.length + 31) / 32
  ({ dom := d, job := job, src := BitVec.ofNat 6 (n / 128), dst := dst.getD (BitVec.ofNat 6 (n / 8192)), vc := BitVec.ofNat 3 m
     seq := BitVec.ofNat 8 (m / 8), nflit := BitVec.ofNat 4 flits, fab := true, port := port, place := fioOf port
     peer := peer.getD (BitVec.ofNat 12 (m / 2048))
     flits := toBytes (Config.headerFlit s.fresh) ++ data ++ List.replicate (32 * (flits - 1) - data.length) 0
     ask := ask }, { s with fresh := s.fresh + 1 })

/-- A switch of the job takes its packets, or keeps them behind those that it re-injects (R403). -/
def State.switches (s : State) (d : BitVec 4) (job : BitVec 32) : Bool :=
  (s.findGang d job).any fun g => g.bars || g.rejoins
/-- The MEM socket of a wake word's carve step (R436). -/
def State.wakeSocket (s : State) (job : BitVec 32) (idx : BitVec 45) : Option (BitVec 6) :=
  (s.memberOf job).bind fun d => ((s.carveAt d (8 * idx.toNat) 1).head?).map fun p => BitVec.ofNat 6 (p.a / 2 ^ 25)
/-- FABRIC_WAKE_ARRIVAL (R436): the wake word is written, unless a gang switch takes the packet (R149, R403). -/
def execFabricWakeArrival (job : BitVec 32) (idx : BitVec 45) (v : Word) (s : State) : Host.Outcome State Fault Refusal :=
  let d := s.jobDom job none
  if s.switches d job then
    let (p, s) := s.asPacket d job none (s.wakeSocket job idx) (toBytes v) (.wake idx v)
    .next (s.arrive p)
  else .next (s.fabricWake job idx v)
/-- PEER_ACCESS_AT_HOME (R89): the access is performed, unless a gang switch takes the packet (R149, R403). -/
def execPeerAccessAtHome (r : PeerReq) (s : State) : Host.Outcome State Fault Refusal :=
  let d := s.jobDom r.job (some r.dom)
  if s.switches d r.job then
    let (p, s) := s.asPacket d r.job (some r.pkg) none (r.data.take 256) (.access r)
    .next (s.arrive p)
  else .next (s.peerAccess r)

/-- The answer to a write of this package arrives: it acts on the write's context, unless a gang switch takes the packet (R149, R403,
R410). -/
def State.answerArrives (s : State) (refused : Bool) : State :=
  match s.somePeer with
  | none => s
  | some (o, s) =>
    if s.switches o.dom o.job then
      let (p, s) := s.asPacket o.dom o.job (some o.peer) (some o.own.loc.sock) [] (.answer o.pkt refused)
      State.arrive { s with peers := s.peers.map fun x => if x.pkt = o.pkt then { x with answered := true } else x } p
    else s.answerPeer o.pkt refused
/-- PEER_ACK_RECEIVED (R140): the bytes of a write are performed. -/
def execPeerAckReceived (s : State) : Host.Outcome State Fault Refusal := .next (s.answerArrives false)
/-- PEER_REFUSAL_RECEIVED (R90): a store, an atomic or an engine's write is refused. The refusal of a load arrives with
the load itself, which raises CAPF cause 0x7. -/
def execPeerRefusalReceived (s : State) : Host.Outcome State Fault Refusal := .next (s.answerArrives true)

/-! ## GANGSW_IN (R402, R410, R411) -/

/-- A core as the job left it: its ranges, tiles, scale memory, descriptors, dictionary entries and bank formats. -/
def restoreCore (o : Core) (b : Bind) (k : Core) : Core :=
  let spad := b.spm.foldl (fun m r => splice 0 o.spad m r.lo r.len) k.spad
  let spois := b.spm.foldl (fun m r => splice false o.spois m (r.lo / 64) (r.len / 64)) k.spois
  let cls := classOf k.sock
  let holds (n : Nat) : Bool := b.spm.any fun r => r.meets { lo := n * bankBytes cls, len := bankBytes cls }
  { k with
    spad := spad, spois := spois, scale := o.scale
    tiles := splice 0 o.tiles k.tiles (tileKey b.tfirst 0 0) (tileKey b.tcount 0 0)
    tpois := splice false o.tpois k.tpois (rowKey b.tfirst 0) (rowKey b.tcount 0)
    dict0 := splice 0 o.dict0 k.dict0 b.dfirst b.dcount
    cbd := Vector.ofFn fun i => if b.cbd.getLsbD i.val then o.cbd.get i else k.cbd.get i
    spfmt := Vector.ofFn fun i => if holds i.val then o.spfmt.get i else k.spfmt.get i }

/-- The position that a saved record takes: its own, or the lowest free one (log entry 26). -/
def State.posFor (s : State) (b : BindRec) : Option Nat :=
  if s.binds.any fun y => y.row == b.row && y.pos == b.pos then s.freePos b.row else some b.pos.toNat

/-- One owner context is put back: its record, its state, its core's memories; it does not issue before the barrier ends. -/
def State.restoreOwner (s : State) (g : Gang) (c : Ctx) : State :=
  match g.binds.find? fun b => b.ctxId == { c.id with away := 0 } with
  | none => s
  | some b =>
    let b := { b with pos := BitVec.ofNat 2 ((s.posFor b).getD 0), res := false, elig := false }
    let id := b.ctxId
    let own (e : Nat × EngEnt) : Nat × EngEnt := (e.1, { e.2 with own := id })
    let s := { s.reName c.id id with binds := s.binds ++ [b] }
    let s := s.putCtx { c.anew id with ents := c.ents.map own }
    match g.cores.find? fun k => k.isAt id.loc.sock id.loc.core with
    | none => s
    | some o => s.mapCores fun k => if k.isAt id.loc.sock id.loc.core then restoreCore o c.bnd k else k

/-- Insert an entry behind those accepted before it. -/
def entryIn (e : Loc × Nat × EngEnt) : List (Loc × Nat × EngEnt) → List (Loc × Nat × EngEnt)
  | [] => [e]
  | x :: t => if e.2.2.num < x.2.2.num then e :: x :: t else x :: entryIn e t
/-- The entries of a job's contexts in the copy, collective and transform queues re-enter at the tails, in the order in which they
were accepted; those of the matrix and gather queues re-enter as their contexts take their cores (R302). -/
def State.reEnterAll (s : State) (d : BitVec 4) (job : BitVec 32) : State :=
  let mine (c : Ctx) : Bool := c.bnd.dom == d && c.bnd.job == job && s.isBound c
  let es := ((s.ctxs.filter mine).map fun c => (c.ents.filter fun e => decide (3 ≤ e.1)).map fun e => (c.id.loc, e)).flatten
  let s := s.mapCtxs fun c => if mine c then { c with ents := c.ents.filter fun e => decide (e.1 < 3) } else c
  (es.foldl (fun l e => entryIn e l) []).foldl (fun s e => s.reEnter e.1 e.2) s

/-- Semaphores of the cores that were the job's alone and are so again. -/
def State.restoreSems (s : State) (g : Gang) : State :=
  let back (k : Core) : Core :=
    match g.cores.find? fun o => o.isAt k.sock k.num with
    | some o => if g.solo.contains (k.sock, k.num) && (s.boundOn k.sock k.num).all (fun c => c.bnd.dom == g.dom && c.bnd.job == g.job)
      then { k with sem := o.sem } else k
    | none => k
  s.mapCores back

/-- A saved harvest context finds a bank: the one it was saved from, else the first that fits. -/
def State.restoreHarvest (s : State) (g : Gang) (c : Ctx) : State :=
  match (s.graph g.dom c.bnd.graph).bind fun y => y.nodes.find? fun n => (fldv n 0 16 : BitVec 16) == c.bnd.node with
  | none => s
  | some n =>
    let banks := c.id.loc :: ((upTo 64).map fun k => partsOf k ((upTo 16).map (BitVec.ofNat 4))).flatten
    match banks.find? fun l => s.bankFits g.dom n c.bnd l with
    | none => s
    | some l => s.placeSaved g c l

/-- RESTORE (R410). -/
def State.restoreGang (s : State) (g : Gang) : State :=
  let s := s.setGang { g with gst := .restore, ctxs := g.ctxs.filter fun c => c.id.harv }
  let s := ((g.ctxs.filter fun c => !c.id.harv).foldl (fun s c => s.restoreOwner g c) s).reEnterAll g.dom g.job
  (g.ctxs.filter fun c => c.id.harv).foldl (fun s c => s.restoreHarvest { g with gst := .restore } c) (s.restoreSems g)

/-- Position of a record in its flow, from the flow's first record. -/
def flowKey (all : List NetPkt) (p : NetPkt) : Nat :=
  match all.find? (sameFlow p) with
  | some f => (p.seq - f.seq + 128).toNat
  | none => 0
/-- Insert a record into its flow by its sequence number; flows keep the order in which they were met. -/
def flowIn (all : List NetPkt) (p : NetPkt) : List NetPkt → List NetPkt
  | [] => [p]
  | q :: t => if sameFlow p q && decide (flowKey all p < flowKey all q) then p :: q :: t else q :: flowIn all p t
/-- The records in the order of their re-injection: every swept one, then every late one, each flow ascending. -/
def reinjOrder (swept late : List NetPkt) : List NetPkt :=
  let all := swept ++ late
  let sort (l : List NetPkt) : List NetPkt := l.foldl (fun acc p => flowIn all p acc) []
  sort swept ++ sort late

/-- READY has come from every package: the records stand again where they were taken (R403, R410). -/
def State.readyGang (s : State) (g : Gang) : State :=
  if g.gst = .restore ∧ g.members.all g.ready.contains ∧ g.ready.contains s.pkg.pkgno then
    let ps := reinjOrder g.swept g.lates
    (ps.filter (·.tx)).foldl State.reSend { s.setGang { g with gst := .reinj } with net := (ps.filter fun p => !p.tx) ++ s.net }
  else s.setGang g

/-- A control message to the other packages of the group (R403). -/
def State.tellGroup (s : State) (g : Gang) (b : FabBody) : State :=
  { s with fabout := s.fabout ++ (g.members.filter fun p => p != s.pkg.pkgno).map fun p => { dst := p, dom := g.dom, job := g.job, body := b } }
/-- A context of the job on this package has failed and its GANGF awaits an answer: neither READY nor DRAINED is sent (R412). -/
def State.memberFailed (s : State) (g : Gang) : Bool :=
  let late := ((upTo 16).map fun d => ((s.dom (BitVec.ofNat 4 d)).queues.map fun q => q.late.map (·.2)).flatten).flatten
  (s.pending.map (·.2) ++ late).any fun w => match w with
    | .ctx c _ k => k == 0x81 && (s.gangCtxs g.dom g.job ++ g.ctxs).any fun x => x.id == c
    | _ => false
/-- RESTORE has ended: READY is sent (R403, R412). -/
def State.sayReady (s : State) (g : Gang) : State :=
  if g.failed || s.memberFailed g then s.setGang { g with failed := true }
  else (s.tellGroup g .ready).readyGang { g with ready := g.ready ++ [s.pkg.pkgno] }

/-- MAPDIFF (R411). -/
def State.mapdiff (s : State) (g : Gang) (q : BitVec 6) (pop : List Byte) : State :=
  let own := s.pkg.popBytes
  let i := ((upTo 256).find? fun k => pop.getD k 0 != own.getD k 0).getD 0
  s.gangRecord g q 0x0F 0 (put 128 0 32 (crc32c pop).toNat ||| put 128 32 32 (crc32c own).toNat ||| put 128 64 8 (i / 4) |||
    put 128 72 8 (i % 4))

/-- A core from which a context is saved has failed since (R444). -/
def State.lostCore (s : State) (g : Gang) : Bool :=
  g.ctxs.any fun c => !(s.coreAt c.id.loc.sock c.id.loc.core).any (·.live)

/-- An IN as it is taken, and again when the late bin closes: checks 4 and 5 of R402, CHECK, RESTORE. READY is sent at the end
of RESTORE. -/
def inEnd (d : BitVec 4) (b : BitVec 512) (ms : List (BitVec 12)) (x : SubQ) (s : State) : PktEnd :=
  let p := gsProof b
  let n := s.hdr d p 0x38 8
  match s.spillBuf d b n with
  | none => .refuse (.cause 6)
  | some e => match s.gangs.find? fun g => g.dom == d && g.job == gsJob b && (g.gst == .out || g.gst == .save) with
    | none => .refuse (.cause 6)
    | some g =>
      if !g.closed then .wait s
      else if g.gst ≠ .out ∨ s.hdr d p 0 2 ≠ 1 ∨ s.hdr d p 2 1 ≠ 2 ∨ !(s.gangCtxs d g.job).isEmpty ∨
          s.pcrc d p ≠ s.hdr d p 0x40 4 then .refuse (.cause 6)
      else
        let s := s.mergeAll
        match s.spillWalk d (if n = 0 then [] else frames e.vbase.toNat n) with
        | .error s => .wait s
        | .ok ps =>
          if (crc32c (ps.map s.byteAt)).toNat ≠ s.hdr d p 0x44 4 then .refuse (.cause 6)
          else
            let pop := s.carveBytes d (p + 0x100) 256
            if pop ≠ s.pkg.popBytes then .done 1 0 (s.mapdiff g x.num pop)
            else if (s.hdr d p 3 1 ≠ 0 ∧ !gsForce b) ∨ s.lostCore g ∨ g.binds.any fun y => (s.posFor y).isNone then
              .refuse (.cause 6)
            else
              let g := { g with inq := x.num, proof := p, spill := gsSpill b, members := ms }
              let s := (s.putHdr d p 2 1 3).restoreGang g
              .wait (match s.findGang d g.job with
                | some g => s.sayReady g
                | none => s)

/-- GANGSW_IN. -/
def execGangswIn (k : Pkt) (s : State) : Host.Outcome State Fault Refusal :=
  takeGang k 1 (fun x s ms => inEnd k.dom k.bits ms x s) s

/-- An IN that waits at the head of its queue. -/
def State.waitingIn (s : State) (g : Gang) : Option SubQ :=
  (s.dom g.dom).queues.find? fun x =>
    let b := s.headPkt g.dom x
    x.taken && pktOp b == 0x0C && gsAction b == 1 && gsJob b == g.job

/-- LATECLOSE_REACHED (R403, R406): the late bin closes and PCRC is written; an IN that waits goes on, unless a page of the
spill buffer holds it. -/
def execLatecloseReached (job : BitVec 32) (s : State) : Host.Outcome State Fault Refusal :=
  .next (s.eachGang job fun g s =>
    if (g.gst = .save ∨ g.gst = .out) ∧ g.lateclose.ule s.gts then
      let s := if g.closed then s else (s.setGang { g with closed := true }).seal g
      match s.waitingIn g with
      | none => s
      | some x =>
        if s.switchParked g.dom then s
        else
          let b := s.headPkt g.dom x
          match s.gangGroup g.dom (gsGroup b) with
          | none => s.endPkt g.dom x b (.refuse (.cause 5))
          | some ms => s.endPkt g.dom x b (inEnd g.dom b ms x s)
    else s)

/-! ## READY and DRAINED (R403, R410) -/

/-- READY_RECEIVED: a message of a package of the group. -/
def execReadyReceived (job : BitVec 32) (pkg : BitVec 12) (s : State) : Host.Outcome State Fault Refusal :=
  .next (s.eachGang job fun g s =>
    if g.gst = .run ∨ g.ready.contains pkg ∨ pkg = s.pkg.pkgno then s else s.readyGang { g with ready := g.ready ++ [pkg] })

/-- The matrix and gather entries of the job's contexts stand behind the others, in the order in which they were accepted (R410). -/
def State.sortTails (s : State) (d : BitVec 4) (job : BitVec 32) : State :=
  let mine (e : EngEnt) : Bool := (s.findCtx e.own).any fun c => c.bnd.dom == d && c.bnd.job == job
  let into (l : List EngEnt) (e : EngEnt) : List EngEnt := (l.takeWhile fun x => x.num ≤ e.num) ++ e :: l.dropWhile fun x => x.num ≤ e.num
  let sort (l : List EngEnt) : List EngEnt := (l.filter fun e => !mine e) ++ (l.filter mine).foldl into []
  s.mapCores fun k => { k with matq := sort k.matq, gathq := sort k.gathq }
/-- DRAINED has come from every package: the barrier ends, the job's contexts may issue, IN completes with the GTS of this
moment. -/
def State.drainedGang (s : State) (g : Gang) : State :=
  if g.gst = .barrier ∧ g.members.all g.drained.contains then
    let s := s.putHdr g.dom g.proof 2 1 4
    let g' := { g with gst := .run, swept := [], lates := [] }
    let s := if g.ctxs.isEmpty then { s with gangs := s.gangs.filter fun y => !(y.job == g.job && y.dom == g.dom) } else s.setGang g'
    let s := match s.findQ g.dom g.inq with
      | none => s
      | some x => s.endPkt g.dom x (s.headPkt g.dom x) (.done 0 s.gts s)
    ((dedup (g.binds.map (·.row))).foldl State.fill s).sortTails g.dom g.job
  else s.setGang g

/-- An access that a packet of the job asked for waits for a page here (R89). -/
def State.askParked (s : State) (d : BitVec 4) (job : BitVec 32) : Bool :=
  ((s.mons.map (·.waiters)).flatten ++ s.overflow ++ s.woken).any fun w =>
    w.peer.any fun r => r.job == job && s.jobDom job (some r.dom) == d
/-- Re-injected packets of a job are performed in order; behind one that waits for a page the rest stands (R149). -/
def State.performNet (d : BitVec 4) (job : BitVec 32) : List NetPkt → State → State
  | [], s => s
  | p :: t, s =>
    if s.askParked d job then { s with net := s.net ++ p :: t } else State.performNet d job t (s.performAsk p)
/-- A write of a packet re-injected at a transmit buffer has not been answered (R140, R410). -/
def State.sentOpen (s : State) (g : Gang) : Bool := g.swept.any fun p => p.tx && s.peers.any fun w => w.pkt == p.pkt
/-- REINJECTION_DRAINED (R410): the packets re-injected here are performed, in the order of their flows; once every one is
delivered and performed, DRAINED is sent. -/
def execReinjectionDrained (job : BitVec 32) (s : State) : Host.Outcome State Fault Refusal :=
  .next (s.eachGang job fun g s =>
    if g.gst = .reinj ∧ !s.askParked g.dom job then
      let s := State.performNet g.dom job (s.net.filter g.owns) { s with net := s.net.filter fun p => !g.owns p }
      if s.askParked g.dom job || s.net.any g.owns || !s.txClear g.dom job || s.sentOpen g || g.failed then s
      else (s.tellGroup g .drained).drainedGang { g with gst := .barrier, drained := g.drained ++ [s.pkg.pkgno] }
    else s)

/-- DRAINED_RECEIVED. -/
def execDrainedReceived (job : BitVec 32) (pkg : BitVec 12) (s : State) : Host.Outcome State Fault Refusal :=
  .next (s.eachGang job fun g s =>
    if g.gst = .run ∨ g.drained.contains pkg ∨ pkg = s.pkg.pkgno then s else s.drainedGang { g with drained := g.drained ++ [pkg] })

/-! ## Gang failure (R424) -/

/-- INFO of a GANGF record. -/
def gangfInfo (cause : Nat) (pkg : BitVec 12) (place : Nat) (orig : Word) : BitVec 128 :=
  put 128 0 8 cause ||| put 128 16 16 pkg.toNat ||| put 128 32 16 place ||| put 128 64 64 orig.toNat

/-- The collective entries of a job end with code 0x06 (R329); one that a gang switch holds ends when it is in its queue again. -/
def State.failColls (s : State) (d : BitVec 4) (job : BitVec 32) : State :=
  let ends (e : Nat × EngEnt) : Nat × EngEnt := match e.2.body with
    | .coll _ => (e.1, { e.2 with fin := some 6, outq := [], bads := [] })
    | _ => e
  let fail (c : Ctx) : Ctx := if c.bnd.dom = d ∧ c.bnd.job = job then { c with ents := c.ents.map ends } else c
  let s := s.endColls (fun e _ => (s.findCtx e.own).any fun c => c.bnd.dom == d && c.bnd.job == job) 6
  { s.mapCtxs fail with gangs := s.gangs.map fun g => { g with ctxs := g.ctxs.map fail } }

/-- Health of a socket changed. -/
def State.modHealth (s : State) (k : BitVec 6) (f : Health → Health) : State :=
  { s with pkg := { s.pkg with health := s.pkg.health.set k.toNat (f (s.pkg.health.get k.toFin)) k.isLt } }
/-- A saturating count. -/
def up32 (x : BitVec 32) : BitVec 32 := if x = BitVec.allOnes 32 then x else x + 1
/-- An uncorrectable error of a socket, by the ARBSEQ of its log entry (R443). -/
def State.countError (s : State) (k : BitVec 6) (n : Word) : State :=
  s.modHealth k fun h => { h with uecnt := up32 h.uecnt, lastue := n }

/-- A context fails: it is logged and counted in its socket (R443), it stands FAULTED with nothing issuing, its GANGF record awaits an answer and is sent over the
fabric, a switch of the job knows that this member has failed (R412), and the job's collective entries end. -/
def State.failCtx (s : State) (id : CtxId) : State :=
  match s.findCtx id with
  | none => s
  | some c =>
    if !s.isBound c then s
    else
      let (n, s) := s.logEvent 2 id.loc.sock id.loc.core (some c.bnd.dom) 0
      let s := s.countError id.loc.sock n
      let fail (k : Ctx) : Ctx :=
        if k.id = id then { k with cst := .faulted, seqs := k.seqs.map fun _ => faultSeq } else k
      let mark (g : Gang) : Gang := if g.dom = c.bnd.dom ∧ g.job = c.bnd.job then { g with failed := true } else g
      let s := { s.mapCtxs fail with gangs := s.gangs.map mark }
      let place := id.loc.sock.toNat + id.loc.core.toNat * 64 + id.loc.part.toNat * 1024
      let r := { c.recF 0x81 with info := gangfInfo 1 s.pkg.pkgno place 0 }
      (s.reportHeld c.bnd.dom (s.queueOf c) (mkRec r) (.ctx id .ld 0x81)).failColls c.bnd.dom c.bnd.job

/-- CONTEXT_FAILURE. -/
def execContextFailure (id : CtxId) (s : State) : Host.Outcome State Fault Refusal := .next (s.failCtx id)

/-- GANGF_RECEIVED: a record that awaits no answer goes to the queue that loaded the job's graph here, and the job's
collective entries end. -/
def execGangfReceived (job : BitVec 32) (cause : BitVec 8) (pkg : BitVec 12) (place : BitVec 16) (orig : Word) (s : State) :
    Host.Outcome State Fault Refusal :=
  match s.memberOf job with
  | none => .next s
  | some d =>
    match (s.dom d).graphs.find? fun g => g.job == job with
    | none => .next s
    | some g =>
      let r : RecF := { kind := 0x81, dom := d, job := job, info := gangfInfo cause.toNat pkg place.toNat orig }
      .next ((s.report d g.queue (mkRec r)).failColls d job)

end Sys2Proof.Machine
end

