-- ==== Sys2Proof/Machine/Registers.lean ====
section
/-! DEFINITION. Device registers of the domains (spec/18 R418-R423; spec/19 R427, R428, R441): writes, enabling a domain,
domain resets. -/

namespace Sys2Proof.Machine
open Sys2Proof

/-! ## Fields of a domain's words (R418, R427, R428) -/

def Dom.en (x : Dom) : Bool := bitAt (x.cfg.get 0) 4
def Dom.isStatic (x : Dom) : Bool := bitAt (x.cfg.get 0) 6
def Dom.rbusy (x : Dom) : Bool := bitAt (x.cfg.get 0) 8
/-- Word n of DOMCFG with bits changed. -/
def Dom.setCfg (x : Dom) (n : Nat) (v : Word) : Dom := { x with cfg := vset x.cfg n v }
/-- One bit of word 0. -/
def Dom.setBit (x : Dom) (i : Nat) (b : Bool) : Dom := x.setCfg 0 (setFld (x.cfg.get 0) i 1 (if b then 1 else 0))

/-- The bits of DOMCFG words 1 to 7 that a write changes. -/
def cfgMask (n : Nat) : Word :=
  match n with
  | 1 => 0x000FFFFFFFFFFFFF
  | 2 => 0x000FFFFFFFFF0000
  | 3 => 0x0000003F3FFFFFFF
  | 4 => 0x03FFFFFFFFFFFFFF
  | 5 => 0x0FFF0000001FFFFF
  | 6 => 0xFFFFFFFFFFFFFFFF
  | 7 => 0x000FFFFFFFFFFFFF
  | _ => 0
/-- The bits of HOSTCFG words 0 to 2. -/
def hostMask (n : Nat) : Word :=
  match n with
  | 0 => 0xFFFFFFFFFFFFF000
  | 1 => 0x000000FFFFFFFFFF
  | 2 => 0x800FFFFFFFFFFFFF
  | _ => 0
/-- The bits of Q0CFG. -/
def q0Mask (n : Nat) : Word :=
  match n with
  | 0 => 0x00000000FFFF00FF
  | 1 | 2 | 3 | 4 => 0xFFFFFFFFFFFFFFFF
  | _ => 0
/-- A word of which the masked bits take a written value (R4). -/
def maskWrite (m old v : Word) : Word := (v &&& m) ||| (old &&& ~~~m)

/-! ## DOMCFG word 0 -/

/-- Every bank in which a write has withdrawn consent is reclaimed, from each owner beside it that withdrew it or from which it was
withdrawn (R417, R419); `old` is the state before the write. -/
def State.consentLost (old s : State) : State :=
  let lost (c : Ctx) (b : BindRec) : Bool := old.consent c.bnd.dom b.dom && !s.consent c.bnd.dom b.dom
  let owners (c : Ctx) : List Ctx :=
    (s.binds.filter fun b => b.row == rowOf c.id.loc && lost c b).filterMap fun b => s.findCtx b.ctxId
  (((s.ctxs.filter fun c => c.id.harv && s.isBound c).map owners).flatten).foldl (fun s o => s.takeBack o (s.seated o.id)) s

/-- Word 0 takes what a write gives it, but for EN being set and RST: EN may be cleared; POL and POLAUTO change only while
EN is 0. Consent that is withdrawn takes effect at once. -/
def State.writeWord0 (s : State) (d : BitVec 4) (v : Word) : State :=
  let x := s.dom d
  let m : Word := if x.en then 0x00000000FFFF0050 else 0x00000000FFFF0460
  s.consentLost (s.setDom d (x.setCfg 0 (maskWrite m (x.cfg.get 0) v)))

/-! ## Enabling a domain (R109, R396, R420, R428) -/

/-- Bytes that the device reads at a physical address; where no memory stands, zeros (log entry 42). -/
def State.physBytes (s : State) (a n : Nat) : List Byte := if s.physOk a n then Memory.getN s.mem a n else List.replicate n 0
/-- The cores that a domain's words give it: whole compute instances, and single cores of shared ones. -/
def State.coreMasks (s : State) (x : Dom) : Vector (BitVec 16) 64 :=
  Vector.ofFn fun i =>
    let all := (s.pkg.pop.get i).cores
    if !isCompute (designMap.getD i.val 0) then 0
    else if bitAt (x.cfg.get 6) i.val then all
    else all &&& ofBytes 16 (s.physBytes (fld (x.cfg.get 7) 0 52 + 2 * i.val) 2)
/-- The carve list of a domain. -/
def State.carveList (s : State) (x : Dom) : List Word :=
  (upTo (fld (x.cfg.get 4) 52 6)).map fun k => ofBytes 64 (s.physBytes (fld (x.cfg.get 4) 0 52 + 8 * k) 8)
/-- The words of the carve list and the masks of the core map that stand in no present memory: each such read is rejected (R19). -/
def State.tablesMissed (s : State) (x : Dom) : List Nat :=
  let list := (upTo (fld (x.cfg.get 4) 52 6)).map fun k => fld (x.cfg.get 4) 0 52 + 8 * k
  let map := ((upTo 64).filter fun k => isCompute (designMap.getD k 0) && !bitAt (x.cfg.get 6) k).map fun k =>
    fld (x.cfg.get 7) 0 52 + 2 * k
  (list.filter fun a => !s.physOk a 8) ++ map.filter fun a => !s.physOk a 2

/-- The other enabled domains. -/
def State.othersOn (s : State) (d : BitVec 4) : List Dom :=
  (((upTo 16).map (BitVec.ofNat 4)).filter fun e => e != d && (s.dom e).en).map s.dom

/-- The cores or carve steps of a domain overlap those of another, a step is no step, or more than four pairs of one MEM are
carved. An entry with a bit outside its fields, and a step named twice, are refused with them (log entry 27). -/
def State.overlaps (s : State) (d : BitVec 4) (cores : Vector (BitVec 16) 64) (es : List Word) : Bool :=
  let os := s.othersOn d
  let steps := es.map fun (e : Word) => (fldv e 0 9 : BitVec 9)
  let taken := (os.map (·.steps)).flatten
  let mem (k : BitVec 9) : BitVec 6 := fldv k 0 6
  os.any (fun o => (upTo 64).any fun k => vget o.cores k &&& vget cores k != 0) || es.any (fun e => fld e 9 55 != 0) ||
  steps.any (fun k => taken.contains k || !(s.present (mem k) && classOf (mem k) == 5) ||
    4 < ((steps ++ taken).filter fun y => mem y == mem k).length) || !distinct steps || decide (56 < es.length)

/-- What a STATIC domain's shares must satisfy. -/
def State.sharesBad (s : State) (d : BitVec 4) (x : Dom) : Bool :=
  x.isStatic &&
    let os := (s.othersOn d).filter Dom.isStatic
    let f (y : Dom) (lo w : Nat) : Nat := fld (y.cfg.get 3) lo w
    f x 0 16 == 0 || f x 16 8 == 0 ||
    os.any (fun o => f o 0 16 &&& f x 0 16 != 0 || f o 16 8 &&& f x 16 8 != 0) ||
    decide (64 < f x 24 6 + (os.map fun o => f o 24 6).sum) || decide (64 < f x 32 6 + (os.map fun o => f o 32 6).sum)

/-- Queue 0 as Q0CFG describes it. -/
def Dom.queue0 (x : Dom) : SubQ :=
  let w := x.q0.get 0
  newQueue 0 (fld w 0 4 + 4) (fld w 4 4 + 4) (x.q0.get 1) (x.q0.get 2) (x.q0.get 3) (x.q0.get 4) (fldv w 16 16)
/-- Why queue 0 cannot be created. -/
def State.q0Bad (s : State) (d : BitVec 4) (x : Dom) : Bool :=
  let w := x.q0.get 0
  let q := x.queue0
  decide (12 < fld w 0 4) || decide (12 < fld w 4 4) || fld w 16 16 == 0 || q.pkt.toNat % 64 != 0 || q.stat.toNat % 32 != 0 ||
  q.exq.toNat % 64 != 0 || q.ctl.toNat % 64 != 0 || !s.queueReadable d q

/-- The domain holds every present compute instance whole (R396). -/
def State.holdsAll (s : State) (x : Dom) : Bool :=
  (upTo 64).all fun k =>
    !(s.present (BitVec.ofNat 6 k) && isCompute (designMap.getD k 0)) || bitAt (x.cfg.get 6) k

/-- A write that sets EN: refused with CFGERR, or the domain exists, with its cores, carve, policy and queue 0, which takes the records
of reads that were rejected (R19, log entry 42). -/
def State.enable (s : State) (d : BitVec 4) : State :=
  let x := s.dom d
  let s := s.mergeAll
  let cores := s.coreMasks x
  let es := s.carveList x
  if s.overlaps d cores es || x.nvec == 0 || s.sharesBad d x || s.q0Bad d x then s.setDom d (x.setBit 9 true)
  else
    let x := (x.setBit 9 false).setBit 4 true
    let x := if bitAt (x.cfg.get 0) 10 then x.setBit 5 (s.holdsAll x) else x
    (s.tablesMissed x).foldl (init := s.setDom d { x with
      cores := cores, steps := es.map fun (e : Word) => (fldv e 0 9 : BitVec 9), queues := [x.queue0] }) fun s a =>
        s.report d 0 (mkRec { kind := 0x83, dom := d, addr := BitVec.ofNat 64 a, info := put 128 0 8 5 })

/-- DOMCFG_ENABLE (R420): a write of word 0 that sets EN. -/
def execDomcfgEnable (d : BitVec 4) (v : Word) (s : State) : Host.Outcome State Fault Refusal :=
  if bitAt v 4 ∧ !(s.dom d).en then .next ((s.writeWord0 d v).enable d) else .next s

/-! ## Domain reset (R423) -/

/-- A core of the domain as its reset leaves it. Dictionary entries that another domain's harvest context uses, and other
domains' lines, stay. -/
def resetCore (d : BitVec 4) (on : List Ctx) (k : Core) : Core :=
  let keep (n : Nat) : Bool := on.any fun c => c.id.harv && c.bnd.dom != d && decide (c.bnd.dfirst ≤ n ∧ n < c.bnd.dfirst + c.bnd.dcount)
  { k with
    spad := [], spois := [], spfmt := Vector.replicate 64 0, cbd := Vector.replicate 32 {}, sem := Vector.replicate 64 0, semq := []
    dict0 := [], dict1 := k.dict1.filter fun e => keep e.1
    icache := k.icache.filter fun l => l.dom ≠ d, fills := k.fills.filter fun l => l.dom ≠ d
    uol := [], tiles := [], tpois := [], scale := [] }

/-- The carve of a domain is zeroed, step by step, with its poison. -/
def State.clearCarve (s : State) (steps : List (BitVec 9)) : State :=
  steps.foldl (init := s) fun s k =>
    { s with llc := sclear s.llc (k.toNat * 2 ^ 25) (2 ^ 25), lpois := sclear s.lpois (k.toNat * 2 ^ 19) (2 ^ 19) }
/-- The packets of a domain are dropped from routers and fabric buffers: those of its jobs that stand there, and its writes on
their way. -/
def State.dropPackets (s : State) (d : BitVec 4) (jobs : List (BitVec 32)) : State :=
  { s with
    net := s.net.filter fun p => p.dom ≠ d || !jobs.contains p.job
    peers := s.peers.filter fun p => p.dom ≠ d
    flows := s.flows.filter fun f => f.dom ≠ d
    fabout := s.fabout.filter fun m => m.dom ≠ d
    ports := jobs.foldl (fun ps j => ps.map (Port.without d j)) s.ports }

/-- The reset of a domain, up to its end: contexts, engine entries, packets, its cores, its carve, its registry, blocks,
graphs and queues; the other packages of its gangs are told. Its lines in the caches are not modelled (log entry 7). -/
def State.startReset (s : State) (d : BitVec 4) : State :=
  let cs := s.ctxs.filter fun c => s.isBound c && c.bnd.dom == d
  let s := (cs.map (·.id)).foldl State.idle s
  let jobs := dedup ((s.gangs.filter fun g => g.dom == d).map (·.job) ++ (s.dom d).graphs.map (·.job))
  let s := ({ s with gangs := s.gangs.filter fun g => g.dom ≠ d } : State).dropPackets d jobs
  let s := jobs.foldl (fun s j => s.sendGangf d j 2 0xFFFF 0) s
  let s := (s.clearCarve (s.dom d).steps).tlbDrop fun e => e.dom == d
  let own (k : Core) : Bool := (vget (s.dom d).cores k.sock.toNat).getLsbD k.num.toNat
  let s := s.mapCores fun k => if own k then resetCore d (s.boundOn k.sock k.num) k else k
  let stay (w : Waiter) : Bool := w.dom != d
  let s := { s with
    jcbs := s.jcbs.filter fun e => !(e.2.any fun (j : Jcb) => j.dom == d)
    pending := s.pending.filter fun p => s.raiserDom p.2 != some d
    overflow := s.overflow.filter stay, woken := s.woken.filter stay
    mons := (s.mons.map fun (m : Mon) => { m with waiters := m.waiters.filter stay }).filter fun m => !m.waiters.isEmpty }
  s.modDom d fun x =>
    let x := x.setBit 8 true
    { x with reg := [], exps := [], queues := [], pageq := none, graphs := [] }

/-- DOMCFG_RST (R423): a write of word 0 with RST; its other fields take effect first. -/
def execDomcfgRst (d : BitVec 4) (v : Word) (s : State) : Host.Outcome State Fault Refusal :=
  if bitAt v 7 then
    let sets := bitAt v 4 && !(s.dom d).en
    let s := s.writeWord0 d v
    .next ((if sets then s.enable d else s).startReset d)
  else .next s

/-- DOMAIN_RESET_END (R423): RBUSY is cleared and queue 0 of an enabled domain is created again. -/
def execDomainResetEnd (d : BitVec 4) (s : State) : Host.Outcome State Fault Refusal :=
  let x := s.dom d
  if x.rbusy then
    .next (s.setDom d { x.setBit 8 false with queues := if x.en then [x.queue0] else [] })
  else .next s

/-- VF_FLR (R425). -/
def execVfFlr (d : BitVec 4) (s : State) : Host.Outcome State Fault Refusal := .next (s.startReset d)

/-- PF_FLR (R425): the PF's link-side registers, of which the spec gives none, are reset. -/
def execPfFlr (s : State) : Host.Outcome State Fault Refusal := .next s

/-! ## Other writes (R441) -/

/-- REGISTER_WRITE (R418, R427, R428, R441): a write of 8 bytes to a device register. DOMCFG word 0 with RST, or setting EN, has
rows of its own, as have RECOVGO and FPORT; words that are fixed while EN is 1, and offsets that hold no register, ignore it. -/
def execRegisterWrite (off : BitVec 24) (v : Word) (s : State) : Host.Outcome State Fault Refusal :=
  let o := off.toNat
  if o % 8 ≠ 0 then .next s
  else if 0x1000 ≤ o ∧ o < 0x1400 then
    let d := BitVec.ofNat 4 ((o - 0x1000) / 64)
    let n := o / 8 % 8
    let x := s.dom d
    if n = 0 then (if bitAt v 7 || (bitAt v 4 && !x.en) then .next s else .next (s.writeWord0 d v))
    else if x.en then .next s
    else .next (s.setDom d (x.setCfg n (maskWrite (cfgMask n) (vget x.cfg n) v)))
  else if 0x2000 ≤ o ∧ o < 0x2200 then
    let d := BitVec.ofNat 4 ((o - 0x2000) / 32)
    let n := o / 8 % 4
    let x := s.dom d
    if x.en then .next s
    else .next (s.setDom d { x with host := vset x.host n (maskWrite (hostMask n) (vget x.host n) v) })
  else if 0x3000 ≤ o ∧ o < 0x3400 then
    let d := BitVec.ofNat 4 ((o - 0x3000) / 64)
    let n := o / 8 % 8
    let x := s.dom d
    if x.en then .next s
    else .next (s.setDom d { x with q0 := vset x.q0 n (maskWrite (q0Mask n) (vget x.q0 n) v) })
  else .next s

/-! ## Reads of the registers (R431, R441) -/

/-- The 8 bytes of the PF's BAR0 at an offset that is a multiple of 8; the I3C target presents the same. Offsets that hold no
register read zero. -/
def State.pfReg (s : State) (o : Nat) : Word :=
  let p := s.pkg
  if o = 0x00 then p.bootstat
  else if o = 0x10 then p.tsstat
  else if o = 0x18 then bitTo 64 0 p.cmperr
  else if o = 0x20 then p.hlstat.setWidth 64
  else if 0x1000 ≤ o ∧ o < 0x1400 then vget (s.dom (BitVec.ofNat 4 ((o - 0x1000) / 64))).cfg (o / 8)
  else if 0x2000 ≤ o ∧ o < 0x2200 then vget (s.dom (BitVec.ofNat 4 ((o - 0x2000) / 32))).host (o / 8)
  else if 0x3000 ≤ o ∧ o < 0x3400 then vget (s.dom (BitVec.ofNat 4 ((o - 0x3000) / 64))).q0 (o / 8)
  else if 0x10000 ≤ o ∧ o < 0x10400 then (vget s.ports ((o - 0x10000) / 8)).state.setWidth 64
  else if 0x100000 ≤ o then p.discovery (o - 0x100000)
  else 0
/-- The 8 bytes of a VF's BAR0: a mirror of its domain's DOMCFG. -/
def State.vfReg (s : State) (d : BitVec 4) (o : Nat) : Word := if o < 0x40 then vget (s.dom d).cfg (o / 8) else 0

/-! ## The aperture (R430) -/

/-- The places of a host access through the aperture: every page resident, HTSO, LAYOUT 0x0 over frames tagged 0x0. -/
def State.aperturePlaces (s : State) (d : BitVec 4) : List (Nat × Nat × Nat) → Option (List Place)
  | [] => some []
  | (_, va, n) :: rest =>
    match s.walk d (BitVec.ofNat 52 va) with
    | .ok e =>
      let pa := e.pa.toNat + va % 2 ^ e.bits
      if e.ord = 3 ∧ e.layout = 0 ∧ e.tagOf pa = 0 then
        (State.aperturePlaces s d rest).map fun ps => run .phys pa n ++ ps
      else none
    | _ => none

/-- A host read is completed. -/
def State.complete (s : State) (r : HostResp) : State := { s with pkg := { s.pkg with resps := s.pkg.resps ++ [r] } }
/-- APERTURE_ACCESS (R430): a read or a write of the host at domain virtual address APBASE + off. A failed one is reported to
queue 0 of the domain; it posts no page request and arms no monitor. A read is completed with its bytes, or as an Unsupported
Request. -/
def execApertureAccess (d : BitVec 4) (off : BitVec 36) (len : BitVec 13) (wr : Option (List Byte)) (s : State) :
    Host.Outcome State Fault Refusal :=
  let x := s.dom d
  let va := fld (x.host.get 2) 0 52 + off.toNat
  if len = 0 ∨ !x.en then .next s
  else
    let s := s.mergeAll
    let ps := if va + len.toNat ≤ 2 ^ 52 then s.aperturePlaces d (frames va len.toNat) else none
    match ps with
    | none =>
      let s := if wr.isNone then s.complete .unsupported else s
      .next (s.report d 0 (mkRec { kind := 0x83, dom := d, addr := BitVec.ofNat 64 va, info := put 128 0 8 5 }))
    | some ps =>
      match wr with
      | none => .next (s.complete (.bytes (ps.map s.byteAt)))
      | some bs => .next (s.writePlaces (ps.take bs.length) (bs.take ps.length))

end Sys2Proof.Machine
end

