-- ==== Sys2Proof/Machine/Links.lean ====
section
/-! DEFINITION. Host links, fabric ports, routes and the global timestamp (spec/19 R425, R433-R437, R441). -/

namespace Sys2Proof.Machine
open Sys2Proof

/-- Change what the package holds outside the domains. -/
def State.modPkg (s : State) (f : Pkg → Pkg) : State := { s with pkg := f s.pkg }

/-! ## Host links (R425) -/

/-- HOST_LINK_STATE_CHANGE: the sixteen bits of a present HIO's link in HLSTAT; [15:10] are reserved. -/
def execHostLinkStateChange (link : BitVec 1) (v : BitVec 16) (s : State) : Host.Outcome State Fault Refusal :=
  if s.present (if link = 0 then 3 else 60) then
    .next (s.modPkg fun p => { p with hlstat := setFld p.hlstat (16 * link.toNat) 16 (fld v 0 10) })
  else .next s

/-! ## Fabric ports (R433-R435) -/

def State.port (s : State) (p : BitVec 7) : Port := s.ports.get p.toFin
def State.setPort (s : State) (p : BitVec 7) (x : Port) : State := { s with ports := s.ports.set p.toNat x p.isLt }
/-- The port's FIO instance is present (R25). -/
def State.portThere (s : State) (p : BitVec 7) : Bool := s.present (fioOf p)

/-- PORT_TRAINED: the port is up. How many buffer slots its receiver has is not given, and free. -/
def execPortTrained (p : BitVec 7) (s : State) : Host.Outcome State Fault Refusal :=
  if (s.port p).state = 1 ∧ s.portThere p then
    let (n, s) := s.freeNat
    .next (s.setPort p { state := 2, cred := Vector.ofFn fun i => n / 256 ^ i.val % 256 })
  else .next s

/-! ### Link flits (R433) -/

/-- TYPE of a link flit. -/
def flitType (f : BitVec 2048) : Nat := fld f 12 4
/-- A flit with its CRC. -/
def sealFlit (f : BitVec 2048) : BitVec 2048 := f ||| put 2048 2016 32 (crc32c ((toBytes f).take 252)).toNat
/-- The head of a flit that a port sends: its number, TYPE, the last flit received good, a request for replay, the buffer slots
given back. -/
def flitHead (x : Port) (type : Nat) (nak : Bool) (cred : BitVec 32) : BitVec 2048 :=
  put 2048 0 12 x.txseq.toNat ||| put 2048 12 4 type ||| put 2048 16 12 (x.rxseq - 1).toNat ||| bitTo 2048 28 nak |||
  put 2048 32 32 cred.toNat
/-- An idle flit, as a port sends it in answer. -/
def answerFlit (x : Port) (nak : Bool) (cred : BitVec 32) : BitVec 2048 := sealFlit (flitHead x 1 nak cred)
/-- A data flit with up to seven plate flits. -/
def dataFlit (x : Port) (l : List LinkSlot) : BitVec 2048 :=
  sealFlit (((l.take 7).zip (upTo 7)).foldl (init := flitHead x 0 false 0) fun f y =>
    f ||| bitTo 2048 (64 + 8 * y.2) true ||| bitTo 2048 (65 + 8 * y.2) y.1.first ||| put 2048 (66 + 8 * y.2) 3 y.1.vc.toNat |||
    put 2048 (128 + 256 * y.2) 256 y.1.data.toNat)

/-- A control flit; what READY, DRAINED and a timestamp hold is not given, and free. -/
def controlFlit (x : Port) (bits : BitVec 1792) : BitVec 2048 :=
  sealFlit (flitHead x 2 false 0 ||| put 2048 128 1792 bits.toNat)

/-- Flits stand unacknowledged. -/
def Port.outstanding (x : Port) : Bool := !x.unacked.isEmpty
/-- A flit is sent, and kept until it is acknowledged; at most 256 are. -/
def Port.send (x : Port) (f : LinkFlit) (gts : Word) : Port :=
  if 256 ≤ x.unacked.length then x
  else { x with txseq := x.txseq + 1, unacked := x.unacked ++ [f], since := if x.outstanding then x.since else gts }
/-- The answer to a flit received. -/
def Port.answer (x : Port) (nak : Bool) (cred : BitVec 32) (gts : Word) : Port := x.send { bits := answerFlit x nak cred } gts

/-- The plate flits, in order, for which the receiver has room, n at most; with the room that remains. Those that are held are
passed over. -/
def takeSlots (held : LinkSlot → Bool) (cred : Vector Nat 8) : Nat → List LinkSlot → List LinkSlot × List LinkSlot × Vector Nat 8
  | _, [] => ([], [], cred)
  | 0, y :: t => ([], y :: t, cred)
  | n + 1, y :: t =>
    if held y then
      let (a, b, cred) := takeSlots held cred (n + 1) t
      (a, y :: b, cred)
    else
      let c := cred.get y.vc.toFin
      if c = 0 then ([], y :: t, cred)
      else
        let (a, b, cred) := takeSlots held (cred.set y.vc.toNat (c - 1) y.vc.isLt) n t
        (y :: a, b, cred)
/-- Whether a plate flit stays: its packet is of a job that a gang switch has stopped, and none of it has been sent (R404). -/
def State.linkHolds (s : State) (x : Port) (y : LinkSlot) : Bool :=
  (s.gangs.any fun g => g.dom == y.dom && g.job == y.job && g.bars) && x.txq.any fun z => z.first && z.pkt == y.pkt
/-- The peers whose set of ports holds a port. -/
def State.routedBy (s : State) (p : BitVec 7) (peer : BitVec 12) : Bool := (sget [] s.pkg.route peer.toNat).contains p
/-- READY and DRAINED travel in control flits (R433). -/
def FabMsg.control (m : FabMsg) : Bool :=
  match m.body with
  | .ready => true
  | .drained => true
  | _ => false
/-- A control flit leaves through a port. -/
def State.sendControl (s : State) (p : BitVec 7) (msg : Option FabMsg) : State :=
  let x := s.port p
  { s.setPort p (x.send { bits := controlFlit x (Config.controlBits s.fresh), msg := msg } s.gts) with fresh := s.fresh + 1 }
/-- A port that is up sends: a control message for a package that it leads to, or plate flits that wait, seven to a data flit. -/
def State.transmit (s : State) (p : BitVec 7) : State :=
  let x := s.port p
  if x.state ≠ 2 ∨ 256 ≤ x.unacked.length then s
  else match s.fabout.find? fun m => m.control && s.routedBy p m.dst with
    | some m => ({ s with fabout := s.fabout.erase m } : State).sendControl p (some m)
    | none => match takeSlots (s.linkHolds x) x.cred 7 x.txq with
      | ([], _, _) => s
      | (l, rest, cred) => s.setPort p ({ x with txq := rest, cred := cred }.send { bits := dataFlit x l, slots := l } s.gts)
/-- The other messages travel as packets of the job, from the SCH; one without an up port to its package is discarded (R435). -/
def State.postMessages (s : State) : State :=
  let out := s.fabout.filter fun m => !m.control
  out.foldl (init := { s with fabout := s.fabout.filter FabMsg.control }) fun s m =>
    (s.sendPacket { dom := m.dom, job := m.job, src := 27 } m.dst none vcMsg []).2

/-- Four bits per virtual channel: the slots of a data flit that are free again. -/
def credOf (f : BitVec 2048) : BitVec 32 :=
  (upTo 7).foldl (fun (c : BitVec 32) k =>
    if bitAt f (64 + 8 * k) then
      let vc := fld f (64 + 8 * k + 2) 3
      setFld c (4 * vc) 4 (fld c (4 * vc) 4 + 1)
    else c) 0
/-- The slots that a flit gives back. -/
def Port.credit (x : Port) (f : BitVec 2048) : Port :=
  { x with cred := Vector.ofFn fun i => x.cred.get i + fld f (32 + 4 * i.val) 4 }
/-- The plate flits of a data flit join their packets, each on its virtual channel. -/
def Port.deliver (x : Port) (f : BitVec 2048) : Port :=
  if flitType f ≠ 0 then x
  else (upTo 7).foldl (init := x) fun x k =>
    if bitAt f (64 + 8 * k) then
      let vc : BitVec 3 := fldv f (66 + 8 * k) 3
      let old := if bitAt f (65 + 8 * k) then [] else x.rx.get vc.toFin
      { x with rx := x.rx.set vc.toNat (old ++ [fldv f (128 + 256 * k) 256]) vc.isLt }
    else x
/-- The flits up to an acknowledged one are no longer kept; an acknowledgement of one ends its replays. -/
def Port.acked (x : Port) (ack : Nat) (gts : Word) : Port :=
  if x.unacked.any fun f => fld f.bits 0 12 == ack then
    { x with unacked := (x.unacked.dropWhile fun f => fld f.bits 0 12 != ack).tail, replays := 0, since := gts }
  else x

/-! ### A port goes down (R434, R435) -/

/-- The numbers of the packets that a port holds, or has sent and not seen acknowledged. -/
def Port.pkts (x : Port) : List Nat := dedup (x.held.map (·.pkt))
/-- The writes whose packets are discarded are refused (R90). -/
def refuseAll (ks : List Nat) : List PeerOut → State → State
  | [], s => s
  | o :: rest, s => refuseAll ks rest (if ks.contains o.pkt then s.answerPeer o.pkt true else s)

/-- Packets of gang switches that stood at the port, received, to be sent, or unacknowledged, are counted as lost (R407). -/
def State.losePort (s : State) (p : BitVec 7) (x : Port) : State :=
  let here (n : NetPkt) : Bool := n.fab && n.port == p
  let out := (s.net.filter here).map (fun n => (n.dom, n.job)) ++ x.pkts.filterMap fun k =>
    (x.held.find? fun y => y.pkt == k).map fun y => (y.dom, y.job)
  out.foldl (init := { s with net := s.net.filter fun n => !here n }) fun s j =>
    match s.gangs.find? fun g => g.dom == j.1 && g.job == j.2 && g.stops with
    | none => s
    | some g =>
      let s := s.putHdr g.dom g.proof 0x28 4 (min (s.hdr g.dom g.proof 0x28 4 + 1) (2 ^ 32 - 1))
      if g.closed ∧ s.hdr g.dom g.proof 2 1 = 2 then s.seal g else s

/-- What a port held or had not seen acknowledged is discarded: writes are refused, collective entries whose packets these are end
with code 0x06 (R434); control messages go out again through another port (log entry 59). `x` is the port as it was. -/
def State.discard (s : State) (p : BitVec 7) (x : Port) : State :=
  let ks := x.pkts
  let s := ((refuseAll ks s.peers s).losePort p x).endColls (fun e _ => e.pkts.any ks.contains) 6
  { s with fabout := x.unacked.filterMap (·.msg) ++ s.fabout }
/-- A port that is up goes down: FPORT.STATE, PF vector 1, the log, and what the port held. -/
def State.portFails (s : State) (p : BitVec 7) : State :=
  let x := s.port p
  let s := (s.setPort p { state := 3 }).interrupt 0 1
  let (_, s) := s.logEvent 6 (fioOf p) 0 none p.toNat
  s.discard p x
/-- FPORT_RETRAIN (R434, R441): a write with the retrain bit puts a port into training. What a port that is up still holds is discarded
as when it goes down (log entry 59). -/
def execFportRetrain (p : BitVec 7) (v : Word) (s : State) : Host.Outcome State Fault Refusal :=
  if bitAt v 2 ∧ s.portThere p ∧ (s.port p).state ≠ 0 then .next ((s.setPort p { state := 1 }).discard p (s.port p)) else .next s

/-- No acknowledgement has come for 100 µs while flits are outstanding. -/
def Port.silent (x : Port) (gts : Word) : Bool := x.state == 2 && x.outstanding && decide (x.since.toNat + 100000 ≤ gts.toNat)
/-- PORT_DOWN (R434): an up port without an acknowledgement for 100 µs. Eight failed replays are seen where the last NAK
comes. -/
def execPortDown (p : BitVec 7) (s : State) : Host.Outcome State Fault Refusal :=
  if (s.port p).silent s.gts then .next (s.portFails p) else .next s

/-- A good flit that asks for a replay: the kept flits travel again, unless the last of 8 replays has failed (R434). -/
def State.replay (s : State) (p : BitVec 7) : State :=
  let x := s.port p
  if x.unacked = [] then s
  else if 8 ≤ x.replays then s.portFails p
  else s.setPort p { x with replays := x.replays + 1 }

/-- FLIT_RECEIVED (R433): a flit with a bad CRC or an unexpected FSEQ is discarded and answered with NAK; a good one is
delivered once and in order, drops what it acknowledges, gives back buffer slots, and a data or control flit is
acknowledged. A NAK makes the kept flits travel again. What a delivered packet asks for are events of their own. -/
def execFlitReceived (p : BitVec 7) (f : BitVec 2048) (s : State) : Host.Outcome State Fault Refusal :=
  let x := s.port p
  if x.state ≠ 2 then .next s
  else if (crc32c ((toBytes f).take 252)).toNat ≠ fld f 2016 32 ∨ fld f 0 12 ≠ x.rxseq.toNat then
    .next (s.setPort p (x.answer true 0 s.gts))
  else
    let x := ((({ x with rxseq := x.rxseq + 1 } : Port).acked (fld f 16 12) s.gts).credit f).deliver f
    let s := s.setPort p (if flitType f = 1 then x else x.answer false (credOf f) s.gts)
    .next (if bitAt f 28 then s.replay p else s)

/-- ROUTE_TABLE_WRITE (R435): the set of up to 16 ports of a peer. -/
def execRouteTableWrite (peer : BitVec 12) (ports : List (BitVec 7)) (s : State) : Host.Outcome State Fault Refusal :=
  .next (s.modPkg fun p => { p with route := sput [] p.route peer.toNat (ports.take 16) })

/-! ## The global timestamp (R437) -/

/-- TSSTAT with LOCK and OFFS. -/
def Pkg.setLock (p : Pkg) (locked : Bool) (offs : BitVec 32) : Pkg :=
  { p with tsstat := setFld (setFld p.tsstat 0 1 (if locked then 1 else 0)) 32 32 offs.toNat }

/-- Each millisecond a package that is not the grand master sends a timestamp flit on each up port toward it. -/
def State.sendStamps (s : State) : State :=
  if bitAt s.pkg.tsstat 1 || decide (s.gts.toNat < s.pkg.tsSent.toNat + 1000000) then s
  else (s.upPorts (fldv s.pkg.tsstat 16 12)).foldl (fun s p => s.sendControl p none) (s.modPkg fun p => { p with tsSent := s.gts })
/-- TIMESTAMP_EXCHANGE: a timestamp flit is received; the offset measured from the grand master, and the count is slewed as gts()
advances (log entry 6). The grand master itself measures nothing. -/
def execTimestampExchange (offs : BitVec 32) (locked : Bool) (s : State) : Host.Outcome State Fault Refusal :=
  let s := s.modPkg fun p => { p with tsLast := s.gts }
  if bitAt s.pkg.tsstat 1 then .next s else .next (s.modPkg fun p => p.setLock locked offs)

/-- No timestamp flit has come for 10 ms. -/
def State.stampLost (s : State) : Bool := decide (s.pkg.tsLast.toNat + 10000000 ≤ s.gts.toNat)
/-- TIMESTAMP_LOCK_LOSS: without a timestamp flit for 10 ms LOCK is cleared. -/
def execTimestampLockLoss (s : State) : Host.Outcome State Fault Refusal :=
  .next (if s.stampLost then s.modPkg fun p => { p with tsstat := setFld p.tsstat 0 1 0 } else s)

/-- TIMESTAMP_SET: a step forward, before any context runs. -/
def execTimestampSet (ns : Word) (s : State) : Host.Outcome State Fault Refusal :=
  if !s.pkg.ran ∧ s.gts.ult ns then .next { s with gts := ns } else .next s

/-- GRAND_MASTER_CHOICE. -/
def execGrandMasterChoice (gm : Bool) (no : BitVec 12) (s : State) : Host.Outcome State Fault Refusal :=
  .next (s.modPkg fun p => { p with tsstat := setFld (setFld p.tsstat 1 1 (if gm then 1 else 0)) 16 12 no.toNat })

end Sys2Proof.Machine
end

