-- ==== Sys2Proof/Machine/Xmss.lean ====
section
/-! DEFINITION. SHAKE256 and the XMSS-SHAKE256_20_256 parameter set of NIST SP 800-208 (spec/19 R439; spec/20 R451): n = 32, w = 16,
tree height 20. The spec names the standard; its hash functions and addresses are taken from there (log entry 60). -/

namespace Sys2Proof.Machine
open Sys2Proof

/-! ## SHAKE256 -/

/-- The 1,600 bits of the permutation as 25 lanes; lane x of plane y stands at x + 5y. -/
abbrev Lanes := Vector (BitVec 64) 25

def keccakRounds : List (BitVec 64) :=
  [0x0000000000000001, 0x0000000000008082, 0x800000000000808A, 0x8000000080008000, 0x000000000000808B, 0x0000000080000001,
   0x8000000080008081, 0x8000000000008009, 0x000000000000008A, 0x0000000000000088, 0x0000000080008009, 0x000000008000000A,
   0x000000008000808B, 0x800000000000008B, 0x8000000000008089, 0x8000000000008003, 0x8000000000008002, 0x8000000000000080,
   0x000000000000800A, 0x800000008000000A, 0x8000000080008081, 0x8000000000008080, 0x0000000080000001, 0x8000000080008008]
/-- Rotation of each lane. -/
def keccakRot : List Nat := [0, 1, 62, 28, 27, 36, 44, 6, 55, 20, 3, 10, 43, 25, 39, 41, 45, 15, 21, 8, 18, 2, 61, 56, 14]

def keccakRound (rc : BitVec 64) (a : Lanes) : Lanes :=
  let l (x y : Nat) : BitVec 64 := vget a (x % 5 + 5 * (y % 5))
  let c (x : Nat) : BitVec 64 := l x 0 ^^^ l x 1 ^^^ l x 2 ^^^ l x 3 ^^^ l x 4
  let cs : Vector (BitVec 64) 5 := Vector.ofFn fun i => c i.val
  let d (x : Nat) : BitVec 64 := vget cs ((x + 4) % 5) ^^^ (vget cs ((x + 1) % 5)).rotateLeft 1
  let t : Lanes := Vector.ofFn fun i => vget a i.val ^^^ d (i.val % 5)
  let b : Lanes := Vector.ofFn fun i =>
    let k := (i.val % 5 + 3 * (i.val / 5)) % 5 + 5 * (i.val % 5)
    (vget t k).rotateLeft (keccakRot.getD k 0)
  Vector.ofFn fun i =>
    let x := i.val % 5
    let y := 5 * (i.val / 5)
    let v := vget b i.val ^^^ (~~~(vget b ((x + 1) % 5 + y)) &&& vget b ((x + 2) % 5 + y))
    if i.val = 0 then v ^^^ rc else v
def keccak (a : Lanes) : Lanes := keccakRounds.foldl (fun a rc => keccakRound rc a) a

/-- Blocks of 136 bytes absorbed one after another. -/
def absorb : Nat → List Byte → Lanes → Lanes
  | 0, _, a => a
  | n + 1, bs, a =>
    absorb n (bs.drop 136) (keccak (Vector.ofFn fun i =>
      if i.val < 17 then vget a i.val ^^^ ofBytes 64 ((bs.drop (8 * i.val)).take 8) else vget a i.val))
/-- The first 32 bytes of SHAKE256. -/
def shake256 (bs : List Byte) : List Byte :=
  let n := bs.length / 136 + 1
  let pad := n * 136 - bs.length
  let tail : List Byte := if pad = 1 then [0x9F] else 0x1F :: List.replicate (pad - 2) 0 ++ [0x80]
  let a := absorb n (bs ++ tail) (Vector.replicate 25 0)
  ((upTo 4).map fun k => toBytes (vget a k)).flatten

/-! ## The hash functions and addresses -/

/-- A number in n bytes, the most significant first. -/
def beBytes (n v : Nat) : List Byte := (leBytes n v).reverse
def beNat (bs : List Byte) : Nat := leNat bs.reverse
def xorBytes (a b : List Byte) : List Byte := (a.zip b).map fun p => p.1 ^^^ p.2

def xmF (key m : List Byte) : List Byte := shake256 (beBytes 32 0 ++ key ++ m)
def xmH (key m : List Byte) : List Byte := shake256 (beBytes 32 1 ++ key ++ m)
def xmMsg (key m : List Byte) : List Byte := shake256 (beBytes 32 2 ++ key ++ m)
def xmPrf (key m : List Byte) : List Byte := shake256 (beBytes 32 3 ++ key ++ m)
/-- An address: type 0 of a one-time signature, 1 of an L-tree, 2 of the hash tree, then three words and the last, which names a key
or a mask. -/
def xmAdrs (type a b c mask : Nat) : List Byte :=
  beBytes 12 0 ++ beBytes 4 type ++ beBytes 4 a ++ beBytes 4 b ++ beBytes 4 c ++ beBytes 4 mask
/-- Two nodes under their masks. -/
def randHash (seed l r : List Byte) (type a b c : Nat) : List Byte :=
  let p (k : Nat) : List Byte := xmPrf seed (xmAdrs type a b c k)
  xmH (p 0) (xorBytes l (p 1) ++ xorBytes r (p 2))

/-! ## One-time signatures -/

/-- n steps of chain `ch` of one-time key `ots`, from step `i`. -/
def chainFrom (seed : List Byte) (ots ch : Nat) : Nat → Nat → List Byte → List Byte
  | 0, _, x => x
  | n + 1, i, x =>
    let p (k : Nat) : List Byte := xmPrf seed (xmAdrs 0 ots ch i k)
    chainFrom seed ots ch n (i + 1) (xmF (p 0) (xorBytes x (p 1)))
/-- The hexadecimal digits of bytes, the high one of each first. -/
def hexDigits (bs : List Byte) : List Nat := (bs.map fun b => [b.toNat / 16, b.toNat % 16]).flatten
/-- The 67 digits of a 32-byte digest: its own, then three of their checksum. -/
def otsDigits (m : List Byte) : List Nat :=
  let ds := hexDigits m
  ds ++ (hexDigits (beBytes 2 ((ds.map fun d => 15 - d).sum * 16))).take 3
/-- One level of an L-tree: pairs are joined, an odd node goes up as it is. -/
def ltreeLevel (seed : List Byte) (ots h : Nat) : Nat → List (List Byte) → List (List Byte)
  | i, l :: r :: t => randHash seed l r 1 ots h i :: ltreeLevel seed ots h (i + 1) t
  | _, l => l
/-- The root of an L-tree of 67 nodes, after 7 levels. -/
def ltree (seed : List Byte) (ots : Nat) (l : List (List Byte)) : List Byte :=
  ((upTo 7).foldl (fun l h => ltreeLevel seed ots h 0 l) l).headD []

/-! ## Verification (R439) -/

/-- The k-th 32 bytes. -/
def word32 (bs : List Byte) (k : Nat) : List Byte := (bs.drop (32 * k)).take 32
/-- The digest that a signature signs: its randomizer, the root and its index go before the message. -/
def xmDigest (r root : List Byte) (idx : Nat) (m : List Byte) : List Byte := xmMsg (r ++ root ++ beBytes 32 idx) m
/-- The root from a leaf and its path. -/
def rootFrom (seed : List Byte) (idx : Nat) (auth : List Byte) (leaf : List Byte) : List Byte :=
  (upTo 20).foldl (init := leaf) fun x k =>
    let y := word32 auth k
    let l := if idx / 2 ^ k % 2 = 0 then (x, y) else (y, x)
    randHash seed l.1 l.2 2 0 k (idx / 2 ^ (k + 1))
/-- The OID of the one parameter set. -/
def xmssOid : List Byte := beBytes 4 0x12
/-- A 2,820-byte signature of a message verifies under a 68-byte public key: OID, root, seed. -/
def xmssOk (key m sig : List Byte) : Bool :=
  let root := (key.drop 4).take 32
  let seed := (key.drop 36).take 32
  let idx := beNat (sig.take 4)
  let ots := sig.drop 36
  let d := otsDigits (xmDigest ((sig.drop 4).take 32) root idx m)
  let pk := (d.zip (upTo 67)).map fun x => chainFrom seed idx x.2 (15 - x.1) x.1 (word32 ots x.2)
  key.length == 68 && key.take 4 == xmssOid && sig.length == 2820 && decide (idx < 2 ^ 20) &&
    rootFrom seed idx (ots.drop (32 * 67)) (ltree seed idx pk) == root

/-! ## Signing (R451) -/

/-- A private key: the start of each chain of each one-time key, what randomizers are made from, and the public seed. -/
structure XmssKey where
  chain : Nat → Nat → BitVec 256
  prf : BitVec 256
  seed : BitVec 256
/-- A leaf: the L-tree of the ends of the chains of a one-time key. -/
def XmssKey.leaf (k : XmssKey) (i : Nat) : List Byte :=
  ltree (toBytes k.seed) i ((upTo 67).map fun c => chainFrom (toBytes k.seed) i c 15 0 (toBytes (k.chain i c)))
/-- A node of the hash tree, by height and position. -/
def XmssKey.node (k : XmssKey) : Nat → Nat → List Byte
  | 0, i => k.leaf i
  | h + 1, i => randHash (toBytes k.seed) (k.node h (2 * i)) (k.node h (2 * i + 1)) 2 0 h i
/-- The public key, 68 bytes. -/
def XmssKey.pub (k : XmssKey) : List Byte := xmssOid ++ k.node 20 0 ++ toBytes k.seed
/-- The signature of a message with one-time key i: index, randomizer, chains, path. -/
def XmssKey.sign (k : XmssKey) (i : Nat) (m : List Byte) : List Byte :=
  let r := xmPrf (toBytes k.prf) (beBytes 32 i)
  let d := otsDigits (xmDigest r (k.node 20 0) i m)
  beBytes 4 i ++ r ++ ((d.zip (upTo 67)).map fun x => chainFrom (toBytes k.seed) i x.2 x.1 0 (toBytes (k.chain i x.2))).flatten ++
    ((upTo 20).map fun h => k.node h ((i / 2 ^ h) ^^^ 1)).flatten

end Sys2Proof.Machine
end

