-- ==== Sys2Proof/Machine/Fleet.lean ====
section
/-! DEFINITION. Boot and recovery (spec/19 R438-R440), failures and the error log (R116, R384, R432, R443-R445), and the
management plane (spec/20 R442, R447-R452). -/

namespace Sys2Proof.Machine
open Sys2Proof

/-! ## Boot (R438-R440) -/

/-- The vector of an I3C in-band interrupt among the interrupts sent. -/
def ibi : Nat := 255

/-- The rules of an image header (R439). -/
def imageHead (im : List Byte) : Bool :=
  let len := leNat ((im.drop 4).take 4)
  leNat (im.take 2) == 1 && decide (64 ≤ len ∧ len ≤ 2 ^ 24) && (im.drop 2).take 2 == [0, 0] &&
  (im.drop 12).take 52 == List.replicate 52 0
/-- Header and payload. -/
def imageBody (im : List Byte) : List Byte := im.take (leNat ((im.drop 4).take 4))
def imageVersion (im : List Byte) : BitVec 32 := ofBytes 32 ((im.drop 8).take 4)

/-- The 2,820 bytes after header and payload are their signature under the vendor's key; no other parameter set is accepted (R439). -/
def imageSigned (im : List Byte) : Bool :=
  xmssOk ((upTo 68).map Config.vendorKey) (imageBody im) ((im.drop (imageBody im).length).take 2820)

/-- BOOTSTAT of an attempt: STAGE, CODE, UNIT, TRIES, VERSION, MINVER (R440). -/
def bootWord (stage code unit tries : Nat) (version minver : BitVec 32) : Word :=
  put 64 0 3 stage ||| put 64 8 8 code ||| put 64 16 8 unit ||| put 64 24 8 tries ||| put 64 32 16 version.toNat |||
  put 64 48 16 minver.toNat

/-- PF vector 0 on every trained host link (R440). -/
def State.interruptLinks (s : State) : State :=
  let up : List (BitVec 1) := (if bitAt s.pkg.hlstat 8 then [0] else []) ++ (if bitAt s.pkg.hlstat 24 then [1] else [])
  s.modPkg fun p => { p with irqs := p.irqs ++ up.map fun l => { fn := 0, vec := 0, link := l } }
/-- The attempt stops: PF vector 0 on the trained host links, an in-band interrupt, and the ROM waits. -/
def State.bootFails (s : State) (stage code unit tries : Nat) : State :=
  let s := s.modPkg fun p => { p with bootstat := bootWord stage code unit tries 0 p.minver }
  s.interruptLinks.interrupt 0 ibi

/-- Step 6 has trained the links of the HIO instances that are present (R425, R438). -/
def State.trainLinks (s : State) (v : BitVec 32) : State :=
  let half (h : BitVec 32) (k : BitVec 6) (lo : Nat) : BitVec 32 := if s.present k then setFld h lo 16 (fld v lo 10) else h
  s.modPkg fun p => { p with hlstat := half (half p.hlstat 3 0) 60 16 }
/-- Steps 3 to 6 on an image; the firmware that runs names the package, in its domains' DOMCFG too, and writes its routes (R418,
R435). -/
def State.bootImage (s : State) (im : List Byte) (o : BootObs) (tries : Nat) : State :=
  if !imageHead im then s.bootFails 3 3 0 tries
  else if !imageSigned im then s.bootFails 4 4 0 tries
  else if (imageVersion im).ult s.pkg.minver then s.bootFails 5 5 0 tries
  else
    let s := s.trainLinks o.hlstat
    match o.unitFail with
    | some u => s.bootFails 6 6 u.toNat tries
    | none =>
      let route := (Config.bootRoute s.fresh).foldl (fun m e => sput [] m e.1 (e.2.take 16)) []
      let no := Config.bootPkgno s.fresh
      { s with
        fresh := s.fresh + 1
        doms := s.doms.map fun x => x.setCfg 5 (setFld (x.cfg.get 5) 32 12 no.toNat)
        pkg := { s.pkg with
          version := imageVersion im, digest := ofBytes 256 (shake256 (imageBody im)), pkgno := no, route := route
          bootstat := bootWord 7 0 0 tries (imageVersion im) s.pkg.minver } }

/-- The bytes where the ROM reads an image from module flash. -/
def State.readImage (s : State) : List Byte × State := (Config.image s.fresh, { s with fresh := s.fresh + 1 })
/-- What the host has written into the buffer of PF BAR2, 16 MiB. -/
def State.bar2Wrote (s : State) (ws : List (Nat × Byte)) : State :=
  s.modPkg fun p => { p with bar2 := ws.foldl (fun m w => if w.1 < 2 ^ 24 then Memory.set m w.1 w.2 else m) p.bar2 }
/-- The image in the buffer of PF BAR2: its header says how much is header and payload, and the signature follows; nothing of it lies
beyond the buffer. -/
def State.bufferImage (s : State) : List Byte :=
  let len := leNat (Memory.getN s.pkg.bar2 4 4)
  Memory.getN s.pkg.bar2 0 (min (max 64 len + 2820) (2 ^ 24))

/-- The compute cores that a population has enabled (R19, R20). -/
def Pkg.popCores (p : Pkg) : List Core :=
  ((upTo 64).map fun k =>
    let e := vget p.pop k
    if e.state = 2 ∧ isCompute (designMap.getD k 0) then
      ((upTo 16).filter fun c => e.cores.getLsbD c).map fun c => coreReset (BitVec.ofNat 6 k) (BitVec.ofNat 4 c)
    else []).flatten
/-- LIVE of a socket as the package comes up (R443): the enabled cores, or the second-tier devices: four on CXL, one of LPDDR. -/
def Pkg.popLive (p : Pkg) (k : Nat) : BitVec 16 :=
  let e := vget p.pop k
  if e.state ≠ 2 then 0
  else match designMap.getD k 0 with
    | 8 => if e.clsinfo.getLsbD 2 then 0xF else 1
    | 1 | 2 | 3 | 4 => e.cores
    | _ => 0
/-- The package comes up with the cores of its population; the model's focus is on the first of them. -/
def State.populate (s : State) : State :=
  let s := { s with
    ports := Vector.ofFn fun i => { state := if s.present (fioOf (BitVec.ofNat 7 i.val)) then 1 else 0 }
    pkg := { s.pkg with health := Vector.ofFn fun i => { live := s.pkg.popLive i.val } } }
  match s.pkg.popCores with
  | [] => { s with core := { s.core with live := false }, cores := [] }
  | k :: ks => { s with ctx := { id := { loc := { sock := k.sock, core := k.num, part := 0 }, pos := 0, harv := false } }, core := k, cores := ks }
/-- The machine after a reset of the package, before it boots: what fuses and persistent counters hold is kept, host memory is the
host's, and the model's own counters go on. -/
def State.restart (s : State) : State :=
  let r := State.reset
  State.populate { r with
    hostmem := s.hostmem, nextAway := s.nextAway, waitNext := s.waitNext
    tick := s.tick, fresh := s.fresh, inbox := s.inbox
    pkg := { r.pkg with
      stepping := s.pkg.stepping, bin := s.pkg.bin, pkgid := s.pkg.pkgid, pop := s.pkg.pop, minver := s.pkg.minver, xmss := s.pkg.xmss } }

/-- PACKAGE_RESET (R438): the boot ROM's six steps; the first that fails stops the sequence. -/
def execPackageReset (o : BootObs) (s : State) : Host.Outcome State Fault Refusal :=
  let s := s.restart
  if !o.selfTest then .next (s.bootFails 1 1 0 0)
  else if !o.flash then .next (s.bootFails 2 2 0 0)
  else
    let (im, s) := s.readImage
    .next (s.bootImage im o 0)

/-- RECOVGO (R440): writing 1 after a failure repeats steps 3 to 6 on the image in the buffer of PF BAR2; TRIES saturates at 255. -/
def execRecovgo (v : Word) (o : BootObs) (s : State) : Host.Outcome State Fault Refusal :=
  if v = 1 ∧ fld s.pkg.bootstat 8 8 ≠ 0 ∧ fld s.pkg.bootstat 0 3 ≠ 7 then
    .next (s.bootImage s.bufferImage o (min 255 (fld s.pkg.bootstat 24 8 + 1)))
  else .next s

/-- POWER_LOSS (R451): volatile state is lost; the persistent counters and the fuses stay. -/
def execPowerLoss (s : State) : Host.Outcome State Fault Refusal :=
  .next (({ s.restart with inbox := [] } : State).modPkg fun p => { p with powered := false })

/-- CAMPION_MISMATCH (R384, R441): the firmware complex stops; the mismatch is reported and logged. -/
def execCampionMismatch (s : State) : Host.Outcome State Fault Refusal :=
  let s := (s.modPkg fun p => { p with cmperr := true }).interrupt 0 0 |>.interrupt 0 ibi
  .next (s.logEvent 0x0B 27 0 none 0).2

/-! ## Errors and failures -/

/-- Where an error is found: its socket, core and physical address, which only memory has; none where nothing stands. -/
def State.errAt (s : State) (e : ErrPlace) : Option (BitVec 6 × BitVec 4 × Nat) :=
  match e with
  | .phys pa => if s.physOk pa.toNat 1 then some (fldv pa 46 6, 0, pa.toNat) else none
  | .spad k c o => if (s.coreAt k c).isSome ∧ o.toNat < spadBytes (classOf k) then some (k, c, 0) else none
  | .carve k _ _ => if s.present k ∧ classOf k = 5 then some (k, 0, 0) else none
  | .tile k c _ _ => if (s.coreAt k c).isSome ∧ (classOf k = 1 ∨ classOf k = 2) then some (k, c, 0) else none
/-- The line or tile row is poisoned (R116). -/
def State.poisonPlace (s : State) (e : ErrPlace) : State :=
  let onCore (k : BitVec 6) (c : BitVec 4) (f : Core → Core) : State := s.mapCores fun x => if x.isAt k c then f x else x
  match e with
  | .phys pa => { s with mpois := sput false s.mpois (pa.toNat / 64) true }
  | .spad k c o => onCore k c fun x => { x with spois := sput false x.spois (o.toNat / 64) true }
  | .carve k w o => { s with lpois := sput false s.lpois (((w.toNat * 64 + k.toNat) * 2 ^ 25 + o.toNat) / 64) true }
  | .tile k c t r => onCore k c fun x => { x with tpois := sput false x.tpois (rowKey t.toNat r.toNat) true }
/-- UNCORRECTABLE_ERROR (R116, R443, R445): the line or the tile row is poisoned; the event is logged and counted in its socket. -/
def execUncorrectableError (e : ErrPlace) (s : State) : Host.Outcome State Fault Refusal :=
  match s.errAt e with
  | none => .next s
  | some (k, c, pa) =>
    let (n, s) := s.logEvent 1 k c none pa
    .next ((s.countError k n).poisonPlace e)

/-- CORRECTABLE_ERROR (R443). -/
def execCorrectableError (sock : BitVec 6) (s : State) : Host.Outcome State Fault Refusal :=
  if (s.pkg.pop.get sock.toFin).state = 2 then .next (s.modHealth sock fun h => { h with cecnt := up32 h.cecnt }) else .next s

/-- The bound contexts of a core fail (R424, R444). -/
def State.failCore (s : State) (sock : BitVec 6) (core : BitVec 4) : State :=
  let s := (s.mapCores fun k => if k.isAt sock core then { k with live := false } else k).modHealth sock fun h =>
    { h with live := h.live &&& ~~~(BitVec.ofNat 16 (2 ^ core.toNat)) }
  ((s.boundOn sock core).map (·.id)).foldl State.failCtx s

/-- CORE_FAILURE (R444): a working compute core fails; it is logged, and every context on it fails. -/
def execCoreFailure (sock : BitVec 6) (core : BitVec 4) (s : State) : Host.Outcome State Fault Refusal :=
  if (s.coreAt sock core).any (·.live) ∧ s.present sock then
    .next ((s.logEvent 3 sock core none 0).2.failCore sock core)
  else .next s

/-- CHIPLET_FAILURE (R443): the chiplet has failed as a whole, its cores with it. -/
def execChipletFailure (sock : BitVec 6) (s : State) : Host.Outcome State Fault Refusal :=
  if s.present sock then
    let s := (s.logEvent 4 sock 0 none 0).2
    let s := ((upTo 16).map (BitVec.ofNat 4)).foldl (fun s c => if (s.coreAt sock c).any (·.live) then s.failCore sock c else s) s
    .next (s.modHealth sock fun h => { h with failed := true, live := 0 })
  else .next s

/-- SECOND_TIER_DEVICE_DOWN (R432, R443): the device's frames return poison from now on. -/
def execSecondTierDeviceDown (sock : BitVec 6) (dev : BitVec 2) (s : State) : Host.Outcome State Fault Refusal :=
  if s.present sock ∧ classOf sock = 8 ∧ (s.pkg.health.get sock.toFin).live.getLsbD dev.toNat then
    let s := (s.logEvent 5 sock 0 none dev.toNat).2
    .next (s.modHealth sock fun h => { h with live := h.live &&& ~~~(BitVec.ofNat 16 (2 ^ dev.toNat)) })
  else .next s

/-! ## Power and temperature (R448-R450) -/

/-- POWER_CAP_STEP (R449): each millisecond one step of the arithmetic clock, between 7 and 16 sixteenths. -/
def execPowerCapStep (pin : BitVec 16) (s : State) : Host.Outcome State Fault Refusal :=
  let p := s.pkg
  let low := decide (pin.toNat * 100 < p.pcap.toNat * 97)
  if p.pcap.ult pin then
    let s := if p.capping then s else (s.logEvent 9 27 0 none 0).2
    .next (s.modPkg fun p => { p with pin := pin, lowms := false, capping := true, clk := if 7 < p.clk.toNat then p.clk - 1 else p.clk })
  else
    let clk := if low && p.lowms && decide (p.clk.toNat < 16) then p.clk + 1 else p.clk
    .next (s.modPkg fun p => { p with pin := pin, lowms := low, clk := clk, capping := p.capping && clk != 16 })

/-- A temperature at or above a threshold, signed. -/
def atLeast (t : BitVec 16) (n : Int) : Bool := decide (n ≤ t.toInt)
/-- The hottest socket: the present one with the highest TEMP, the lowest on a tie. -/
def State.hottest (s : State) : BitVec 16 × BitVec 6 :=
  (upTo 64).foldl (fun a k =>
    let h := vget s.pkg.health k
    if (vget s.pkg.pop k).state == 2 && decide (a.1.toInt < h.temp.toInt) then (h.temp, BitVec.ofNat 6 k) else a) (0x8000, 0)

/-- What a threshold reached brings about. -/
def State.thermal (s : State) (etype : Nat) (k : BitVec 6) : State := ((s.logEvent etype k 0 none 0).2.interrupt 0 2).interrupt 0 ibi

/-- THERMAL_CROSSING (R450): a socket's hottest sensor reads a new temperature; TWARN and TCRIT are each reported once for a
crossing, and TCRIT asserts the alert pin. -/
def execThermalCrossing (sock : BitVec 6) (temp : BitVec 16) (s : State) : Host.Outcome State Fault Refusal :=
  if (s.pkg.pop.get sock.toFin).state ≠ 2 then .next s
  else
    let old := s.pkg.tmax
    let s := s.modHealth sock fun h => { h with temp := temp }
    let (t, k) := s.hottest
    let s := s.modPkg fun p => { p with tmax := t, tsock := k }
    let s := if atLeast t 760 && !atLeast old 760 then s.thermal 7 k else s
    if atLeast t 840 && !atLeast old 840 then .next ((s.thermal 8 k).modPkg fun p => { p with alert := true }) else .next s

/-! ## The command port (R442) -/

/-- A command is performed and its response waits to be read; one that was not read is discarded. -/
def command (f : State → List Byte × State) (s : State) : Host.Outcome State Fault Refusal :=
  let (r, s) := f s
  .next (s.modPkg fun p => { p with resp := some r })

/-- The command that the bytes of a private write ask for: CMD, then its operands; bytes that are missing count as zero (log
entry 34). -/
noncomputable def commandOf (bs : List Byte) : Option Instr :=
  let v (n : Nat) : Nat := leNat ((bs.drop 1).take n)
  match (bs.headD 0).toNat with
  | 1 => some (.hread (BitVec.ofNat 8 (v 1)))
  | 2 => some .elog
  | 3 => some (.hflush (BitVec.ofNat 8 (v 1)))
  | 4 => some .telem
  | 5 => some (.pcapset (BitVec.ofNat 16 (v 2)))
  | 6 => some .idkey
  | 7 => some (.attest (BitVec.ofNat 128 (v 16)))
  | 8 => some .minvup
  | _ => none
/-- A private write to the I3C target: a command that the next steps perform, or status 0x05 for an unknown CMD. -/
noncomputable def State.privateWrite (s : State) (bs : List Byte) : State :=
  if bs = [] then s
  else match commandOf bs with
    | some i => { s with inbox := s.inbox ++ [i] }
    | none => s.modPkg fun p => { p with resp := some [5] }

/-- RESPONSE_READ: the pending response is taken. -/
def execResponseRead (s : State) : Host.Outcome State Fault Refusal := .next (s.modPkg fun p => { p with resp := none })

/-- The health entry of a socket (R443). -/
def Pkg.healthEntry (p : Pkg) (k : Nat) : BitVec 256 :=
  let e := vget p.pop k
  let h := vget p.health k
  let id := put 256 0 4 (designMap.getD k 0) ||| put 256 4 2 e.state.toNat
  if e.state ≠ 2 then id
  else id ||| bitTo 256 6 h.failed ||| put 256 8 16 (if [5, 6, 7].contains (designMap.getD k 0) then 0 else h.live.toNat) |||
    put 256 32 32 h.cecnt.toNat ||| put 256 64 32 h.uecnt.toNat ||| put 256 96 16 h.temp.toNat ||| put 256 128 64 h.lastue.toNat

/-- HREAD (R443). -/
def execHread (sock : BitVec 8) (s : State) : Host.Outcome State Fault Refusal :=
  command (fun s => (if 64 ≤ sock.toNat then [1] else 0 :: toBytes (s.pkg.healthEntry sock.toNat), s)) s

/-- ELOG (R445): the oldest unread entry, with OVF when entries were overwritten before it. -/
def execElog (s : State) : Host.Outcome State Fault Refusal :=
  command (fun s =>
    match s.pkg.log with
    | [] => (0 :: List.replicate 32 0, s)
    | e :: rest => (0 :: toBytes (setFld e 23 1 (if s.pkg.logovf then 1 else 0)), s.modPkg fun p => { p with log := rest, logovf := false })) s

/-- HFLUSH (R447): the counts of the domain's TLB entries go into their shadow words and start again at 0. -/
def execHflush (d : BitVec 8) (s : State) : Host.Outcome State Fault Refusal :=
  command (fun s =>
    if 16 ≤ d.toNat then ([1], s)
    else
      let mine (e : TlbEnt) : Bool := e.dom.toNat == d.toNat
      let out := (s.allCores.map fun c => c.tlb.filter mine).flatten
      let zero (e : TlbEnt) : TlbEnt := if mine e then { e with acc := 0, wr := 0 } else e
      let s := s.mapCores fun c => { c with tlb := c.tlb.map zero }
      ([0], out.foldl (fun s e => s.addShadow e.dom e.leaf.toNat e.acc.toNat e.wr.toNat) s)) s

/-- TELEM (R448). -/
def execTelem (s : State) : Host.Outcome State Fault Refusal :=
  command (fun s =>
    let p := s.pkg
    let w : BitVec 128 :=
      put 128 0 16 p.pin.toNat ||| put 128 16 16 p.pcap.toNat ||| put 128 32 16 p.tmax.toNat ||| put 128 48 6 p.tsock.toNat |||
      put 128 64 16 760 ||| put 128 80 16 840 ||| bitTo 128 96 p.capping ||| bitTo 128 97 (atLeast p.tmax 760) |||
      bitTo 128 98 (atLeast p.tmax 840)
    (0 :: toBytes w, s)) s

/-- PCAPSET (R442, R449): 4,000 to 10,500 W. -/
def execPcapset (w : BitVec 16) (s : State) : Host.Outcome State Fault Refusal :=
  command (fun s => if 4000 ≤ w.toNat ∧ w.toNat ≤ 10500 then ([0], s.modPkg fun p => { p with pcap := w }) else ([1], s)) s

/-- The device identity key (R451). -/
def idKey : XmssKey := { chain := Config.idChain, prf := Config.idPrf, seed := Config.idSeed }
/-- IDKEY (R442): the device identity public key, 68 bytes. -/
def execIdkey (s : State) : Host.Outcome State Fault Refusal := command (fun s => (0 :: idKey.pub, s)) s

/-- The body of an attestation report (R451). -/
def State.report128 (s : State) (i : BitVec 32) (nonce : BitVec 128) : List Byte :=
  let p := s.pkg
  leBytes 4 1 ++ toBytes i ++ toBytes p.pkgid ++ toBytes nonce ++ toBytes p.digest ++ toBytes p.version ++ toBytes p.minver ++
  toBytes (crc32c p.popBytes) ++ toBytes p.stepping ++ toBytes p.bin ++ [0] ++ toBytes s.gts ++ List.replicate 40 0

/-- ATTEST (R451): the next index is counted, then the body is signed with the one-time key of that index. -/
def execAttest (nonce : BitVec 128) (s : State) : Host.Outcome State Fault Refusal :=
  command (fun s =>
    let i := s.pkg.xmss
    if 2 ^ 20 ≤ i.toNat then ([3], s)
    else
      let s := s.modPkg fun p => { p with xmss := i + 1 }
      let s := if 2 ^ 20 - (i.toNat + 1) = 65536 then (s.logEvent 0x0A 27 0 none 0).2 else s
      (0 :: s.report128 i nonce ++ idKey.sign i.toNat (s.report128 i nonce), s)) s

/-- MINVUP (R452): MINVER never decreases. -/
def execMinvup (s : State) : Host.Outcome State Fault Refusal :=
  command (fun s => ([0], s.modPkg fun p =>
    if p.minver.ult p.version then { p with minver := p.version, bootstat := setFld p.bootstat 48 16 p.version.toNat } else p)) s

end Sys2Proof.Machine
end

