-- ==== Sys2Proof/Machine/Sort.lean ====
section
/-! DEFINITION. The sort network (spec/10 R293-R299). -/

namespace Sys2Proof.Machine
open Sys2Proof

/-! ## Keys and pairs (R293) -/

/-- A key mapped so that its order is the unsigned one. -/
def keyOrd (kt : BitVec 2) (k : BitVec 32) : BitVec 32 :=
  match kt.toNat with
  | 1 => k ^^^ 0x80000000
  | 2 => if k.getLsbD 31 then ~~~k else k ^^^ 0x80000000
  | _ => k
/-- A key is better than another. -/
def SortSt.keyBetter (t : SortSt) (a b : BitVec 32) : Bool :=
  if t.dir then (keyOrd t.kt b).ult (keyOrd t.kt a) else (keyOrd t.kt a).ult (keyOrd t.kt b)
/-- A pair is better than another: by key, and between equal keys the one inserted earlier. -/
def SortSt.better (t : SortSt) (a b : SortEnt) : Bool :=
  t.keyBetter a.key b.key || (a.key == b.key && a.ins < b.ins)

/-- Insertion of a pair before the first one that it precedes. -/
def insertBy {α : Type} (before : α → α → Bool) (x : α) : List α → List α
  | [] => [x]
  | y :: t => if before x y then x :: y :: t else y :: insertBy before x t
/-- A stable sort. -/
def sortBy {α : Type} (before : α → α → Bool) (l : List α) : List α :=
  l.foldl (fun acc x => insertBy before x acc) []

/-! ## The state (R294, R295) -/

/-- SRTSTAT. -/
def SortSt.stat (t : SortSt) : Word :=
  put 64 0 14 t.held.length ||| put 64 14 14 t.cur ||| bitTo 64 28 t.busy ||| bitTo 64 29 t.frozen ||| bitTo 64 30 t.ovf |||
  bitTo 64 31 t.err ||| put 64 32 2 t.mode.toNat ||| put 64 34 2 t.kt.toNat ||| bitTo 64 36 t.dir ||| bitTo 64 37 t.thron |||
  bitTo 64 38 t.dedup ||| put 64 39 25 t.drop.toNat
/-- The state cleared. -/
def SortSt.clear (t : SortSt) : SortSt :=
  { t with held := [], cur := 0, busy := false, frozen := false, ovf := false, err := false, drop := 0, ins := 0 }

/-- A sort form waits while a flush is in progress; in a harvest context it raises LEASE (R272, R295). -/
def sortReady : Eff Unit := do
  leaseHarv
  let busy ← Eff.gets fun s => s.ctx.srt.busy
  if busy then Eff.block .engine else pure ()
/-- Change the sort state. -/
def modSort (g : SortSt → SortSt) : Eff Unit := Eff.mod fun s => s.modCtx fun c => { c with srt := g c.srt }

/-- A configuration form (R295). -/
def sortConfig (f : XR) (g : SortSt → SortSt) : Eff Unit := whenSlot f.pred f.sense do
  sortReady
  modSort g
  dirty

/-- srtkey (R295). -/
def execSrtkey (f : XR) (s : State) : Host.Outcome State Fault Refusal :=
  issue (.srtkey f) (sortConfig f fun t => { t.clear with
    kt := fldv f.x 0 2, dir := f.x.getLsbD 2, mode := 0, thron := false, dedup := false, capK := 4096, segS := 1 }) s
/-- srttopk (R295). -/
def execSrttopk (f : XR) (s : State) : Host.Outcome State Fault Refusal :=
  issue (.srttopk f) (sortConfig f fun t => { t.clear with mode := 1, capK := f.x.toNat + 1, segS := 1 }) s
/-- srtseg (R295). -/
def execSrtseg (f : XR) (s : State) : Host.Outcome State Fault Refusal :=
  issue (.srtseg f) (sortConfig f fun t => { t.clear with mode := 2, capK := f.x.toNat + 1, segS := f.f.toNat + 1 }) s
/-- srtthr (R295). -/
def execSrtthr (f : XR) (s : State) : Host.Outcome State Fault Refusal :=
  issue (.srtthr f) (whenSlot f.pred f.sense do
    sortReady
    if f.f.getLsbD 0 then modSort fun t => { t with thron := false } else do
      let a ← rS f.a
      modSort fun t => { t with thr := fldv a 0 32, thron := true }
    dirty) s
/-- srtdedup (R295). -/
def execSrtdedup (f : XR) (s : State) : Host.Outcome State Fault Refusal :=
  issue (.srtdedup f) (sortConfig f fun t => { t with dedup := f.f.getLsbD 0 }) s

/-! ## Offering pairs (R296) -/

/-- DROP rises, saturating. -/
def SortSt.dropOne (t : SortSt) : SortSt := { t with drop := if t.drop = BitVec.allOnes 25 then t.drop else t.drop + 1 }
/-- The capacity of a segment. -/
def SortSt.cap (t : SortSt) : Nat := if t.mode = 0 then 8192 else t.capK
/-- The worst pair of a list. -/
def SortSt.worst (t : SortSt) (l : List SortEnt) : Option SortEnt :=
  l.foldl (fun a x => match a with
    | none => some x
    | some y => if t.better y x then some x else a) none
/-- Replace a pair of the buffer. -/
def SortSt.replace (t : SortSt) (old new : SortEnt) : SortSt :=
  { t with held := t.held.map fun x => if x = old then new else x }

/-- Retain a pair, or drop or evict as the capacity of its segment asks. -/
def SortSt.retain (t : SortSt) (p : SortEnt) : SortSt :=
  let mine := t.held.filter fun x => x.seg == p.seg
  if mine.length < t.cap then { t with held := t.held ++ [p] }
  else if t.mode = 0 then { t.dropOne with ovf := true }
  else match t.worst mine with
    | none => t
    | some w => if t.better p w then { t with held := t.held.erase w ++ [p] } else t

/-- Offer one pair (R296). Where several retained pairs hold its value, it meets the first held (log entry 56). -/
def SortSt.offer (t : SortSt) (key val seg : BitVec 32) : SortSt :=
  let p : SortEnt := { key := key, val := val, seg := if t.mode = 2 then seg else 0, ins := t.ins }
  let t := { t with ins := t.ins + 1 }
  if t.frozen then { t with err := true }
  else if t.thron ∧ t.keyBetter t.thr key then t.dropOne
  else if t.mode = 2 ∧ t.segS ≤ seg.toNat then t.dropOne
  else match (if t.dedup then t.held.find? fun q => q.seg == p.seg && q.val == val else none) with
    | some q => if t.better p q then t.replace q p else t
    | none => t.retain p

/-- srtld (R296): the pairs of the active lanes are offered in ascending lane order; C is read only in SEG mode. -/
def execSrtld (f : XR) (s : State) : Host.Outcome State Fault Refusal :=
  issue (.srtld f) (whenLanes f.pred f.sense fun m => do
    sortReady
    let a ← rV f.a
    let b ← rV f.b
    let seg ← Eff.gets fun s => s.ctx.srt.mode == 2
    let c ← if seg then rV f.c else pure 0
    modSort fun t => ((upTo 64).filter fun i => m.getLsbD i).foldl (fun t i => t.offer (lane a i) (lane b i) (lane c i)) t
    dirty) s

/-! ## Readout (R297) -/

/-- The readout order: by segment, then better before worse. -/
def SortSt.ordered (t : SortSt) : List SortEnt :=
  sortBy (fun a b => a.seg.ult b.seg || (a.seg == b.seg && t.better a b)) t.held

/-- srtflush (R297): a flush begins, once one under way is done (log entry 56). -/
def execSrtflush (f : XR) (s : State) : Host.Outcome State Fault Refusal :=
  issue (.srtflush f) (whenSlot f.pred f.sense do
    sortReady
    modSort fun t => { t with busy := true, frozen := true, cur := 0 }
    dirty) s
/-- SRT_FLUSH_DONE (R297): the retained pairs of the context in focus stand in readout order and BUSY clears. -/
def execSrtFlushDone (s : State) : Host.Outcome State Fault Refusal :=
  if s.ctx.srt.busy then
    .next (s.modCtx fun c => { c with srt := { c.srt with held := c.srt.ordered, busy := false } })
  else .next s

/-- srtst (R297): up to 64 pairs from CUR; C tells which lanes were filled. -/
def execSrtst (f : XR) (s : State) : Host.Outcome State Fault Refusal :=
  issue (.srtst f) (whenLanes f.pred f.sense fun _ => do
    sortReady
    let t ← Eff.gets fun s => s.ctx.srt
    if !t.frozen then do
      modSort fun t => { t with err := true }
      wP2 f.c 0
    else do
      let ps := (t.held.drop t.cur).take 64
      let n := ps.length
      modSort fun t => { t with cur := t.cur + n }
      if n = 0 then pure () else wVGroup f.d (lowLanes n) [
        ofLanes fun i => ((ps[i]?).map (·.key)).getD 0, ofLanes fun i => ((ps[i]?).map (·.val)).getD 0]
      wP2 f.c (lowLanes n)) s
/-- srtstat (R297). -/
def execSrtstat (f : XR) (s : State) : Host.Outcome State Fault Refusal :=
  issue (.srtstat f) (whenSlot f.pred f.sense do
    leaseHarv
    let t ← Eff.gets fun s => s.ctx.srt
    wS f.d t.stat) s
/-- srtwait (R297). -/
def execSrtwait (f : XR) (s : State) : Host.Outcome State Fault Refusal :=
  issue (.srtwait f) (whenSlot f.pred f.sense sortReady) s

/-! ## Register forms (R298) -/

/-- Keys and values of a group's lanes. -/
def pairsOf (g : List Vec) (ls : List Nat) : List (BitVec 32 × BitVec 32) :=
  ls.map fun i => (lane (g.getD 0 0) i, lane (g.getD 1 0) i)
/-- Two registers of 64 pairs from position o on. -/
def regsOf (ps : List (BitVec 32 × BitVec 32)) (o : Nat) : List Vec :=
  [ofLanes fun i => ((ps[o + i]?).map (·.1)).getD 0, ofLanes fun i => ((ps[o + i]?).map (·.2)).getD 0]

/-- srtsort (R298): the pairs of the active lanes, sorted stably into lanes 0 upwards. -/
def execSrtsort (f : XR) (s : State) : Host.Outcome State Fault Refusal :=
  issue (.srtsort f) (whenLanes f.pred f.sense fun m => do
    leaseHarv
    let g ← rVGroup f.a 2
    let t ← Eff.gets fun s => s.ctx.srt
    let ps := sortBy (fun a b => t.keyBetter a.1 b.1) (pairsOf g ((upTo 64).filter fun i => m.getLsbD i))
    wVGroup f.d (lowLanes ps.length) (regsOf ps 0)) s

/-- The merge of R298: ties take A. At most n pairs more are taken. -/
def mergeBy {α : Type} (better : α → α → Bool) : Nat → List α → List α → List α
  | 0, _, _ => []
  | _ + 1, [], bs => bs
  | _ + 1, as, [] => as
  | n + 1, a :: as, b :: bs =>
    if better b a then b :: mergeBy better n (a :: as) bs else a :: mergeBy better n as (b :: bs)

/-- srtmrg (R298): the 64 pairs of A merged with those of B. -/
def execSrtmrg (f : XR) (s : State) : Host.Outcome State Fault Refusal :=
  issue (.srtmrg f) (whenSlot f.pred f.sense do
    leaseHarv
    let ga ← rVGroup f.a 2
    let gb ← rVGroup f.b 2
    let t ← Eff.gets fun s => s.ctx.srt
    let ps := mergeBy (fun (x y : BitVec 32 × BitVec 32) => t.keyBetter x.1 y.1) 128
      (pairsOf ga (upTo 64)) (pairsOf gb (upTo 64))
    wVGroup f.d (BitVec.allOnes 64) (regsOf ps 0 ++ regsOf ps 64)) s

end Sys2Proof.Machine
end

