-- ==== Sys2Proof/Machine/Sparse.lean ====
section
/-! DEFINITION. Sparse products: descriptor words, the gathered block, gather and sparse step entries, counters (spec/11
R316-R319). -/

namespace Sys2Proof.Machine
open Sys2Proof

/-! ## Descriptors (R316) -/

def csrVfmt (csr : Vector Word 6) : Nat := fld (vget csr 3) 0 5
def csrRows (csr : Vector Word 6) : Nat := fld (vget csr 3) 8 24
/-- Bytes of a value. -/
def csrWidth (csr : Vector Word 6) : Nat := elemBits (csrVfmt csr) / 8
/-- A block word: R0, K and C0 (R316, R318). -/
def blkR0 (c : Word) : Nat := fld c 0 24
def blkK (c : Word) : Nat := fld c 24 12 + 1
def blkC0 (c : Word) : Nat := fld c 36 24

/-- The rejections that all three forms share: a reserved bit of words 3 to 5, a VFMT outside R316 (R318). -/
def csrBad (csr : Vector Word 6) : Bool :=
  fld (vget csr 3) 5 3 ≠ 0 || fld (vget csr 3) 32 32 ≠ 0 || fld (vget csr 4) 60 4 ≠ 0 ||
  !(csrVfmt csr ≤ 4 || csrVfmt csr == 8 || csrVfmt csr == 9)
/-- A plain format of a byte or more: what a dense operand may hold (R318). -/
def densePlain (f : Nat) : Bool := f ≤ 4 || f == 8 || f == 9

/-! ## The gathered block (R317) -/

/-- A read of a descriptor array: its pointer lies in window 0 or 2 (R316); one in another window ends the entry with code 0x08 (log
entry 62). -/
def csrRead (ptr : Word) (n : Nat) (s : State) : Acc (Nat × Bool) :=
  if fld ptr 60 4 = 0 ∨ fld ptr 60 4 = 2 then
    (engRead engRD .same { ptr := ptr, n := n, lane := 0xFF } s).bind fun x s => .ok (leNat x.1, x.2.any id) s
  else .stop 8 ptr s

/-- One row of the block as it is built. -/
structure GRow where
  vals : List (Option Nat) := List.replicate 128 none
  bad : Bool := false
  pois : Bool := false

/-- A sparse counter gains one: 0 PLACED, 1 SKIP, 2 DUP, 3 BADROW (R317, R319). -/
def State.bumpCsr (s : State) (k : Nat) : State :=
  s.modCtx fun c => { c with csrc := vset c.csrc k (vget c.csrc k + 1) }
/-- The counters of a step that waits are as they were: the step is made again (R317). -/
def Acc.recount {α : Type} (x : Acc α) (s0 : State) : Acc α :=
  match x with
  | .wait s => .wait (s.modCtx fun c => { c with csrc := s0.ctx.csrc })
  | y => y

/-- Elements e, e + 1, … of a row, as many as remain; each is counted as it is met. -/
def gatherElems (csr : Vector Word 6) (c0 : Nat) : Nat → Nat → GRow → State → Acc GRow
  | 0, _, g, s => .ok g s
  | n + 1, e, g, s =>
    (csrRead (vget csr 1 + BitVec.ofNat 64 (4 * e)) 4 s).bind fun col s =>
      let g := { g with pois := g.pois || col.2 }
      if c0 ≤ col.1 ∧ col.1 < c0 + 128 then
        let j := col.1 - c0
        let s := if (g.vals.getD j none).isSome then s.bumpCsr 2 else s
        (csrRead (vget csr 2 + BitVec.ofNat 64 (csrWidth csr * e)) (csrWidth csr) s).bind fun v s =>
          gatherElems csr c0 n (e + 1) { g with vals := g.vals.set j (some v.1), pois := g.pois || v.2 } (s.bumpCsr 0)
      else gatherElems csr c0 n (e + 1) g (s.bumpCsr 1)

/-- Row r of S as a row of the block. -/
def gatherRow (csr : Vector Word 6) (r c0 : Nat) (s : State) : Acc GRow :=
  if csrRows csr ≤ r then .ok {} s
  else
    (csrRead (vget csr 0 + BitVec.ofNat 64 (4 * r)) 4 s).bind fun lo s =>
      (csrRead (vget csr 0 + BitVec.ofNat 64 (4 * r + 4)) 4 s).bind fun hi s =>
        let g : GRow := { pois := lo.2 || hi.2 }
        if hi.1 < lo.1 then .ok { g with bad := true } (s.bumpCsr 3) else gatherElems csr c0 (hi.1 - lo.1) lo.1 g s

/-- Rows r, r + 1, … of the block. -/
def gatherRows (csr : Vector Word 6) (c0 : Nat) : Nat → Nat → State → Acc (List GRow)
  | 0, _, s => .ok [] s
  | n + 1, r, s => (gatherRow csr r c0 s).bind fun g s => (gatherRows csr c0 n (r + 1) s).bind fun gs s => .ok (g :: gs) s

/-- The completion code: 0x07 with a malformed row (R317). -/
def EngEnt.csrCode (e : EngEnt) : BitVec 8 := if e.tail = 0 then 0 else 7
/-- Malformed rows counted in an entry. -/
def EngEnt.addBad (e : EngEnt) (gs : List GRow) : EngEnt := { e with tail := e.tail + (gs.filter (·.bad)).length }

/-! ## Register forms -/

/-- csrset (R316). -/
def execCsrset (f : XR) (s : State) : Host.Outcome State Fault Refusal :=
  issueAs (.xr 0xD0 f) (chkCsrset f) none (whenSlot f.pred f.sense do
    leaseHarv
    let a ← rS f.a
    Eff.mod fun s => s.modCtx fun c => { c with csr := vset c.csr (fld f.x 0 3) a }) s
/-- csrwait (R301). -/
def execCsrwait (f : XR) (s : State) : Host.Outcome State Fault Refusal :=
  issueAs (.xr 0xD2 f) (chkCsrwait f) none (whenSlot f.pred f.sense (ticketWait .spa f.d f.a)) s
/-- csrstat (R301). -/
def execCsrstat (f : XR) (s : State) : Host.Outcome State Fault Refusal :=
  issueAs (.xr 0xD3 f) (chkCsrstat f) none (whenSlot f.pred f.sense (ticketStat .spa f.d f.a)) s

/-- Every sparse entry that the context posted has finished, or the form waits (R319). -/
def sparseIdle : Eff Unit := do
  let busy ← Eff.gets fun s => !s.ctx.spa.pending.isEmpty
  if busy then Eff.block .engine else pure ()
/-- csrcnt (R319). -/
def execCsrcnt (f : XR) (s : State) : Host.Outcome State Fault Refusal :=
  issueAs (.xr 0xD6 f) (chkCsrcnt f) none (whenSlot f.pred f.sense do
    leaseHarv
    sparseIdle
    let n ← Eff.gets fun s => vget s.ctx.csrc (fld f.x 0 2)
    wS f.d n) s
/-- csrrst (R319). -/
def execCsrrst (f : XR) (s : State) : Host.Outcome State Fault Refusal :=
  issueAs (.xr 0xD7 f) (chkCsrrst f) none (whenSlot f.pred f.sense do
    leaseHarv
    sparseIdle
    Eff.mod fun s => s.modCtx fun c => { c with
      csrc := Vector.replicate 4 0
      csr := if bitAt f.x 0 then Vector.replicate 6 0 else c.csr }) s

/-! ## Posts (R318) -/

/-- Column stride of a gathered block. -/
def csrStride (csr : Vector Word 6) (k : Nat) : Nat := ceilDiv (k * csrWidth csr) 64 * 64

/-- csrgath (R318). -/
def execCsrgath (f : XR) (s : State) : Host.Outcome State Fault Refusal :=
  issueAs (.xr 0xD4 f) (chkCsrgath f) none (whenSlot f.pred f.sense do
    leaseHarv
    let a ← rS f.a
    let c ← rS f.c
    let csr ← Eff.gets fun s => s.ctx.csr
    let o := fld a 0 24
    checkSpans [operandSpan (o, o) (csrStride csr (blkK c)) 127 (blkK c * csrWidth csr)]
    if csrBad csr then rejectPost .spa f.d
    else acceptPost .spa .gath f.d none none (.gath o c csr)) s

/-- A dense operand of 128 rows of n bytes. -/
def denseSpan (o ars n : Nat) : Span := operandSpan (o, o) ars 127 n

/-- csrmm (R318). -/
def execCsrmm (f : XR) (s : State) : Host.Outcome State Fault Refusal :=
  issueAs (.xr 0xD5 f) (chkCsrmm f) none (whenSlot f.pred f.sense do
    leaseHarv
    let b ← rS f.b
    let c ← rS f.c
    let csr ← Eff.gets fun s => s.ctx.csr
    let k ← Eff.gets fun s => s.core
    let fd := k.fmtOf 2 (fld b 0 24)
    let span := denseSpan (fld b 0 24) (fld b 24 24) (blkK c * elemBits fd / 8)
    checkSpans [span]
    checkTiles f.a.toNat 1
    strictGroup [stepRows (fld b 0 24) (fld b 24 24) 127 (blkK c * elemBits fd / 8)]
    let bad := csrBad csr || !densePlain fd || !pairOk 2 fd (csrVfmt csr) || !k.uniform 2 fd span.1.toNat span.2.toNat
    if bad then rejectPost .spa f.d
    else acceptPost .spa .mat f.d none none (.csrmm f.a.toNat b c (bitAt f.x 0) csr (BitVec.ofNat 5 fd))) s

/-- Fields of word 5 (R316). -/
def csrAoff (csr : Vector Word 6) : Nat := fld (vget csr 5) 0 24
def csrArs (csr : Vector Word 6) : Nat := fld (vget csr 5) 24 24
def csrTile (csr : Vector Word 6) : Nat := fld (vget csr 5) 48 5
def csrSteps (csr : Vector Word 6) : Nat := fld (vget csr 5) 54 10

/-- csrgo (R318). -/
def execCsrgo (f : XE) (s : State) : Host.Outcome State Fault Refusal :=
  issueAs (.xe 0xD1 f) (chkCsrgo f) none (whenSlot f.pred f.sense do
    leaseHarv
    let csr ← Eff.gets fun s => s.ctx.csr
    let k ← Eff.gets fun s => s.core
    let fd := k.fmtOf 2 (csrAoff csr)
    let n := blkK (vget csr 4) * elemBits fd / 8
    let span : Span := operandSpan (csrAoff csr, csrAoff csr + ((csrSteps csr - 1) * n : Nat)) (csrArs csr) 127 n
    checkSpans [span]
    checkTiles (csrTile csr) 1
    strictGroup [((upTo (csrSteps csr)).map fun i => stepRows (csrAoff csr + i * n) (csrArs csr) 127 n).flatten]
    let bad := csrBad csr || csrSteps csr == 0 || !densePlain fd || !pairOk 2 fd (csrVfmt csr) ||
      !k.uniform 2 fd span.1.toNat span.2.toNat
    if bad then rejectPost .spa f.d
    else acceptPost .spa .mat f.d (semField f.swe f.sw) (semField f.sse f.ss) (.csrgo csr (BitVec.ofNat 5 fd))) s

/-! ## Entries -/

/-- One row of a gather entry: element k of each of the 128 columns (R317, R318). -/
def gatherRun (e : EngEnt) (s : State) : EngRes :=
  match e.body with
  | .gath o c csr =>
    if blkK c ≤ e.prog then .done e e.csrCode 0 s
    else
      ((gatherRow csr (blkR0 c + e.prog) (blkC0 c) s).recount s).step e fun g s =>
        let w := csrWidth csr
        let put (s : State) (x : Option Nat × Nat) : State :=
          let ps := run .spad (o + x.2 * csrStride csr (blkK c) + e.prog * w) w
          engPut ps (leBytes w (x.1.getD 0)) (ps.map fun _ => g.pois) s
        let s := (g.vals.zip (upTo 128)).foldl put s
        let e' := { e.addBad [g] with prog := e.prog + 1 }
        let e' := if g.pois then e'.notePois 0xFF 0 0 (BitVec.ofNat 64 (o + e.prog * w)) else e'
        if e'.prog = blkK c then .done e' e'.csrCode 0 s else .more e' s
  | _ => .done e 0 0 s
def gatherEngine : Engine where
  mine b := match b with
    | .gath _ _ _ => true
    | _ => false
  step := gatherRun
  idx := EngEnt.idx
/-- GATHER_ENTRY (R317): one row of the entry at the head of the gather queue of the core in focus. -/
def execGatherEntry (s : State) : Host.Outcome State Fault Refusal := .next (s.runHead .gath gatherEngine)

/-- One sparse product step into tile t: 128 dense rows at an offset against the block of rows r0 on (R318). -/
def sparseStep (e : EngEnt) (t o ars r0 k c0 : Nat) (zero : Bool) (csr : Vector Word 6) (fd : Nat) (s : State) :
    Acc EngEnt :=
  ((gatherRows csr c0 k r0 s).recount s).bind fun gs s =>
    let s := s.countGroup [stepRows o ars 127 (rowBytes fd k)]
    let c := if zero then s.core.zeroTile t 127 127 else s.core
    let rows := (upTo 128).map fun i => (operandRow c fd 0 (o + i * ars) k).1
    let F := elemFmt (csrVfmt csr)
    let cols := (upTo 128).map fun j => gs.map fun g => F.dec ((g.vals.getD j none).getD 0)
    let all := gs.any (·.pois)
    let c := (upTo 128).foldl (init := c) fun c i =>
      if all || spadPois c (o + i * ars) (rowBytes fd k) then c.setRowPois t i true else c
    let (c, fl) := c.accumulate t fd 0 0 rows cols
    .ok { e.addBad gs with flags := e.flags ||| fl, prog := e.prog + 1 } { s with core := c }

/-- A sparse entry of the matrix queue: one step. -/
def sparseRun (e : EngEnt) (s : State) : EngRes :=
  match e.body with
  | .csrmm t b c zi csr fd =>
    (sparseStep e t (fld b 0 24) (fld b 24 24) (blkR0 c) (blkK c) (blkC0 c) zi csr fd.toNat s).step e
      fun e s => .done e e.csrCode 0 s
  | .csrgo csr fd =>
    let w4 := vget csr 4
    let n := blkK w4 * elemBits fd.toNat / 8
    (sparseStep e (csrTile csr) (csrAoff csr + e.prog * n) (csrArs csr) (blkR0 w4 + e.prog * blkK w4) (blkK w4) (blkC0 w4)
      (e.prog == 0 && bitAt (vget csr 5) 53) csr fd.toNat s).step e fun e s =>
        if csrSteps csr ≤ e.prog then .done e e.csrCode 0 s else .more e s
  | _ => .done e 0 0 s
def sparseEngine : Engine where
  mine b := match b with
    | .csrmm _ _ _ _ _ _ => true
    | .csrgo _ _ => true
    | _ => false
  step := sparseRun
  idx := EngEnt.idx
/-- SPARSE_STEP_ENTRY (R318): one step of the sparse entry at the head of the matrix queue of the core in focus. -/
def execSparseStepEntry (s : State) : Host.Outcome State Fault Refusal := .next (s.runHead .mat sparseEngine)

end Sys2Proof.Machine
end

