-- ==== Sys2Proof/Machine/Parcel.lean ====
section
/-! DEFINITION. Dictionary parcels and unassigned opcodes (spec/07 R194-R199, R202). -/

namespace Sys2Proof.Machine
open Sys2Proof

/-- An unassigned opcode raises ILLOP cause 0x1 (R202). -/
def execUnassignedOpcode (wide : Bool) (w : Word) (s : State) : Host.Outcome State Fault Refusal :=
  if s.sq.skip then .next (s.inactive (fldv w 0 4) 1 (s.len (if wide then 8 else 4)))
  else .next (s.raise (illopOf s (.bad wide w) 1 0xFF))

/-- A W32 word executed (R200). -/
def run32 (w : BitVec 32) (s : State) : Host.Outcome State Fault Refusal :=
  let f := unW32 w
  match (opW32 w).toNat with
  | 0x01 => execAdd f s
  | 0x02 => execSub f s
  | 0x03 => execAnd f s
  | 0x04 => execOr f s
  | 0x05 => execXor f s
  | 0x06 => execAndn f s
  | 0x07 => execOrn f s
  | 0x08 => execSll f s
  | 0x09 => execSrl f s
  | 0x0A => execSra f s
  | 0x0B => execRol f s
  | 0x0C => execMin f s
  | 0x0D => execMax f s
  | 0x0E => execMinn f s
  | 0x0F => execMaxn f s
  | 0x10 => execCeq f s
  | 0x11 => execCne f s
  | 0x12 => execClt f s
  | 0x13 => execCltn f s
  | 0x14 => execCle f s
  | 0x15 => execClen f s
  | 0x18 => execAddi f s
  | 0x19 => execAndi f s
  | 0x1A => execOri f s
  | 0x1B => execXori f s
  | 0x1C => execSlli f s
  | 0x1D => execSrli f s
  | 0x1E => execSrai f s
  | 0x1F => execRoli f s
  | 0x20 => execMul f s
  | 0x21 => execMulh f s
  | 0x22 => execMulhn f s
  | 0x23 => execDiv f s
  | 0x24 => execDivn f s
  | 0x25 => execRem f s
  | 0x26 => execRemn f s
  | 0x28 => execMov f s
  | 0x29 => execNeg f s
  | 0x2A => execNot f s
  | 0x2B => execClz f s
  | 0x2C => execCtz f s
  | 0x2D => execPopc f s
  | 0x2E => execSextw f s
  | 0x2F => execZextw f s
  | 0x30 => execNop f s
  | 0x31 => execHalt f s
  | 0x32 => execBopush f s
  | 0x33 => execJr f s
  | 0x34 => execCallr f s
  | 0x40 => execVadd f s
  | 0x41 => execVsub f s
  | 0x42 => execVmul f s
  | 0x43 => execVmulh f s
  | 0x44 => execVmulhn f s
  | 0x45 => execVmin f s
  | 0x46 => execVmax f s
  | 0x47 => execVminn f s
  | 0x48 => execVmaxn f s
  | 0x49 => execVand f s
  | 0x4A => execVor f s
  | 0x4B => execVxor f s
  | 0x4C => execVandn f s
  | 0x4D => execVsll f s
  | 0x4E => execVsrl f s
  | 0x4F => execVsra f s
  | 0x50 => execVfadd f s
  | 0x51 => execVfsub f s
  | 0x52 => execVfmul f s
  | 0x53 => execVfmin f s
  | 0x54 => execVfmax f s
  | 0x55 => execVfabs f s
  | 0x56 => execVfneg f s
  | 0x57 => execVmov f s
  | 0x58 => execVbcast f s
  | _ => execUnassignedOpcode false (w.zeroExtend 64) s

/-- A W64 word of opcodes 0x00 to 0x3F executed (R201). -/
def run64a (w : Word) (s : State) : Host.Outcome State Fault Refusal :=
  match (opW64 w).toNat with
  | 0x01 => execLi (unXI w) s
  | 0x02 => execLih (unXI w) s
  | 0x03 => execAddl (unXI w) s
  | 0x04 => execAndl (unXI w) s
  | 0x05 => execOrl (unXI w) s
  | 0x06 => execXorl (unXI w) s
  | 0x07 => execMull (unXI w) s
  | 0x08 => execMkptr (unXR w) s
  | 0x09 => execSel (unXR w) s
  | 0x0A => execBext (unXR w) s
  | 0x0B => execBins (unXR w) s
  | 0x10 => execBr (unXB w) s
  | 0x11 => execBz (unXB w) s
  | 0x12 => execBnz (unXB w) s
  | 0x13 => execBany (unXB w) s
  | 0x14 => execBall (unXB w) s
  | 0x15 => execBnone (unXB w) s
  | 0x16 => execBbo (unXB w) s
  | 0x17 => execBbon (unXB w) s
  | 0x18 => execCall (unXB w) s
  | 0x19 => execLoop (unXB w) s
  | 0x1A => execBloop (unXB w) s
  | 0x1B => execBdnz (unXB w) s
  | 0x1C => execLcset (unXR w) s
  | 0x1D => execLcget (unXR w) s
  | 0x20 => execPand (unXR w) s
  | 0x21 => execPor (unXR w) s
  | 0x22 => execPxor (unXR w) s
  | 0x23 => execPandn (unXR w) s
  | 0x24 => execPnot (unXR w) s
  | 0x25 => execPfroms (unXR w) s
  | 0x26 => execPtos (unXR w) s
  | 0x27 => execPcnt (unXR w) s
  | 0x28 => execPffs (unXR w) s
  | 0x29 => execDefer (unXR w) s
  | 0x2A => execDrain (unXR w) s
  | 0x2B => execRejoin (unXR w) s
  | 0x2C => execBopop (unXR w) s
  | 0x2D => execRgnb (unXR w) s
  | 0x2E => execRgne (unXR w) s
  | 0x2F => execTokn (unXR w) s
  | 0x30 => execQpeek (unXR w) s
  | 0x31 => execVqpeek (unXR w) s
  | 0x32 => execQlen (unXR w) s
  | 0x33 => execEget (unXR w) s
  | 0x34 => execEjoin (unXR w) s
  | 0x35 => execEtry (unXR w) s
  | 0x36 => execEput (unXR w) s
  | 0x37 => execEputs (unXR w) s
  | 0x38 => execEstat (unXR w) s
  | 0x39 => execJraise (unXR w) s
  | 0x3A => execJpost (unXR w) s
  | 0x3B => execJstat (unXR w) s
  | _ => execUnassignedOpcode true w s

/-- A W64 word of opcodes 0x40 to 0x7F executed (R201). -/
def run64b (w : Word) (s : State) : Host.Outcome State Fault Refusal :=
  match (opW64 w).toNat with
  | 0x40 => execLd (unXM w) s
  | 0x41 => execSt (unXM w) s
  | 0x42 => execVld (unXM w) s
  | 0x43 => execVst (unXM w) s
  | 0x44 => execVldx (unXM w) s
  | 0x45 => execVstx (unXM w) s
  | 0x46 => execVldk (unXM w) s
  | 0x47 => execVstk (unXM w) s
  | 0x48 => execPf (unXM w) s
  | 0x49 => execIpf (unXM w) s
  | 0x4A => execIcinv (unXM w) s
  | 0x4B => execDcwb (unXM w) s
  | 0x4C => execCbres (unXR w) s
  | 0x4D => execCbcmt (unXR w) s
  | 0x4E => execCbacq (unXR w) s
  | 0x4F => execCbrel (unXR w) s
  | 0x50 => execCpy (unXE w) s
  | 0x51 => execCpywait (unXE w) s
  | 0x52 => execCpystat (unXR w) s
  | 0x53 => execCapshr (unXR w) s
  | 0x54 => execCapxfr (unXR w) s
  | 0x55 => execCapdrop (unXR w) s
  | 0x56 => execCaprd (unXR w) s
  | 0x57 => execCapnar (unXR w) s
  | 0x58 => execCapexp (unXR w) s
  | 0x59 => execCapimp (unXR w) s
  | 0x60 => execLdacq (unXM w) s
  | 0x61 => execStrel (unXM w) s
  | 0x62 => execAmo (unXM w) s
  | 0x63 => execCas (unXM w) s
  | 0x64 => execAmof (unXM w) s
  | 0x65 => execCupd (unXM w) s
  | 0x66 => execVcupd (unXM w) s
  | 0x67 => execVamo (unXM w) s
  | 0x68 => execFence (unXR w) s
  | 0x69 => execSemsig (unXR w) s
  | 0x6A => execSemwait (unXR w) s
  | 0x6B => execSemget (unXR w) s
  | 0x6C => execBarinit (unXR w) s
  | 0x6D => execBararr (unXR w) s
  | 0x6E => execBarwait (unXR w) s
  | 0x6F => execBartest (unXR w) s
  | 0x70 => execWaitw (unXM w) s
  | 0x71 => execWaitwt (unXM w) s
  | 0x72 => execWake (unXM w) s
  | 0x73 => execGts (unXR w) s
  | 0x78 => execCrr (unXR w) s
  | 0x79 => execCrw (unXR w) s
  | 0x7A => execDisc (unXR w) s
  | 0x7B => execLend (unXR w) s
  | 0x7C => execReclaim (unXR w) s
  | _ => execUnassignedOpcode true w s

/-- A W64 word of opcodes 0x80 to 0xBF executed (R201). -/
def run64c (w : Word) (s : State) : Host.Outcome State Fault Refusal :=
  match (opW64 w).toNat with
  | 0x80 => execVfma (unXR w) s
  | 0x81 => execVfms (unXR w) s
  | 0x82 => execVfnma (unXR w) s
  | 0x83 => execVfalu (unXR w) s
  | 0x84 => execVfrcp (unXR w) s
  | 0x85 => execVfrsq (unXR w) s
  | 0x86 => execVfsqrt (unXR w) s
  | 0x87 => execVfexp2 (unXR w) s
  | 0x88 => execVflog2 (unXR w) s
  | 0x89 => execVfsin (unXR w) s
  | 0x8A => execVfcos (unXR w) s
  | 0x8B => execVcmp (unXR w) s
  | 0x8C => execVfcmp (unXR w) s
  | 0x8D => execVsel (unXR w) s
  | 0x8E => execViota (unXR w) s
  | 0x90 => execVcvt (unXR w) s
  | 0x91 => execVcvtb (unXR w) s
  | 0x92 => execVcvti (unXR w) s
  | 0x93 => execSrseed (unXR w) s
  | 0x94 => execVperm (unXR w) s
  | 0x95 => execVperm2 (unXR w) s
  | 0x96 => execVrot (unXR w) s
  | 0x97 => execVtrn (unXR w) s
  | 0x98 => execVcompress (unXR w) s
  | 0x99 => execVexpand (unXR w) s
  | 0x9A => execVext (unXR w) s
  | 0x9B => execVins (unXR w) s
  | 0x9C => execBfly2 (unXR w) s
  | 0x9D => execBfly4 (unXR w) s
  | 0x9E => execTwmul (unXR w) s
  | 0x9F => execTwgen (unXR w) s
  | 0xA0 => execVredadd (unXR w) s
  | 0xA1 => execVredmin (unXR w) s
  | 0xA2 => execVredmax (unXR w) s
  | 0xA3 => execVfredadd (unXR w) s
  | 0xA4 => execVfredmin (unXR w) s
  | 0xA5 => execVfredmax (unXR w) s
  | 0xB0 => execSrtkey (unXR w) s
  | 0xB1 => execSrtld (unXR w) s
  | 0xB2 => execSrtsort (unXR w) s
  | 0xB3 => execSrtmrg (unXR w) s
  | 0xB4 => execSrttopk (unXR w) s
  | 0xB5 => execSrtseg (unXR w) s
  | 0xB6 => execSrtthr (unXR w) s
  | 0xB7 => execSrtdedup (unXR w) s
  | 0xB8 => execSrtst (unXR w) s
  | 0xB9 => execSrtflush (unXR w) s
  | 0xBA => execSrtstat (unXR w) s
  | 0xBB => execSrtwait (unXR w) s
  | _ => execUnassignedOpcode true w s

/-- A W64 word of opcodes 0xC0 to 0xFF executed (R201). -/
def run64d (w : Word) (s : State) : Host.Outcome State Fault Refusal :=
  match (opW64 w).toNat with
  | 0xC0 => execMnset (unXR w) s
  | 0xC1 => execMnget (unXR w) s
  | 0xC2 => execMgo (unXE w) s
  | 0xC3 => execMwait (unXR w) s
  | 0xC4 => execMstat (unXR w) s
  | 0xC5 => execMshadow (unXR w) s
  | 0xC6 => execMscl (unXR w) s
  | 0xC7 => execMbase (unXR w) s
  | 0xC8 => execMring (unXR w) s
  | 0xC9 => execMacz (unXR w) s
  | 0xCA => execMacld (unXR w) s
  | 0xCB => execMacst (unXR w) s
  | 0xCC => execMacadd (unXR w) s
  | 0xCD => execMaccvt (unXR w) s
  | 0xCE => execMmt (unXR w) s
  | 0xCF => execMmts (unXR w) s
  | 0xD0 => execCsrset (unXR w) s
  | 0xD1 => execCsrgo (unXE w) s
  | 0xD2 => execCsrwait (unXR w) s
  | 0xD3 => execCsrstat (unXR w) s
  | 0xD4 => execCsrgath (unXR w) s
  | 0xD5 => execCsrmm (unXR w) s
  | 0xD6 => execCsrcnt (unXR w) s
  | 0xD7 => execCsrrst (unXR w) s
  | 0xD8 => execXfpost (unXE w) s
  | 0xD9 => execXfwait (unXE w) s
  | 0xDA => execXfstat (unXE w) s
  | 0xDB => execColpost (unXE w) s
  | 0xDC => execColwait (unXE w) s
  | 0xDD => execColstat (unXE w) s
  | 0xDE => execQfence (unXE w) s
  | 0xDF => execBadrd (unXR w) s
  | _ => execUnassignedOpcode true w s

/-- A W64 word executed. -/
def run64 (w : Word) (s : State) : Host.Outcome State Fault Refusal :=
  match fld w 12 2 with
  | 0 => run64a w s
  | 1 => run64b w s
  | 2 => run64c w s
  | _ => run64d w s

/-- Tokens that each token bit of an entry moves: n for tokn, otherwise one (R37, R230). -/
def entryTokens (e : Word) : Nat := if fld e 4 2 = 2 ∧ opW64 e = 0x2F then tokCount (.xr 0x2F (unXR e)) else 1

/-- cx (R195, R198): entry N of the context's bank as if it stood at the parcel's address, its token bits joined with the
parcel's. -/
def execCx (f : C16) (s : State) : Host.Outcome State Fault Refusal :=
  let n := f.n.toNat
  if s.sq.skip then
    let e := if n < s.ctx.bnd.dfirst ∨ s.ctx.bnd.dfirst + s.ctx.bnd.dcount ≤ n then 0 else s.dictEntry f.n
    .next (s.inactive (f.tok ||| fldv e 0 4) (entryTokens e) 2)
  else if n < s.ctx.bnd.dfirst ∨ s.ctx.bnd.dfirst + s.ctx.bnd.dcount ≤ n then
    .next (s.raise (illop 0xB 2 n 0xFF ((encC16 f).zeroExtend 64)))
  else
    let e := s.dictEntry f.n
    if fld e 4 2 = 3 then .next (s.raise (illop 4 2 n 0xFF e))
    else if bitAt e 5 then run64 (e ||| f.tok.zeroExtend 64) { s with parcel := some f.n }
    else if fld e 32 32 ≠ 0 then .next (s.raise (illop 5 2 n 32 e))
    else run32 (fldv e 0 32 ||| f.tok.zeroExtend 32) { s with parcel := some f.n }

end Sys2Proof.Machine
end

