-- ==== Sys2Proof/Machine/Dispatch.lean ====
section
/-! DEFINITION. The dispatcher: one arm for each constructor of Instr, each one direct call of its meaning. -/

namespace Sys2Proof.Machine
open Sys2Proof

/-- The meaning of every instruction, operation and event. -/
def exec (i : Instr) (s : State) : Host.Outcome State Fault Refusal :=
  match i with
  | .add f => Sys2Proof.Machine.execAdd f s
  | .sub f => Sys2Proof.Machine.execSub f s
  | .and f => Sys2Proof.Machine.execAnd f s
  | .or f => Sys2Proof.Machine.execOr f s
  | .xor f => Sys2Proof.Machine.execXor f s
  | .andn f => Sys2Proof.Machine.execAndn f s
  | .orn f => Sys2Proof.Machine.execOrn f s
  | .sll f => Sys2Proof.Machine.execSll f s
  | .srl f => Sys2Proof.Machine.execSrl f s
  | .sra f => Sys2Proof.Machine.execSra f s
  | .rol f => Sys2Proof.Machine.execRol f s
  | .min f => Sys2Proof.Machine.execMin f s
  | .max f => Sys2Proof.Machine.execMax f s
  | .minn f => Sys2Proof.Machine.execMinn f s
  | .maxn f => Sys2Proof.Machine.execMaxn f s
  | .ceq f => Sys2Proof.Machine.execCeq f s
  | .cne f => Sys2Proof.Machine.execCne f s
  | .clt f => Sys2Proof.Machine.execClt f s
  | .cltn f => Sys2Proof.Machine.execCltn f s
  | .cle f => Sys2Proof.Machine.execCle f s
  | .clen f => Sys2Proof.Machine.execClen f s
  | .addi f => Sys2Proof.Machine.execAddi f s
  | .andi f => Sys2Proof.Machine.execAndi f s
  | .ori f => Sys2Proof.Machine.execOri f s
  | .xori f => Sys2Proof.Machine.execXori f s
  | .slli f => Sys2Proof.Machine.execSlli f s
  | .srli f => Sys2Proof.Machine.execSrli f s
  | .srai f => Sys2Proof.Machine.execSrai f s
  | .roli f => Sys2Proof.Machine.execRoli f s
  | .mul f => Sys2Proof.Machine.execMul f s
  | .mulh f => Sys2Proof.Machine.execMulh f s
  | .mulhn f => Sys2Proof.Machine.execMulhn f s
  | .div f => Sys2Proof.Machine.execDiv f s
  | .divn f => Sys2Proof.Machine.execDivn f s
  | .rem f => Sys2Proof.Machine.execRem f s
  | .remn f => Sys2Proof.Machine.execRemn f s
  | .mov f => Sys2Proof.Machine.execMov f s
  | .neg f => Sys2Proof.Machine.execNeg f s
  | .not f => Sys2Proof.Machine.execNot f s
  | .clz f => Sys2Proof.Machine.execClz f s
  | .ctz f => Sys2Proof.Machine.execCtz f s
  | .popc f => Sys2Proof.Machine.execPopc f s
  | .sextw f => Sys2Proof.Machine.execSextw f s
  | .zextw f => Sys2Proof.Machine.execZextw f s
  | .nop f => Sys2Proof.Machine.execNop f s
  | .halt f => Sys2Proof.Machine.execHalt f s
  | .bopush f => Sys2Proof.Machine.execBopush f s
  | .jr f => Sys2Proof.Machine.execJr f s
  | .callr f => Sys2Proof.Machine.execCallr f s
  | .vadd f => Sys2Proof.Machine.execVadd f s
  | .vsub f => Sys2Proof.Machine.execVsub f s
  | .vmul f => Sys2Proof.Machine.execVmul f s
  | .vmulh f => Sys2Proof.Machine.execVmulh f s
  | .vmulhn f => Sys2Proof.Machine.execVmulhn f s
  | .vmin f => Sys2Proof.Machine.execVmin f s
  | .vmax f => Sys2Proof.Machine.execVmax f s
  | .vminn f => Sys2Proof.Machine.execVminn f s
  | .vmaxn f => Sys2Proof.Machine.execVmaxn f s
  | .vand f => Sys2Proof.Machine.execVand f s
  | .vor f => Sys2Proof.Machine.execVor f s
  | .vxor f => Sys2Proof.Machine.execVxor f s
  | .vandn f => Sys2Proof.Machine.execVandn f s
  | .vsll f => Sys2Proof.Machine.execVsll f s
  | .vsrl f => Sys2Proof.Machine.execVsrl f s
  | .vsra f => Sys2Proof.Machine.execVsra f s
  | .vfadd f => Sys2Proof.Machine.execVfadd f s
  | .vfsub f => Sys2Proof.Machine.execVfsub f s
  | .vfmul f => Sys2Proof.Machine.execVfmul f s
  | .vfmin f => Sys2Proof.Machine.execVfmin f s
  | .vfmax f => Sys2Proof.Machine.execVfmax f s
  | .vfabs f => Sys2Proof.Machine.execVfabs f s
  | .vfneg f => Sys2Proof.Machine.execVfneg f s
  | .vmov f => Sys2Proof.Machine.execVmov f s
  | .vbcast f => Sys2Proof.Machine.execVbcast f s
  | .cx f => Sys2Proof.Machine.execCx f s
  | .li f => Sys2Proof.Machine.execLi f s
  | .lih f => Sys2Proof.Machine.execLih f s
  | .addl f => Sys2Proof.Machine.execAddl f s
  | .andl f => Sys2Proof.Machine.execAndl f s
  | .orl f => Sys2Proof.Machine.execOrl f s
  | .xorl f => Sys2Proof.Machine.execXorl f s
  | .mull f => Sys2Proof.Machine.execMull f s
  | .mkptr f => Sys2Proof.Machine.execMkptr f s
  | .sel f => Sys2Proof.Machine.execSel f s
  | .bext f => Sys2Proof.Machine.execBext f s
  | .bins f => Sys2Proof.Machine.execBins f s
  | .br f => Sys2Proof.Machine.execBr f s
  | .bz f => Sys2Proof.Machine.execBz f s
  | .bnz f => Sys2Proof.Machine.execBnz f s
  | .bany f => Sys2Proof.Machine.execBany f s
  | .ball f => Sys2Proof.Machine.execBall f s
  | .bnone f => Sys2Proof.Machine.execBnone f s
  | .bbo f => Sys2Proof.Machine.execBbo f s
  | .bbon f => Sys2Proof.Machine.execBbon f s
  | .call f => Sys2Proof.Machine.execCall f s
  | .loop f => Sys2Proof.Machine.execLoop f s
  | .bloop f => Sys2Proof.Machine.execBloop f s
  | .bdnz f => Sys2Proof.Machine.execBdnz f s
  | .lcset f => Sys2Proof.Machine.execLcset f s
  | .lcget f => Sys2Proof.Machine.execLcget f s
  | .pand f => Sys2Proof.Machine.execPand f s
  | .por f => Sys2Proof.Machine.execPor f s
  | .pxor f => Sys2Proof.Machine.execPxor f s
  | .pandn f => Sys2Proof.Machine.execPandn f s
  | .pnot f => Sys2Proof.Machine.execPnot f s
  | .pfroms f => Sys2Proof.Machine.execPfroms f s
  | .ptos f => Sys2Proof.Machine.execPtos f s
  | .pcnt f => Sys2Proof.Machine.execPcnt f s
  | .pffs f => Sys2Proof.Machine.execPffs f s
  | .defer f => Sys2Proof.Machine.execDefer f s
  | .drain f => Sys2Proof.Machine.execDrain f s
  | .rejoin f => Sys2Proof.Machine.execRejoin f s
  | .bopop f => Sys2Proof.Machine.execBopop f s
  | .rgnb f => Sys2Proof.Machine.execRgnb f s
  | .rgne f => Sys2Proof.Machine.execRgne f s
  | .tokn f => Sys2Proof.Machine.execTokn f s
  | .qpeek f => Sys2Proof.Machine.execQpeek f s
  | .vqpeek f => Sys2Proof.Machine.execVqpeek f s
  | .qlen f => Sys2Proof.Machine.execQlen f s
  | .eget f => Sys2Proof.Machine.execEget f s
  | .ejoin f => Sys2Proof.Machine.execEjoin f s
  | .etry f => Sys2Proof.Machine.execEtry f s
  | .eput f => Sys2Proof.Machine.execEput f s
  | .eputs f => Sys2Proof.Machine.execEputs f s
  | .estat f => Sys2Proof.Machine.execEstat f s
  | .jraise f => Sys2Proof.Machine.execJraise f s
  | .jpost f => Sys2Proof.Machine.execJpost f s
  | .jstat f => Sys2Proof.Machine.execJstat f s
  | .ld f => Sys2Proof.Machine.execLd f s
  | .st f => Sys2Proof.Machine.execSt f s
  | .vld f => Sys2Proof.Machine.execVld f s
  | .vst f => Sys2Proof.Machine.execVst f s
  | .vldx f => Sys2Proof.Machine.execVldx f s
  | .vstx f => Sys2Proof.Machine.execVstx f s
  | .vldk f => Sys2Proof.Machine.execVldk f s
  | .vstk f => Sys2Proof.Machine.execVstk f s
  | .pf f => Sys2Proof.Machine.execPf f s
  | .ipf f => Sys2Proof.Machine.execIpf f s
  | .icinv f => Sys2Proof.Machine.execIcinv f s
  | .dcwb f => Sys2Proof.Machine.execDcwb f s
  | .cbres f => Sys2Proof.Machine.execCbres f s
  | .cbcmt f => Sys2Proof.Machine.execCbcmt f s
  | .cbacq f => Sys2Proof.Machine.execCbacq f s
  | .cbrel f => Sys2Proof.Machine.execCbrel f s
  | .cpy f => Sys2Proof.Machine.execCpy f s
  | .cpywait f => Sys2Proof.Machine.execCpywait f s
  | .cpystat f => Sys2Proof.Machine.execCpystat f s
  | .capshr f => Sys2Proof.Machine.execCapshr f s
  | .capxfr f => Sys2Proof.Machine.execCapxfr f s
  | .capdrop f => Sys2Proof.Machine.execCapdrop f s
  | .caprd f => Sys2Proof.Machine.execCaprd f s
  | .capnar f => Sys2Proof.Machine.execCapnar f s
  | .capexp f => Sys2Proof.Machine.execCapexp f s
  | .capimp f => Sys2Proof.Machine.execCapimp f s
  | .ldacq f => Sys2Proof.Machine.execLdacq f s
  | .strel f => Sys2Proof.Machine.execStrel f s
  | .amo f => Sys2Proof.Machine.execAmo f s
  | .cas f => Sys2Proof.Machine.execCas f s
  | .amof f => Sys2Proof.Machine.execAmof f s
  | .cupd f => Sys2Proof.Machine.execCupd f s
  | .vcupd f => Sys2Proof.Machine.execVcupd f s
  | .vamo f => Sys2Proof.Machine.execVamo f s
  | .fence f => Sys2Proof.Machine.execFence f s
  | .semsig f => Sys2Proof.Machine.execSemsig f s
  | .semwait f => Sys2Proof.Machine.execSemwait f s
  | .semget f => Sys2Proof.Machine.execSemget f s
  | .barinit f => Sys2Proof.Machine.execBarinit f s
  | .bararr f => Sys2Proof.Machine.execBararr f s
  | .barwait f => Sys2Proof.Machine.execBarwait f s
  | .bartest f => Sys2Proof.Machine.execBartest f s
  | .waitw f => Sys2Proof.Machine.execWaitw f s
  | .waitwt f => Sys2Proof.Machine.execWaitwt f s
  | .wake f => Sys2Proof.Machine.execWake f s
  | .gts f => Sys2Proof.Machine.execGts f s
  | .crr f => Sys2Proof.Machine.execCrr f s
  | .crw f => Sys2Proof.Machine.execCrw f s
  | .disc f => Sys2Proof.Machine.execDisc f s
  | .lend f => Sys2Proof.Machine.execLend f s
  | .reclaim f => Sys2Proof.Machine.execReclaim f s
  | .vfma f => Sys2Proof.Machine.execVfma f s
  | .vfms f => Sys2Proof.Machine.execVfms f s
  | .vfnma f => Sys2Proof.Machine.execVfnma f s
  | .vfalu f => Sys2Proof.Machine.execVfalu f s
  | .vfrcp f => Sys2Proof.Machine.execVfrcp f s
  | .vfrsq f => Sys2Proof.Machine.execVfrsq f s
  | .vfsqrt f => Sys2Proof.Machine.execVfsqrt f s
  | .vfexp2 f => Sys2Proof.Machine.execVfexp2 f s
  | .vflog2 f => Sys2Proof.Machine.execVflog2 f s
  | .vfsin f => Sys2Proof.Machine.execVfsin f s
  | .vfcos f => Sys2Proof.Machine.execVfcos f s
  | .vcmp f => Sys2Proof.Machine.execVcmp f s
  | .vfcmp f => Sys2Proof.Machine.execVfcmp f s
  | .vsel f => Sys2Proof.Machine.execVsel f s
  | .viota f => Sys2Proof.Machine.execViota f s
  | .vcvt f => Sys2Proof.Machine.execVcvt f s
  | .vcvtb f => Sys2Proof.Machine.execVcvtb f s
  | .vcvti f => Sys2Proof.Machine.execVcvti f s
  | .srseed f => Sys2Proof.Machine.execSrseed f s
  | .vperm f => Sys2Proof.Machine.execVperm f s
  | .vperm2 f => Sys2Proof.Machine.execVperm2 f s
  | .vrot f => Sys2Proof.Machine.execVrot f s
  | .vtrn f => Sys2Proof.Machine.execVtrn f s
  | .vcompress f => Sys2Proof.Machine.execVcompress f s
  | .vexpand f => Sys2Proof.Machine.execVexpand f s
  | .vext f => Sys2Proof.Machine.execVext f s
  | .vins f => Sys2Proof.Machine.execVins f s
  | .bfly2 f => Sys2Proof.Machine.execBfly2 f s
  | .bfly4 f => Sys2Proof.Machine.execBfly4 f s
  | .twmul f => Sys2Proof.Machine.execTwmul f s
  | .twgen f => Sys2Proof.Machine.execTwgen f s
  | .vredadd f => Sys2Proof.Machine.execVredadd f s
  | .vredmin f => Sys2Proof.Machine.execVredmin f s
  | .vredmax f => Sys2Proof.Machine.execVredmax f s
  | .vfredadd f => Sys2Proof.Machine.execVfredadd f s
  | .vfredmin f => Sys2Proof.Machine.execVfredmin f s
  | .vfredmax f => Sys2Proof.Machine.execVfredmax f s
  | .srtkey f => Sys2Proof.Machine.execSrtkey f s
  | .srtld f => Sys2Proof.Machine.execSrtld f s
  | .srtsort f => Sys2Proof.Machine.execSrtsort f s
  | .srtmrg f => Sys2Proof.Machine.execSrtmrg f s
  | .srttopk f => Sys2Proof.Machine.execSrttopk f s
  | .srtseg f => Sys2Proof.Machine.execSrtseg f s
  | .srtthr f => Sys2Proof.Machine.execSrtthr f s
  | .srtdedup f => Sys2Proof.Machine.execSrtdedup f s
  | .srtst f => Sys2Proof.Machine.execSrtst f s
  | .srtflush f => Sys2Proof.Machine.execSrtflush f s
  | .srtstat f => Sys2Proof.Machine.execSrtstat f s
  | .srtwait f => Sys2Proof.Machine.execSrtwait f s
  | .mnset f => Sys2Proof.Machine.execMnset f s
  | .mnget f => Sys2Proof.Machine.execMnget f s
  | .mgo f => Sys2Proof.Machine.execMgo f s
  | .mwait f => Sys2Proof.Machine.execMwait f s
  | .mstat f => Sys2Proof.Machine.execMstat f s
  | .mshadow f => Sys2Proof.Machine.execMshadow f s
  | .mscl f => Sys2Proof.Machine.execMscl f s
  | .mbase f => Sys2Proof.Machine.execMbase f s
  | .mring f => Sys2Proof.Machine.execMring f s
  | .macz f => Sys2Proof.Machine.execMacz f s
  | .macld f => Sys2Proof.Machine.execMacld f s
  | .macst f => Sys2Proof.Machine.execMacst f s
  | .macadd f => Sys2Proof.Machine.execMacadd f s
  | .maccvt f => Sys2Proof.Machine.execMaccvt f s
  | .mmt f => Sys2Proof.Machine.execMmt f s
  | .mmts f => Sys2Proof.Machine.execMmts f s
  | .csrset f => Sys2Proof.Machine.execCsrset f s
  | .csrgo f => Sys2Proof.Machine.execCsrgo f s
  | .csrwait f => Sys2Proof.Machine.execCsrwait f s
  | .csrstat f => Sys2Proof.Machine.execCsrstat f s
  | .csrgath f => Sys2Proof.Machine.execCsrgath f s
  | .csrmm f => Sys2Proof.Machine.execCsrmm f s
  | .csrcnt f => Sys2Proof.Machine.execCsrcnt f s
  | .csrrst f => Sys2Proof.Machine.execCsrrst f s
  | .xfpost f => Sys2Proof.Machine.execXfpost f s
  | .xfwait f => Sys2Proof.Machine.execXfwait f s
  | .xfstat f => Sys2Proof.Machine.execXfstat f s
  | .colpost f => Sys2Proof.Machine.execColpost f s
  | .colwait f => Sys2Proof.Machine.execColwait f s
  | .colstat f => Sys2Proof.Machine.execColstat f s
  | .qfence f => Sys2Proof.Machine.execQfence f s
  | .badrd f => Sys2Proof.Machine.execBadrd f s
  | .cbdEnable b v => Sys2Proof.Machine.execCbdEnable b v s
  | .cbdDisable b v => Sys2Proof.Machine.execCbdDisable b v s
  | .spfmtWrite b v => Sys2Proof.Machine.execSpfmtWrite b v s
  | .cesrWrite v => Sys2Proof.Machine.execCesrWrite v s
  | .fpflgClear eng v => Sys2Proof.Machine.execFpflgClear eng v s
  | .fpctlWrite v => Sys2Proof.Machine.execFpctlWrite v s
  | .rotcWrite q v => Sys2Proof.Machine.execRotcWrite q v s
  | .resultComplete q => Sys2Proof.Machine.execResultComplete q s
  | .fillArrival line => Sys2Proof.Machine.execFillArrival line s
  | .pageRequestPosted d => Sys2Proof.Machine.execPageRequestPosted d s
  | .waiterRewalk => Sys2Proof.Machine.execWaiterRewalk s
  | .overflowRewalk => Sys2Proof.Machine.execOverflowRewalk s
  | .deadlockCounterExpiry => Sys2Proof.Machine.execDeadlockCounterExpiry s
  | .waitwtDeadline q => Sys2Proof.Machine.execWaitwtDeadline q s
  | .copyEntry => Sys2Proof.Machine.execCopyEntry s
  | .nestEntry => Sys2Proof.Machine.execNestEntry s
  | .tileEntry => Sys2Proof.Machine.execTileEntry s
  | .scaleCopyEntry => Sys2Proof.Machine.execScaleCopyEntry s
  | .singleStepEntry => Sys2Proof.Machine.execSingleStepEntry s
  | .gatherEntry => Sys2Proof.Machine.execGatherEntry s
  | .sparseStepEntry => Sys2Proof.Machine.execSparseStepEntry s
  | .transformEntry sock q => Sys2Proof.Machine.execTransformEntry sock q s
  | .collectiveEntry => Sys2Proof.Machine.execCollectiveEntry s
  | .collectiveAbortReceived tag => Sys2Proof.Machine.execCollectiveAbortReceived tag s
  | .queueFenceEntry q sock => Sys2Proof.Machine.execQueueFenceEntry q sock s
  | .srtFlushDone => Sys2Proof.Machine.execSrtFlushDone s
  | .scrubDone k => Sys2Proof.Machine.execScrubDone k s
  | .peerAccessAtHome r => Sys2Proof.Machine.execPeerAccessAtHome r s
  | .peerRefusalReceived => Sys2Proof.Machine.execPeerRefusalReceived s
  | .peerAckReceived => Sys2Proof.Machine.execPeerAckReceived s
  | .fabricWakeArrival job idx v => Sys2Proof.Machine.execFabricWakeArrival job idx v s
  | .launchAppend d q => Sys2Proof.Machine.execLaunchAppend d q s
  | .preEmption => Sys2Proof.Machine.execPreEmption s
  | .contextRestore id => Sys2Proof.Machine.execContextRestore id s
  | .quantumExpiry => Sys2Proof.Machine.execQuantumExpiry s
  | .deadlineMiss k => Sys2Proof.Machine.execDeadlineMiss k s
  | .harvestPlacement graph node bank => Sys2Proof.Machine.execHarvestPlacement graph node bank s
  | .harvestHeld bank => Sys2Proof.Machine.execHarvestHeld bank s
  | .harvestRevocation bank => Sys2Proof.Machine.execHarvestRevocation bank s
  | .harvestCommit n => Sys2Proof.Machine.execHarvestCommit n s
  | .heldRecordQueued d q => Sys2Proof.Machine.execHeldRecordQueued d q s
  | .gload k => Sys2Proof.Machine.execGload k s
  | .gunload k => Sys2Proof.Machine.execGunload k s
  | .launch k => Sys2Proof.Machine.execLaunch k s
  | .jcbnew k => Sys2Proof.Machine.execJcbnew k s
  | .jcbfree k => Sys2Proof.Machine.execJcbfree k s
  | .bufnew k => Sys2Proof.Machine.execBufnew k s
  | .bufrelDrop k => Sys2Proof.Machine.execBufrelDrop k s
  | .bufrelRevoke k => Sys2Proof.Machine.execBufrelRevoke k s
  | .expwd k => Sys2Proof.Machine.execExpwd k s
  | .pteset k => Sys2Proof.Machine.execPteset k s
  | .ctrrd k => Sys2Proof.Machine.execCtrrd k s
  | .answerResume k => Sys2Proof.Machine.execAnswerResume k s
  | .answerSkip k => Sys2Proof.Machine.execAnswerSkip k s
  | .answerAbort k => Sys2Proof.Machine.execAnswerAbort k s
  | .gangswOut k => Sys2Proof.Machine.execGangswOut k s
  | .gangswIn k => Sys2Proof.Machine.execGangswIn k s
  | .gangswSize k => Sys2Proof.Machine.execGangswSize k s
  | .qnew k => Sys2Proof.Machine.execQnew k s
  | .qend k => Sys2Proof.Machine.execQend k s
  | .cutoffReached job => Sys2Proof.Machine.execCutoffReached job s
  | .sweepto job stage place => Sys2Proof.Machine.execSweepto job stage place s
  | .latePacketArrival p => Sys2Proof.Machine.execLatePacketArrival p s
  | .latecloseReached job => Sys2Proof.Machine.execLatecloseReached job s
  | .readyReceived job pkg => Sys2Proof.Machine.execReadyReceived job pkg s
  | .reinjectionDrained job => Sys2Proof.Machine.execReinjectionDrained job s
  | .drainedReceived job pkg => Sys2Proof.Machine.execDrainedReceived job pkg s
  | .uncorrectableError at_ => Sys2Proof.Machine.execUncorrectableError at_ s
  | .contextFailure id => Sys2Proof.Machine.execContextFailure id s
  | .gangfReceived job cause pkg place orig => Sys2Proof.Machine.execGangfReceived job cause pkg place orig s
  | .coreFailure sock core => Sys2Proof.Machine.execCoreFailure sock core s
  | .chipletFailure sock => Sys2Proof.Machine.execChipletFailure sock s
  | .secondTierDeviceDown sock dev => Sys2Proof.Machine.execSecondTierDeviceDown sock dev s
  | .campionMismatch => Sys2Proof.Machine.execCampionMismatch s
  | .packageReset o => Sys2Proof.Machine.execPackageReset o s
  | .recovgo v o => Sys2Proof.Machine.execRecovgo v o s
  | .domcfgEnable d v => Sys2Proof.Machine.execDomcfgEnable d v s
  | .domcfgRst d v => Sys2Proof.Machine.execDomcfgRst d v s
  | .domainResetEnd d => Sys2Proof.Machine.execDomainResetEnd d s
  | .vfFlr d => Sys2Proof.Machine.execVfFlr d s
  | .pfFlr => Sys2Proof.Machine.execPfFlr s
  | .fportRetrain p v => Sys2Proof.Machine.execFportRetrain p v s
  | .registerWrite off v => Sys2Proof.Machine.execRegisterWrite off v s
  | .doorbell d q => Sys2Proof.Machine.execDoorbell d q s
  | .apertureAccess d off len wr => Sys2Proof.Machine.execApertureAccess d off len wr s
  | .hostLinkStateChange link v => Sys2Proof.Machine.execHostLinkStateChange link v s
  | .flitReceived p f => Sys2Proof.Machine.execFlitReceived p f s
  | .portDown p => Sys2Proof.Machine.execPortDown p s
  | .timestampExchange offs locked => Sys2Proof.Machine.execTimestampExchange offs locked s
  | .timestampLockLoss => Sys2Proof.Machine.execTimestampLockLoss s
  | .powerCapStep pin => Sys2Proof.Machine.execPowerCapStep pin s
  | .thermalCrossing sock temp => Sys2Proof.Machine.execThermalCrossing sock temp s
  | .hread sock => Sys2Proof.Machine.execHread sock s
  | .elog => Sys2Proof.Machine.execElog s
  | .hflush d => Sys2Proof.Machine.execHflush d s
  | .telem => Sys2Proof.Machine.execTelem s
  | .pcapset w => Sys2Proof.Machine.execPcapset w s
  | .idkey => Sys2Proof.Machine.execIdkey s
  | .attest nonce => Sys2Proof.Machine.execAttest nonce s
  | .minvup => Sys2Proof.Machine.execMinvup s
  | .unassignedOpcode wide w => Sys2Proof.Machine.execUnassignedOpcode wide w s
  | .demandFetch q => Sys2Proof.Machine.execDemandFetch q s
  | .capabilityRequestAtHome r => Sys2Proof.Machine.execCapabilityRequestAtHome r s
  | .correctableError sock => Sys2Proof.Machine.execCorrectableError sock s
  | .powerLoss => Sys2Proof.Machine.execPowerLoss s
  | .portTrained p => Sys2Proof.Machine.execPortTrained p s
  | .routeTableWrite peer ports => Sys2Proof.Machine.execRouteTableWrite peer ports s
  | .timestampSet ns => Sys2Proof.Machine.execTimestampSet ns s
  | .grandMasterChoice gm no => Sys2Proof.Machine.execGrandMasterChoice gm no s
  | .responseRead => Sys2Proof.Machine.execResponseRead s

end Sys2Proof.Machine
end

