-- ==== Sys2Proof/Machine/Step.lean ====
section
/-! DEFINITION. One step of the machine: an event that has arrived, or the sequencer in turn. -/

namespace Sys2Proof.Machine
open Sys2Proof

/-- The context in focus stands on the core in focus. -/
def State.focusOk (s : State) : Bool := s.core.isAt s.ctx.id.loc.sock s.ctx.id.loc.core

/-! ## What may issue -/

/-- The context in focus runs, sleeps, or runs on beside a faulted sequencer (R55), on a core that works and that it
holds; a harvest context under a held lease (R414). -/
def State.alive (s : State) : Bool :=
  (s.ctx.cst == .run || s.ctx.cst == .sleep || s.ctx.cst == .faulted) && s.core.live && s.pkg.powered &&
    s.resident s.ctx.id && (!s.ctx.id.harv || s.part.lease == .held)

/-- The sequencer in turn may try its next instruction: neither a region marker nor an unanswered wait keeps it (R55,
R120, R232, R263). -/
def State.ready (s : State) : Bool :=
  let x := s.sq
  x.run == .running && !x.atB && !x.atE &&
  match x.wait with
  | .page _ => false
  | .addr _ _ _ _ _ _ => x.woke.isSome || x.timed
  | .edge _ _ false => s.ctx.cst != .sleep
  | _ => true

/-! ## Between steps: the clock, the host, events, and what issues next (log entry 5) -/

/-- The row that takes a packet (R388). -/
noncomputable def packetRow (k : Pkt) : Instr :=
  match pktOp k.bits with
  | 0x02 => .gunload k
  | 0x03 => .launch k
  | 0x04 => .jcbnew k
  | 0x05 => .jcbfree k
  | 0x06 => .bufnew k
  | 0x07 => if bitAt k.bits 96 then .bufrelRevoke k else .bufrelDrop k
  | 0x08 => .expwd k
  | 0x09 => .pteset k
  | 0x0A => .ctrrd k
  | 0x0B => match fld k.bits 128 2 with
    | 1 => .answerSkip k
    | 2 => .answerAbort k
    | _ => .answerResume k
  | 0x0C => match gsAction k.bits with
    | 1 => .gangswIn k
    | 2 => .gangswSize k
    | _ => .gangswOut k
  | 0x0D => .qnew k
  | 0x0E => .qend k
  | _ => .gload k

/-- The packet of a domain that a worker takes next. -/
noncomputable def State.workerTakes (s : State) (d : BitVec 4) (w : Nat) : List Instr :=
  match s.nextQueue d w with
  | none => []
  | some x => [packetRow { dom := d, queue := x.num, bits := s.headPkt d x }]

/-- Queue numbers of a domain that satisfy a test. -/
def State.queuesWhere (s : State) (d : BitVec 4) (ok : SubQ → Bool) : List (BitVec 6) := ((s.dom d).queues.filter ok).map (·.num)
/-- A page request that waits has room (R386). -/
def PageQ.waits (p : PageQ) (eqhead : BitVec 32) : Bool := !p.waiting.isEmpty && decide ((p.eqtail - eqhead).toNat < 2 ^ p.n)
/-- Records and page requests that waited for room and have it (R385, R386, R394). -/
noncomputable def State.dueRecords (s : State) : List Instr :=
  (((upTo 16).map (BitVec.ofNat 4)).map fun d =>
    ((s.queuesWhere d fun x => !x.late.isEmpty && s.eqRoom d x).map fun q => Instr.heldRecordQueued d q) ++
    (if (s.dom d).pageq.any fun p => p.waits (s.getIdx d p.ctl 0x14) then [Instr.pageRequestPosted d] else [])).flatten
/-- Events that the state itself calls for: a gang switch whose cutoff, bound or LATECLOSE has come; the choices of dispatch in the
row in focus (R396, R398); its lease (R414); a deadline, a harvest commit and a deadlock of the context in focus (R57, R63,
R263); launches that have missed (R398); records that have room again; ports without an acknowledgement (R434); LOCK without timestamp flits (R437). -/
noncomputable def State.due (s : State) : List Instr :=
  let l := s.ctx.id.loc
  let gangs := (s.gangs.filter fun g => g.gst == .armed && g.cutoff.ule s.gts).map fun g => Instr.cutoffReached g.job
  let overdue := (s.gangs.filter fun g => g.overdue s.gts).map fun g => Instr.sweepto g.job s.sweepAt.1 s.sweepAt.2
  let row := match s.residentOf (rowOf l) with
    | some b => if s.outranked b then [Instr.preEmption] else []
    | none => match s.choose (rowOf l) with
      | some b => [.contextRestore b.ctxId]
      | none => []
  let owner := (s.ownerOf l).any fun o => o.cst == .run
  let lease :=
    if (s.partAt l).lease = .held ∧ owner then [Instr.harvestRevocation l]
    else if (s.partAt l).lease = .parked ∧ (s.harvestOf l).any (s.mayHold l) then [.harvestHeld l]
    else []
  let late := if s.sq.late s.gts then [Instr.waitwtDeadline s.turn] else []
  let commit := if s.ctx.id.harv && s.mayCommit then (s.ctx.rgns.filter fun r => s.ctx.allAtEnd r.num r.mask).map fun r => Instr.harvestCommit r.num
    else []
  let closed := (s.gangs.filter fun g => (g.gst == .save || g.gst == .out) && !g.closed && g.lateclose.ule s.gts).map fun g => Instr.latecloseReached g.job
  let dead := if s.ctx.deadlocked && s.ctx.dlk == BitVec.allOnes 20 then [Instr.deadlockCounterExpiry] else []
  let missed := ((s.allLaunches.zip (upTo s.allLaunches.length)).filter fun l => s.missedNow l.1.1 l.1.2.2).map fun l =>
    Instr.deadlineMiss (BitVec.ofNat 32 l.2)
  let stale := if bitAt s.pkg.tsstat 0 && s.stampLost then [Instr.timestampLockLoss] else []
  let down := ((upTo 128).filter fun k => (vget s.ports k).silent s.gts).map fun k => Instr.portDown (BitVec.ofNat 7 k)
  gangs ++ overdue ++ closed ++ row ++ lease ++ late ++ commit ++ dead ++ missed ++ s.dueRecords ++ down ++ stale

/-- Events that come from outside a sequencer's instructions. -/
def arrives (i : Instr) : Bool :=
  match i with
  | .resultComplete _ | .fillArrival _ | .pageRequestPosted _ | .waiterRewalk | .overflowRewalk | .deadlockCounterExpiry
  | .copyEntry | .nestEntry | .tileEntry | .scaleCopyEntry | .singleStepEntry | .gatherEntry | .sparseStepEntry
  | .transformEntry _ _ | .collectiveEntry | .collectiveAbortReceived _ | .queueFenceEntry _ _ | .srtFlushDone | .scrubDone _
  | .peerAccessAtHome _ | .peerRefusalReceived | .peerAckReceived | .fabricWakeArrival _ _ _ | .launchAppend _ _
  | .quantumExpiry | .deadlineMiss _ | .harvestPlacement _ _ _ | .heldRecordQueued _ _ | .cutoffReached _ | .sweepto _ _ _
  | .latePacketArrival _ | .latecloseReached _ | .readyReceived _ _ | .reinjectionDrained _ | .drainedReceived _ _
  | .uncorrectableError _ | .contextFailure _ | .gangfReceived _ _ _ _ _ | .coreFailure _ _ | .chipletFailure _
  | .secondTierDeviceDown _ _ | .campionMismatch | .packageReset _ | .recovgo _ _ | .domcfgEnable _ _ | .domcfgRst _ _
  | .domainResetEnd _ | .vfFlr _ | .pfFlr | .fportRetrain _ _ | .registerWrite _ _ | .doorbell _ _ | .apertureAccess _ _ _ _
  | .hostLinkStateChange _ _ | .flitReceived _ _ | .portDown _ | .timestampExchange _ _ | .timestampLockLoss | .powerCapStep _
  | .thermalCrossing _ _ | .hread _ | .elog | .hflush _ | .telem | .pcapset _ | .idkey | .attest _ | .minvup
  | .capabilityRequestAtHome _ | .correctableError _ | .powerLoss | .portTrained _ | .routeTableWrite _ _ | .timestampSet _
  | .grandMasterChoice _ _ | .responseRead => true
  | _ => false
/-- Without power nothing arrives but a reset of the package. -/
def State.hears (s : State) (i : Instr) : Bool :=
  arrives i && (s.pkg.powered || match i with
    | .packageReset _ => true
    | _ => false)

/-- What the host has written to its memory, by bus address (R385). -/
def State.hostWrote (s : State) (ws : List (Nat × Byte)) : State :=
  ws.foldl (fun s w => s.writePlaces [{ sp := .host, a := w.1 % 2 ^ 64 }] [w.2]) s
/-- gts() after n nanoseconds; it never decreases (R12, R437). -/
def laterBy (g : Word) (n : Nat) : Word := BitVec.ofNat 64 (min (g.toNat + n) (2 ^ 64 - 1))

/-- The timing counters of a context after n clocks, while it is bound and not PARKED (R363, R364): RUNC counts the clocks in RUN, and
what the others count is timing (log entry 6). -/
def Ctx.charge (c : Ctx) (t n : Nat) : Ctx :=
  if c.cst = .run ∨ c.cst = .sleep ∨ c.cst = .faulted then
    let c := ([0, 1, 2, 3, 4, 5, 6, 7, 9, 10, 11, 12, 13] : List Nat).foldl (fun c k => c.count k (Config.charged t c.id k)) c
    if c.cst = .run then c.count 15 n else c
  else c

/-- An address wait on another package's word ends when its home finds that the condition fails: when, and with which value, is
free (R90, R263). -/
def peerWake (n : Nat) (b : Bool) (x : Seqr) : Seqr :=
  match x.wait with
  | .addr .peer _ w c lt _ =>
    let v : Word := BitVec.ofNat 64 (n % 2 ^ (8 * w))
    if b && x.woke.isNone && !waitHolds lt v c then { x with woke := some v } else x
  | _ => x
/-- The homes of other packages answer the waits of the context in focus. -/
def State.peersWake (s : State) : State :=
  let (n, s) := s.freeNat
  let (b, s) := s.freeBool
  s.modCtx fun c =>
    let qs := c.seqs.map fun _ => peerWake n b
    if qs = c.seqs then c else wakeCtx { c with seqs := qs }

/-- Time passes: the clock, the host's writes, the counters. -/
def State.pass (s : State) : State :=
  let t := s.tick
  let s := { s with tick := t + 1, gts := laterBy s.gts (Config.gtsStep t) }
  ((s.hostWrote (Config.hostWrites t)).tickDlk (Config.clocks t)).mapCtxs fun c => c.charge t (Config.clocks t)
/-- What reaches the package from outside beside its events: writes to PF BAR2 (R440), host requests that are not supported (R425),
private writes of the management plane (R442); and what the firmware cores issue (R383). -/
noncomputable def State.outside (s : State) (t : Nat) : State :=
  let s := s.bar2Wrote (Config.bar2Writes t)
  let s := if Config.extraRequest t then s.complete .unsupported else s
  let s := match Config.privateWrite t with
    | some bs => s.privateWrite bs
    | none => s
  match Config.firmwareWord t with
  | some (k, w) => s.firmwareIssues k w
  | none => s
/-- The parts of the device that act beside the contexts: dispatch, the workers, a fabric port, other packages. -/
noncomputable def State.beside (s : State) (t : Nat) : State :=
  let s := ((upTo 16).map (BitVec.ofNat 4)).foldl State.refreshQueues s.refreshPass
  let s := (s.postMessages.sendStamps).outside t
  let s := match Config.link t with
    | some p => s.transmit p
    | none => s
  s.peersWake

/-- Between steps: time passes, the host writes, events arrive, and what issues next is chosen (log entry 5). -/
noncomputable def State.advance (s : State) : State :=
  let t := s.tick
  let s := s.pass.beside t
  let s := match s.others[Config.pick t]? with
    | some c => s.focus c.id
    | none => s
  let s := { s with turn := seqOf (Config.schedule t).toNat }
  let packets := match Config.worker t with
    | some (d, w) => s.workerTakes d w
    | none => []
  { s with inbox := s.inbox ++ s.due ++ packets ++ (Config.arrivals t).filter s.hears }

/-! ## The step -/

/-- An outcome with its next state advanced. -/
noncomputable def after (r : Host.Outcome State Fault Refusal) : Host.Outcome State Fault Refusal :=
  match r with
  | .next s => .next s.advance
  | .fault f => .fault f
  | .refused r => .refused r

/-- What the step performs. -/
inductive Act where
  | none
  /-- An event that has arrived; the signals that the sequencer in turn holds; the fetch of a line that it lacks. -/
  | event (i : Instr) (s : State)
  /-- Its next instruction. -/
  | instr (i : Instr) (s : State)

/-- The oldest event that has arrived; otherwise, on the sequencer in turn, the signals it holds, the fetch of a line it
lacks, or its next instruction. -/
noncomputable def State.next (s : State) : Act :=
  match s.inbox with
  | e :: rest => .event e { s with inbox := rest }
  | [] =>
    if !s.alive then .none
    else if s.sq.held ≠ [] ∧ !s.sq.atB ∧ !s.sq.atE then .event (.resultComplete s.turn) s
    else if !s.ready then .none
    else match s.fetchWord with
      | .error _ => .event (.demandFetch s.turn) s
      | .ok w => .instr (decodeWord w).1 s

/-- A try that ends in `t` issues the instruction of the sequencer in turn: it has not issued before, and waits for no operand
and no token (R35). -/
def State.issuesIn (s t : State) : Bool := !s.sq.sent && !(t.ctx.seqs.get s.turn).wait.internal

/-- The next instruction is tried. The sequencer enters its line when it issues, whatever it then waits for (R35, R333). -/
noncomputable def tryIssue (i : Instr) (s : State) : Host.Outcome State Fault Refusal :=
  match exec i s with
  | .next t => if s.issuesIn t then exec i s.enter else .next t
  | r => r

/-- What an owner's instruction means for the lease of its reserve bank (R414): the first that it issues after a
revocation parks the lease; one by which it would leave SLEEP while the lease is held waits for the revocation. -/
noncomputable def leaseStep (s : State) (r : Host.Outcome State Fault Refusal) : Host.Outcome State Fault Refusal :=
  if s.ctx.id.harv then r
  else match s.part.lease, r with
    | .revoking, .next t => if s.issuesIn t then .next t.ownerIssues else r
    | .held, .next t =>
      if s.ctx.cst = .sleep ∧ t.ctx.cst = .run then exec (.harvestRevocation s.ctx.id.loc) s else r
    | _, _ => r

/-- ONE STEP. A sequencer that cannot try anything lets time pass. -/
noncomputable def step (s : State) : Host.Outcome State Fault Refusal :=
  if !s.focusOk then .fault .focus
  else match s.next with
    | .none => .next s.advance
    | .event i s => after (exec i s)
    | .instr i s => after (leaseStep s (tryIssue i s))

/-! ## Placing an instruction -/

/-- A socket whose class has an opcode: VEC, SRT, DMX, SMX, FIO (R272, R300). -/
def sockFor (sh : Shape) : BitVec 6 :=
  (([1, 20, 2, 11, 0] : List (BitVec 6)).find? fun k => onCore (classOf k) sh).getD 1

/-- The state with the given instruction standing where the next step fetches: its bytes in the lines of the
instruction cache at the program counter of a sequencer that may issue it, that sequencer running in a context that holds
its core, on a core whose class has the opcode, and no event waiting. -/
noncomputable def State.withFetchWord (s : State) (nbits w : Nat) : State :=
  let sh := shape (decodeWord (BitVec.ofNat 64 (w % 2 ^ nbits))).1
  let s := if onCore s.cls sh then s
    else ({ s with ctx := { s.ctx with id := { s.ctx.id with loc := { sock := sockFor sh, core := 0, part := 0 } } } }).focusCore
      (sockFor sh) 0
  let q := if sh.mayIssue s.turn then s.turn else (allSeqs.find? fun q => sh.mayIssue q).getD s.turn
  let x := s.ctx.seqs.get q
  let x := { x with run := .running, wait := .none, held := [], atB := false, atE := false, skip := false, sent := false }
  let bytes : BitVec 1024 := BitVec.ofNat 1024 ((w % 2 ^ nbits) * 2 ^ (8 * fld x.pc 0 6))
  let line (k : BitVec 46) (lo : Nat) : ILine := { dom := s.domOf, line := lineOf x.pc + k, data := fldv bytes lo 512 }
  let s := if s.ctx.id.harv then s.setPart { s.part with lease := .held } else s
  { s with
    ctx := { s.ctx with seqs := s.ctx.seqs.set q x, cst := .run }
    core := { (s.core.iput (line 1 512)).iput (line 0 0) with live := true }
    binds := s.binds.map fun b => if b.ctxId = s.ctx.id then { b with res := true } else b
    pkg := { s.pkg with powered := true }
    turn := q, inbox := [], parcel := none }

end Sys2Proof.Machine
end

