-- ==== Sys2Proof/Safety.lean ====
section
/-! DEFINITION. What a safe run is (one that neither faults nor is refused), and the terms in which the statements speak
of an instruction that completes. -/

namespace Sys2Proof
open Sys2Proof.Machine

/-- A run of k steps from a state ends in a next state. -/
def SafeRun (k : Nat) (s : State) : Prop := ∃ t, Host.Core.run core k s = .next t

/-- A step from a state ends in a next state. -/
def SafeStep (s : State) : Prop := ∃ t, step s = .next t

end Sys2Proof

namespace Sys2Proof.Claims
open Sys2Proof Sys2Proof.Machine

/-! ## What the statements share -/

/-- Instruction `i` comes to its effect at `s` (R198, R37): no answer of skip stands, every decode check passes, and the
links give its tokens, which leaves `tok` on them. -/
structure Issues (i : Instr) (s : State) (tok : Vector (BitVec 4) 8) : Prop where
  unskipped : s.sq.skip = false
  sound : decodeTrap s (shape i) (checks i) (dynBad s i) = none
  tokens : takeTokens s.ctx.tok (waitLinks s.turn (shape i).tok) (tokCount (shape i)) = some tok

/-- The state in which `i` takes effect: its tokens are gone and the program counter stands at the next instruction. -/
def begun (i : Instr) (s : State) (tok : Vector (BitVec 4) 8) : State := s.started tok (s.len (shape i).len)

/-- The state after `i`, issued at `s`, has had the effect that leads to `t`: its signals are made or held. -/
def done (i : Instr) (s t : State) : State := t.finish s.turn (signalLinks s.turn (shape i).tok) (tokCount (shape i))

/-- The effect `e` ends at `s` with the result `a`, in the state `t`. -/
def Gives {α : Type} (e : Eff α) (s : State) (a : α) (t : State) : Prop := e s = .ok (a, t)

/-- The scalar slot of `i` is active at `s` (R47). -/
def slotAt (i : Instr) (s : State) : Bool := s.slotOn (shape i).pred.1 (shape i).pred.2
/-- The active lanes of `i` at `s` (R47). -/
def lanesAt (i : Instr) (s : State) : Mask := s.lanesOn (shape i).pred.1 (shape i).pred.2

/-- The scratchpad, tiles and scale memory of a core stand in their canonical form. -/
def CoreCanon (c : Core) : Prop :=
  Memory.wf c.spad = true ∧ swf 0 c.tiles = true ∧ swf false c.tpois = true ∧ swf 0 c.scale = true

/-- The buffer table of a context, and those that its checkpoints hold, stand in their canonical form. -/
def CtxCanon (c : Ctx) : Prop := swf none c.table = true ∧ ∀ r ∈ c.rgns, swf none r.chk.table = true

/-- The keyed data of a state stand in their canonical form: bytes of every storage, blocks, buffer tables, and what a gang
switch has saved of them. Where a list is not in this form an address can stand in it twice, and what one write leaves a later
read need not find; no run reaches such a state (the invariant that every step keeps says so). -/
structure Canon (s : State) : Prop where
  mem : Memory.wf s.mem = true
  cores : ∀ c ∈ s.allCores, CoreCanon c
  carves : Memory.wf s.llc = true
  hosts : Memory.wf s.hostmem = true
  buffer : Memory.wf s.pkg.bar2 = true
  jcbs : swf none s.jcbs = true
  streams : swf [] s.xfq = true
  tables : ∀ c ∈ s.ctxs, CtxCanon c
  savedCores : ∀ g ∈ s.gangs, ∀ c ∈ g.cores, CoreCanon c
  savedTables : ∀ g ∈ s.gangs, ∀ c ∈ g.ctxs, CtxCanon c

/-- Nothing outside the context in focus differs: no byte of any storage, no core, domain, block or table. -/
def OnlyCtx (s t : State) : Prop := t = { s with ctx := t.ctx, parcel := t.parcel }

/-- FRAME of an instruction with a scalar destination `d` and scalar sources `srcs`: outside the context nothing differs;
in it every scalar register but `d`, every operand-file register but `d`, every queue that no specifier names, and
everything that no operand reaches (vector and predicate registers, flags, control and generator state, buffer table, bindings)
is as before. -/
structure ScalarFrame (d : BitVec 6) (srcs : List (BitVec 6)) (s t : State) : Prop where
  outside : OnlyCtx s t
  bytes : ∀ p : Place, t.byteAt p = s.byteAt p
  scalars : ∀ k < 32, k ≠ d.toNat → vget t.ctx.s k = vget s.ctx.s k
  opfile : ∀ k < 16, k + 32 ≠ d.toNat → vget t.ctx.o k = vget s.ctx.o k
  queues : ∀ k < 8, k + 56 ≠ d.toNat → (∀ x ∈ srcs, x.toNat ≠ k + 56) → vget t.ctx.q k = vget s.ctx.q k
  rest : t.ctx = { s.ctx with
    s := t.ctx.s, o := t.ctx.o, q := t.ctx.q, seqs := t.ctx.seqs, tok := t.ctx.tok, cst := t.ctx.cst
    rgns := t.ctx.rgns, vblk := t.ctx.vblk }

/-- FRAME of an instruction with a vector destination `d` and vector sources `srcs`, flags aside. -/
structure VectorFrame (d : BitVec 6) (srcs : List (BitVec 6)) (s t : State) : Prop where
  outside : OnlyCtx s t
  bytes : ∀ p : Place, t.byteAt p = s.byteAt p
  vectors : ∀ k < 32, k ≠ d.toNat → t.vReg k = s.vReg k
  opfile : ∀ k < 16, k + 32 ≠ d.toNat → vget t.ctx.o k = vget s.ctx.o k
  queues : ∀ k < 4, k + 56 ≠ d.toNat → (∀ x ∈ srcs, x.toNat ≠ k + 56) → vget t.ctx.vq k = vget s.ctx.vq k

/-- The integer that a word stands for, kept modulo 2^64. -/
def ofI (x : Int) : Word := BitVec.ofInt 64 x
def ofN (x : Nat) : Word := BitVec.ofNat 64 x
/-- 1 for a condition that holds, else 0. -/
def one (p : Prop) [Decidable p] : Word := if p then 1 else 0
/-- B[5:0]. -/
def low6 (b : Word) : Nat := b.toNat % 64

end Sys2Proof.Claims
end

