-- ==== Sys2Proof/WellFormed.lean ====
section
/-! DEFINITION. What it takes for an instruction to be well formed: the decode checks of R198 that need the
instruction alone. -/

namespace Sys2Proof
open Sys2Proof.Machine

/-- Well formed: an assigned opcode whose fields pass every static check of R198. An event has no fields to check. -/
def WellFormed (i : Instr) : Bool :=
  match i with
  | .unassignedOpcode _ _ => false
  | i => (staticCheck i).isNone

end Sys2Proof
end

