-- ==== Sys2Proof/Certificates/Slice0/Obligations.lean ====
section
/-! DEFINITION. The statements for the provers. What they share (`Issues`, `begun`, `done`, `Gives`, the frames) stands in
Sys2Proof/Safety.lean. -/

open Sys2Proof Sys2Proof.Machine Sys2Proof.Claims

/-! ## Integer arithmetic (spec/08 R212 to R218) -/

/-- The two-source forms with their results as arithmetic of the numbers that A and B stand for (R212, R214). -/
def Sys2Proof.Claims.twoSource : List ((W32 → Instr) × BitVec 7 × (Word → Word → Word)) :=
  [(.add, 0x01, fun a b => ofI (a.toInt + b.toInt)), (.sub, 0x02, fun a b => ofI (a.toInt - b.toInt)),
   (.and, 0x03, fun a b => ofN (a.toNat &&& b.toNat)), (.or, 0x04, fun a b => ofN (a.toNat ||| b.toNat)),
   (.xor, 0x05, fun a b => ofN (a.toNat ^^^ b.toNat)),
   (.andn, 0x06, fun a b => ofN (a.toNat &&& (2 ^ 64 - 1 - b.toNat))),
   (.orn, 0x07, fun a b => ofN (a.toNat ||| (2 ^ 64 - 1 - b.toNat))),
   (.sll, 0x08, fun a b => ofN (a.toNat * 2 ^ low6 b)), (.srl, 0x09, fun a b => ofN (a.toNat / 2 ^ low6 b)),
   (.sra, 0x0A, fun a b => ofI (a.toInt / 2 ^ low6 b)),
   (.rol, 0x0B, fun a b => ofN (a.toNat * 2 ^ low6 b + a.toNat * 2 ^ low6 b / 2 ^ 64)),
   (.min, 0x0C, fun a b => ofI (min a.toInt b.toInt)), (.max, 0x0D, fun a b => ofI (max a.toInt b.toInt)),
   (.minn, 0x0E, fun a b => ofN (min a.toNat b.toNat)), (.maxn, 0x0F, fun a b => ofN (max a.toNat b.toNat)),
   (.ceq, 0x10, fun a b => one (a = b)), (.cne, 0x11, fun a b => one (a ≠ b)),
   (.clt, 0x12, fun a b => one (a.toInt < b.toInt)), (.cltn, 0x13, fun a b => one (a.toNat < b.toNat)),
   (.cle, 0x14, fun a b => one (a.toInt ≤ b.toInt)), (.clen, 0x15, fun a b => one (a.toNat ≤ b.toNat)),
   (.mul, 0x20, fun a b => ofI (a.toInt * b.toInt)), (.mulh, 0x21, fun a b => ofI (a.toInt * b.toInt / 2 ^ 64)),
   (.mulhn, 0x22, fun a b => ofN (a.toNat * b.toNat / 2 ^ 64)),
   (.div, 0x23, fun a b => if b = 0 then ofN (2 ^ 64 - 1) else ofI (a.toInt.tdiv b.toInt)),
   (.divn, 0x24, fun a b => if b = 0 then ofN (2 ^ 64 - 1) else ofN (a.toNat / b.toNat)),
   (.rem, 0x25, fun a b => if b = 0 then a else ofI (a.toInt.tmod b.toInt)),
   (.remn, 0x26, fun a b => if b = 0 then a else ofN (a.toNat % b.toNat))]

/-- R212, R214: a two-source form that issues in an active slot reads A, then B, and writes to D the number that its row
gives, whatever A and B hold (a division by 0 too). The state after it is the one that these reads and that write lead to. -/
def Sys2Proof.Claims.TwoSourceForms : Prop :=
  ∀ p ∈ twoSource, ∀ (f : W32) (s : State) (tok : Vector (BitVec 4) 8) (a b : Word) (s1 s2 t : State),
    Issues (p.1 f) s tok → slotAt (p.1 f) (begun (p.1 f) s tok) = true →
    Gives (rS f.a) (begun (p.1 f) s tok) a s1 → Gives (rS f.b) s1 b s2 → Gives (wS f.d (p.2.2 a b)) s2 () t →
    exec (p.1 f) s = .next (done (p.1 f) s t)

/-- The immediate forms, each with its counterpart's result (R213). -/
def Sys2Proof.Claims.immediateForms : List ((W32 → Instr) × (W32 → Instr)) :=
  [(.addi, .add), (.andi, .and), (.ori, .or), (.xori, .xor), (.slli, .sll), (.srli, .srl), (.srai, .sra), (.roli, .rol)]

/-- R213: an immediate form writes to D what its counterpart's row gives for A and the zero-extended B field. -/
def Sys2Proof.Claims.ImmediateForms : Prop :=
  ∀ p ∈ immediateForms, ∀ q ∈ twoSource, ∀ (f : W32) (s : State) (tok : Vector (BitVec 4) 8) (a : Word) (s1 t : State),
    q.1 f = p.2 f → Issues (p.1 f) s tok → slotAt (p.1 f) (begun (p.1 f) s tok) = true →
    Gives (rS f.a) (begun (p.1 f) s tok) a s1 → Gives (wS f.d (q.2.2 a (ofN f.b.toNat))) s1 () t →
    exec (p.1 f) s = .next (done (p.1 f) s t)

/-- The number of leading zero bits of a word is n. -/
def Sys2Proof.Claims.IsClz (a : Word) (n : Nat) : Prop := (a = 0 ∧ n = 64) ∨ (n < 64 ∧ 2 ^ (63 - n) ≤ a.toNat ∧ a.toNat < 2 ^ (64 - n))
/-- The number of trailing zero bits of a word is n. -/
def Sys2Proof.Claims.IsCtz (a : Word) (n : Nat) : Prop := (a = 0 ∧ n = 64) ∨ (n < 64 ∧ a.toNat % 2 ^ n = 0 ∧ a.getLsbD n = true)

/-- The one-source forms, each with what its result is (R215). -/
def Sys2Proof.Claims.oneSource : List ((W32 → Instr) × (Word → Word → Prop)) :=
  [(.mov, fun a r => r = a), (.neg, fun a r => r = ofI (- a.toInt)), (.not, fun a r => r = ofI (-1 - a.toInt)),
   (.clz, fun a r => ∃ n, r = ofN n ∧ IsClz a n), (.ctz, fun a r => ∃ n, r = ofN n ∧ IsCtz a n),
   (.popc, fun a r => r = ofN ((List.range 64).countP fun k => a.getLsbD k)),
   (.sextw, fun a r => r = ofI ((a.setWidth 32).toInt)), (.zextw, fun a r => r = ofN (a.toNat % 2 ^ 32))]

/-- R215: a one-source form that issues in an active slot reads A and writes to D the result of its row; there is exactly
one such result. -/
def Sys2Proof.Claims.OneSourceForms : Prop :=
  ∀ p ∈ oneSource, ∀ (f : W32) (s : State) (tok : Vector (BitVec 4) 8) (a r : Word) (s1 t : State),
    Issues (p.1 f) s tok → slotAt (p.1 f) (begun (p.1 f) s tok) = true →
    Gives (rS f.a) (begun (p.1 f) s tok) a s1 → p.2 a r → Gives (wS f.d r) s1 () t →
    exec (p.1 f) s = .next (done (p.1 f) s t) ∧ (∀ r', p.2 a r' → r' = r)

/-- The W64 immediate forms that read A (R216). -/
def Sys2Proof.Claims.longImmediate : List ((XI → Instr) × (Word → BitVec 32 → Word)) :=
  [(.lih, fun a i => ofN (i.toNat * 2 ^ 32 + a.toNat % 2 ^ 32)), (.addl, fun a i => ofI (a.toInt + i.toInt)),
   (.andl, fun a i => ofN (a.toNat &&& (ofI i.toInt).toNat)), (.orl, fun a i => ofN (a.toNat ||| i.toNat)),
   (.xorl, fun a i => ofN (a.toNat ^^^ i.toNat)), (.mull, fun a i => ofI (a.toInt * i.toInt))]

/-- R216: li writes its sign-extended immediate; every other W64 immediate form reads A and writes its row's result. -/
def Sys2Proof.Claims.LongImmediateForms : Prop :=
  (∀ p ∈ longImmediate, ∀ (f : XI) (s : State) (tok : Vector (BitVec 4) 8) (a : Word) (s1 t : State),
    Issues (p.1 f) s tok → slotAt (p.1 f) (begun (p.1 f) s tok) = true →
    Gives (rS f.a) (begun (p.1 f) s tok) a s1 → Gives (wS f.d (p.2 a f.imm)) s1 () t →
    exec (p.1 f) s = .next (done (p.1 f) s t)) ∧
  (∀ (f : XI) (s : State) (tok : Vector (BitVec 4) 8) (t : State),
    Issues (.li f) s tok → slotAt (.li f) (begun (.li f) s tok) = true →
    Gives (wS f.d (ofI f.imm.toInt)) (begun (.li f) s tok) () t →
    exec (.li f) s = .next (done (.li f) s t))

/-- R217, R218: mkptr puts the window into [63:60] and, in windows 2 and 3, the slot into [59:52], above the low bits of A;
sel takes A or B by bit 0 of C; bext takes len bits of A from pos, zero- or sign-extended; bins replaces them by the low
bits of B. -/
def Sys2Proof.Claims.PointerAndFieldForms : Prop :=
  (∀ (f : XR) (s : State) (tok : Vector (BitVec 4) 8) (a : Word) (s1 t : State) (w k : Nat),
    w = f.x.toNat % 16 → k = f.x.toNat / 16 % 256 →
    Issues (.mkptr f) s tok → slotAt (.mkptr f) (begun (.mkptr f) s tok) = true →
    Gives (rS f.a) (begun (.mkptr f) s tok) a s1 →
    Gives (wS f.d (if w = 2 ∨ w = 3 then ofN (w * 2 ^ 60 + k * 2 ^ 52 + a.toNat % 2 ^ 52)
      else ofN (w * 2 ^ 60 + a.toNat % 2 ^ 60))) s1 () t →
    exec (.mkptr f) s = .next (done (.mkptr f) s t)) ∧
  (∀ (f : XR) (s : State) (tok : Vector (BitVec 4) 8) (a b : Word) (c : Mask) (s1 s2 s3 t : State),
    Issues (.sel f) s tok → slotAt (.sel f) (begun (.sel f) s tok) = true →
    Gives (rS f.a) (begun (.sel f) s tok) a s1 → Gives (rS f.b) s1 b s2 → Gives (rP f.c) s2 c s3 →
    Gives (wS f.d (if c.getLsbD 0 then a else b)) s3 () t →
    exec (.sel f) s = .next (done (.sel f) s t)) ∧
  (∀ (f : XR) (s : State) (tok : Vector (BitVec 4) 8) (a : Word) (s1 t : State) (pos len : Nat),
    pos = f.x.toNat % 64 → len = f.x.toNat / 64 + 1 →
    Issues (.bext f) s tok → slotAt (.bext f) (begun (.bext f) s tok) = true →
    Gives (rS f.a) (begun (.bext f) s tok) a s1 →
    Gives (wS f.d (if f.f.getLsbD 0 ∧ a.getLsbD (pos + len - 1) then ofI (a.toNat / 2 ^ pos % 2 ^ len - 2 ^ len : Int)
      else ofN (a.toNat / 2 ^ pos % 2 ^ len))) s1 () t →
    exec (.bext f) s = .next (done (.bext f) s t)) ∧
  (∀ (f : XR) (s : State) (tok : Vector (BitVec 4) 8) (a b r : Word) (s1 s2 t : State) (pos len : Nat),
    pos = f.x.toNat % 64 → len = f.x.toNat / 64 + 1 →
    Issues (.bins f) s tok → slotAt (.bins f) (begun (.bins f) s tok) = true →
    Gives (rS f.a) (begun (.bins f) s tok) a s1 → Gives (rS f.b) s1 b s2 →
    (∀ k < 64, r.getLsbD k = if pos ≤ k ∧ k < pos + len then b.getLsbD (k - pos) else a.getLsbD k) →
    Gives (wS f.d r) s2 () t →
    exec (.bins f) s = .next (done (.bins f) s t))

/-- FRAME of the integer forms: when one completes as above, the state after it differs from the one before it only in the
context in focus, and there in no register but D, in no queue but those its specifiers name, in no flag and in nothing
that an operand does not reach (R43, R94, R212 to R218). -/
def Sys2Proof.Claims.IntegerFrame : Prop :=
  (∀ p ∈ twoSource, ∀ (f : W32) (s : State) (tok : Vector (BitVec 4) 8) (a b : Word) (s1 s2 t : State),
    Issues (p.1 f) s tok → slotAt (p.1 f) (begun (p.1 f) s tok) = true →
    Gives (rS f.a) (begun (p.1 f) s tok) a s1 → Gives (rS f.b) s1 b s2 → Gives (wS f.d (p.2.2 a b)) s2 () t →
    ∃ u, exec (p.1 f) s = .next u ∧ ScalarFrame f.d [f.a, f.b] s u) ∧
  (∀ p ∈ oneSource, ∀ (f : W32) (s : State) (tok : Vector (BitVec 4) 8) (a r : Word) (s1 t : State),
    Issues (p.1 f) s tok → slotAt (p.1 f) (begun (p.1 f) s tok) = true →
    Gives (rS f.a) (begun (p.1 f) s tok) a s1 → p.2 a r → Gives (wS f.d r) s1 () t →
    ∃ u, exec (p.1 f) s = .next u ∧ ScalarFrame f.d [f.a] s u) ∧
  (∀ p ∈ longImmediate, ∀ (f : XI) (s : State) (tok : Vector (BitVec 4) 8) (a : Word) (s1 t : State),
    Issues (p.1 f) s tok → slotAt (p.1 f) (begun (p.1 f) s tok) = true →
    Gives (rS f.a) (begun (p.1 f) s tok) a s1 → Gives (wS f.d (p.2 a f.imm)) s1 () t →
    ∃ u, exec (p.1 f) s = .next u ∧ ScalarFrame f.d [f.a] s u) ∧
  (∀ p ∈ immediateForms, ∀ q ∈ twoSource, ∀ (f : W32) (s : State) (tok : Vector (BitVec 4) 8) (a : Word) (s1 t : State),
    q.1 f = p.2 f → Issues (p.1 f) s tok → slotAt (p.1 f) (begun (p.1 f) s tok) = true →
    Gives (rS f.a) (begun (p.1 f) s tok) a s1 → Gives (wS f.d (q.2.2 a (ofN f.b.toNat))) s1 () t →
    ∃ u, exec (p.1 f) s = .next u ∧ ScalarFrame f.d [f.a] s u) ∧
  (∀ (f : XI) (s : State) (tok : Vector (BitVec 4) 8) (t : State),
    Issues (.li f) s tok → slotAt (.li f) (begun (.li f) s tok) = true →
    Gives (wS f.d (ofI f.imm.toInt)) (begun (.li f) s tok) () t →
    ∃ u, exec (.li f) s = .next u ∧ ScalarFrame f.d [] s u) ∧
  (∀ (f : XR) (s : State) (tok : Vector (BitVec 4) 8) (a : Word) (s1 : State),
    (Issues (.mkptr f) s tok → slotAt (.mkptr f) (begun (.mkptr f) s tok) = true →
      Gives (rS f.a) (begun (.mkptr f) s tok) a s1 → (∀ x, ∃ t, Gives (wS f.d x) s1 () t) →
      ∃ u, exec (.mkptr f) s = .next u ∧ ScalarFrame f.d [f.a] s u) ∧
    (Issues (.bext f) s tok → slotAt (.bext f) (begun (.bext f) s tok) = true →
      Gives (rS f.a) (begun (.bext f) s tok) a s1 → (∀ x, ∃ t, Gives (wS f.d x) s1 () t) →
      ∃ u, exec (.bext f) s = .next u ∧ ScalarFrame f.d [f.a] s u)) ∧
  (∀ (f : XR) (s : State) (tok : Vector (BitVec 4) 8) (a b : Word) (s1 s2 : State),
    (∀ (c : Mask) (s3 : State), Issues (.sel f) s tok → slotAt (.sel f) (begun (.sel f) s tok) = true →
      Gives (rS f.a) (begun (.sel f) s tok) a s1 → Gives (rS f.b) s1 b s2 → Gives (rP f.c) s2 c s3 →
      (∀ x, ∃ t, Gives (wS f.d x) s3 () t) → ∃ u, exec (.sel f) s = .next u ∧ ScalarFrame f.d [f.a, f.b] s u) ∧
    (Issues (.bins f) s tok → slotAt (.bins f) (begun (.bins f) s tok) = true →
      Gives (rS f.a) (begun (.bins f) s tok) a s1 → Gives (rS f.b) s1 b s2 → (∀ x, ∃ t, Gives (wS f.d x) s2 () t) →
      ∃ u, exec (.bins f) s = .next u ∧ ScalarFrame f.d [f.a, f.b] s u))

/-! ## Branches, loops, predicates, deferral, queues, tokens, regions (spec/08 R219 to R232) -/

/-- The target of a relative branch at the instruction that `s` is about to issue (R189, R219). -/
def Sys2Proof.Claims.dest (s : State) (off : BitVec 28) : BitVec 52 := BitVec.ofInt 52 (s.sq.pc.toNat + 2 * off.toInt)
/-- `t` with the sequencer in turn at an address. -/
def Sys2Proof.Claims.goTo (t : State) (a : BitVec 52) : State := t.setSq { t.sq with pc := a }
/-- `t`, at the target of the branch that `s` issues when it is taken. -/
def Sys2Proof.Claims.goIf (taken : Prop) [Decidable taken] (s : State) (off : BitVec 28) (t : State) : State :=
  if taken then goTo t (dest s off) else t
/-- Address plus length of the instruction that `s` is about to issue (R219). -/
def Sys2Proof.Claims.linkAddr (i : Instr) (s : State) : Word := (s.sq.pc + BitVec.ofNat 52 (s.len (shape i).len)).zeroExtend 64

/-- R189, R219, R220: an active br always goes to its target, the others when their condition holds, and to the next
instruction otherwise; queue operands pop whether or not the branch is taken; call writes the link address to A. -/
def Sys2Proof.Claims.RelativeBranches : Prop :=
  (∀ (f : XB) (s : State) (tok : Vector (BitVec 4) 8), Issues (.br f) s tok → slotAt (.br f) (begun (.br f) s tok) = true →
    exec (.br f) s = .next (done (.br f) s (goTo (begun (.br f) s tok) (dest s f.off)))) ∧
  (∀ p ∈ ([(.bz, fun a => a == 0), (.bnz, fun a => a != 0)] : List ((XB → Instr) × (Word → Bool))),
    ∀ (f : XB) (s : State) (tok : Vector (BitVec 4) 8) (a : Word) (t : State),
    Issues (p.1 f) s tok → slotAt (p.1 f) (begun (p.1 f) s tok) = true → Gives (rS f.a) (begun (p.1 f) s tok) a t →
    exec (p.1 f) s = .next (done (p.1 f) s (goIf (p.2 a) s f.off t))) ∧
  (∀ p ∈ ([(.bany, fun a b => (upTo 64).any fun k => a.getLsbD k && b.getLsbD k),
           (.ball, fun a b => (upTo 64).all fun k => a.getLsbD k || !b.getLsbD k),
           (.bnone, fun a b => (upTo 64).all fun k => !a.getLsbD k || !b.getLsbD k)] :
           List ((XB → Instr) × (Mask → Mask → Bool))),
    ∀ (f : XB) (s : State) (tok : Vector (BitVec 4) 8) (a b : Mask) (s1 t : State),
    Issues (p.1 f) s tok → slotAt (p.1 f) (begun (p.1 f) s tok) = true →
    Gives (rP f.a) (begun (p.1 f) s tok) a s1 → Gives (rP f.b) s1 b t →
    exec (p.1 f) s = .next (done (p.1 f) s (goIf (p.2 a b) s f.off t))) ∧
  (∀ p ∈ ([(.bbo, true), (.bbon, false)] : List ((XB → Instr) × Bool)),
    ∀ (f : XB) (s : State) (tok : Vector (BitVec 4) 8) (x : Bool),
    Issues (p.1 f) s tok → slotAt (p.1 f) (begun (p.1 f) s tok) = true → qHead s.ctx.bo = some x →
    exec (p.1 f) s = .next (done (p.1 f) s (goIf (x = p.2) s f.off
      ((begun (p.1 f) s tok).modCtx fun c => { c with bo := qPop s.curRgn c.bo })))) ∧
  (∀ (f : XB) (s : State) (tok : Vector (BitVec 4) 8) (t : State),
    Issues (.call f) s tok → slotAt (.call f) (begun (.call f) s tok) = true →
    Gives (wS f.a (linkAddr (.call f) s)) (begun (.call f) s tok) () t →
    exec (.call f) s = .next (done (.call f) s (goTo t (dest s f.off))))

/-- R221, R189: jr and callr go to the address in A, callr after writing the link address to D; when bit 0 or one of bits
[63:52] of A is 1 they raise ILLOP with cause 0xA, and D is not written. -/
def Sys2Proof.Claims.RegisterJumps : Prop :=
  (∀ (f : W32) (s : State) (tok : Vector (BitVec 4) 8) (a : Word) (t : State),
    Issues (.jr f) s tok → slotAt (.jr f) (begun (.jr f) s tok) = true → Gives (rS f.a) (begun (.jr f) s tok) a t →
    exec (.jr f) s = .next (if a.toNat < 2 ^ 52 ∧ a.toNat % 2 = 0 then done (.jr f) s (goTo t (BitVec.ofNat 52 a.toNat))
      else s.raise (illop 0xA (if s.parcel.isSome then 2 else 0) (s.parcel.map (·.toNat) |>.getD 0) 20 a))) ∧
  (∀ (f : W32) (s : State) (tok : Vector (BitVec 4) 8) (a : Word) (s1 t : State),
    Issues (.callr f) s tok → slotAt (.callr f) (begun (.callr f) s tok) = true →
    Gives (rS f.a) (begun (.callr f) s tok) a s1 → Gives (wS f.d (linkAddr (.callr f) s)) s1 () t →
    exec (.callr f) s = .next (if a.toNat < 2 ^ 52 ∧ a.toNat % 2 = 0 then done (.callr f) s (goTo t (BitVec.ofNat 52 a.toNat))
      else s.raise (illop 0xA (if s.parcel.isSome then 2 else 0) (s.parcel.map (·.toNat) |>.getD 0) 20 a)))

/-- `t` with a loop counter of the sequencer in turn set. -/
def Sys2Proof.Claims.withLc (t : State) (n : BitVec 2) (x : BitVec 32) : State :=
  t.setSq { t.sq with lc := t.sq.lc.set n.toNat x n.isLt }

/-- R222, R223: loop sets its counter to min(u(A), 2^32 - 1) and leaves a body that is not to run; bloop counts down, goes
back while the counter is not 0, and rotates both bases; bdnz counts a scalar register down; lcset and lcget move a
counter. -/
def Sys2Proof.Claims.LoopForms : Prop :=
  (∀ (f : XB) (s : State) (tok : Vector (BitVec 4) 8) (a : Word) (t : State) (n : Nat),
    n = min a.toNat (2 ^ 32 - 1) →
    Issues (.loop f) s tok → slotAt (.loop f) (begun (.loop f) s tok) = true → Gives (rS f.a) (begun (.loop f) s tok) a t →
    exec (.loop f) s = .next (done (.loop f) s (goIf (n = 0) s f.off (withLc t f.lc (BitVec.ofNat 32 n))))) ∧
  (∀ (f : XB) (s : State) (tok : Vector (BitVec 4) 8) (n : Nat) (t : State),
    n = ((s.lc f.lc).toNat - 1 : Nat) →
    Issues (.bloop f) s tok → slotAt (.bloop f) (begun (.bloop f) s tok) = true →
    t = goIf (n ≠ 0) s f.off (withLc (begun (.bloop f) s tok) f.lc (BitVec.ofNat 32 n)) →
    exec (.bloop f) s = .next (done (.bloop f) s (t.setSq { t.sq with
      vrb := BitVec.ofNat 4 (s.sq.vrb.toNat + 15), prb := BitVec.ofNat 3 (s.sq.prb.toNat + 7) }))) ∧
  (∀ (f : XB) (s : State) (tok : Vector (BitVec 4) 8) (a : Word) (s1 : State),
    Issues (.bdnz f) s tok → slotAt (.bdnz f) (begun (.bdnz f) s tok) = true →
    Gives (rS f.a) (begun (.bdnz f) s tok) a s1 →
    (a = 0 → exec (.bdnz f) s = .next (done (.bdnz f) s s1)) ∧
    (∀ t, a ≠ 0 → Gives (wS f.a (a - 1)) s1 () t →
      exec (.bdnz f) s = .next (done (.bdnz f) s (goIf (a ≠ 1) s f.off t)))) ∧
  (∀ (f : XR) (s : State) (tok : Vector (BitVec 4) 8) (a : Word) (t : State),
    Issues (.lcset f) s tok → slotAt (.lcset f) (begun (.lcset f) s tok) = true →
    Gives (rS f.a) (begun (.lcset f) s tok) a t →
    exec (.lcset f) s = .next (done (.lcset f) s (withLc t (BitVec.ofNat 2 f.f.toNat) (BitVec.ofNat 32 a.toNat)))) ∧
  (∀ (f : XR) (s : State) (tok : Vector (BitVec 4) 8) (t : State),
    Issues (.lcget f) s tok → slotAt (.lcget f) (begun (.lcget f) s tok) = true →
    Gives (wS f.d (ofN (s.lc (BitVec.ofNat 2 f.f.toNat)).toNat)) (begun (.lcget f) s tok) () t →
    exec (.lcget f) s = .next (done (.lcget f) s t))

/-- R215, R36, R75: an active halt leaves its sequencer halted; when all four then are, the context is DONE, its task has
ended, and the context answers no further instruction; otherwise nothing but the sequencer differs. -/
def Sys2Proof.Claims.Halting : Prop :=
  ∀ (f : W32) (s : State) (tok : Vector (BitVec 4) 8), Issues (.halt f) s tok →
    slotAt (.halt f) (begun (.halt f) s tok) = true →
    let b := begun (.halt f) s tok
    let h := b.setSq { b.sq with run := .halted (some s.sq.pc) }
    let last := allSeqs.all fun q => q == s.turn || match (s.ctx.seqs.get q).run with | .halted _ => true | _ => false
    (last = false → exec (.halt f) s = .next (done (.halt f) s h)) ∧
    (last = true → ∃ u, exec (.halt f) s = .next u ∧ u.ctx.cst = .done ∧ u.ctx.task = none ∧ u.alive = false ∧
      exec (.halt f) s = .next (done (.halt f) s (h.endTask.modCtx fun c => { c with cst := .done })))

/-- Predicate forms with a predicate destination (R224). -/
def Sys2Proof.Claims.predTwo : List ((XR → Instr) × (Bool → Bool → Bool)) :=
  [(.pand, fun a b => a && b), (.por, fun a b => a || b), (.pxor, fun a b => a ^^ b), (.pandn, fun a b => a && !b)]
/-- Predicate forms with a scalar destination (R224). -/
def Sys2Proof.Claims.predScalar : List ((XR → Instr) × (Mask → Word → Prop)) :=
  [(.ptos, fun a r => r = a), (.pcnt, fun a r => r = ofN ((List.range 64).countP fun k => a.getLsbD k)),
   (.pffs, fun a r => ∃ n, r = ofN n ∧ IsCtz a n)]

/-- R224: the predicate forms, lane by lane, and their moves to and from scalar registers; what is written to a predicate
is written whole. -/
def Sys2Proof.Claims.PredicateForms : Prop :=
  (∀ p ∈ predTwo, ∀ (f : XR) (s : State) (tok : Vector (BitVec 4) 8) (a b r : Mask) (s1 s2 t : State),
    Issues (p.1 f) s tok → slotAt (p.1 f) (begun (p.1 f) s tok) = true →
    Gives (rP f.a) (begun (p.1 f) s tok) a s1 → Gives (rP f.b) s1 b s2 →
    (∀ k < 64, r.getLsbD k = p.2 (a.getLsbD k) (b.getLsbD k)) → Gives (wP f.d r) s2 () t →
    exec (p.1 f) s = .next (done (p.1 f) s t)) ∧
  (∀ (f : XR) (s : State) (tok : Vector (BitVec 4) 8) (a r : Mask) (s1 t : State),
    Issues (.pnot f) s tok → slotAt (.pnot f) (begun (.pnot f) s tok) = true →
    Gives (rP f.a) (begun (.pnot f) s tok) a s1 → (∀ k < 64, r.getLsbD k = !a.getLsbD k) → Gives (wP f.d r) s1 () t →
    exec (.pnot f) s = .next (done (.pnot f) s t)) ∧
  (∀ (f : XR) (s : State) (tok : Vector (BitVec 4) 8) (a : Word) (s1 t : State),
    Issues (.pfroms f) s tok → slotAt (.pfroms f) (begun (.pfroms f) s tok) = true →
    Gives (rS f.a) (begun (.pfroms f) s tok) a s1 → Gives (wP f.d a) s1 () t →
    exec (.pfroms f) s = .next (done (.pfroms f) s t)) ∧
  (∀ p ∈ predScalar, ∀ (f : XR) (s : State) (tok : Vector (BitVec 4) 8) (a : Mask) (r : Word) (s1 t : State),
    Issues (p.1 f) s tok → slotAt (p.1 f) (begun (p.1 f) s tok) = true →
    Gives (rP f.a) (begun (p.1 f) s tok) a s1 → p.2 a r → Gives (wS f.d r) s1 () t →
    exec (p.1 f) s = .next (done (p.1 f) s t))

/-- R43, R45, R225, R229: bopush appends 1 for an A that is not 0 while the branch-outcome queue holds fewer than 32
entries, and waits while it holds 32; bopop takes the oldest; qpeek and vqpeek copy the head of a queue and leave it; qlen
counts. The peeks wait while the queue is empty. -/
def Sys2Proof.Claims.QueueForms : Prop :=
  (∀ (f : W32) (s : State) (tok : Vector (BitVec 4) 8) (a : Word) (t : State),
    Issues (.bopush f) s tok → slotAt (.bopush f) (begun (.bopush f) s tok) = true →
    Gives (rS f.a) (begun (.bopush f) s tok) a t →
    exec (.bopush f) s = .next (if s.ctx.bo.length < 32
      then done (.bopush f) s (t.modCtx fun c => { c with bo := c.bo ++ [{ val := a != 0 }] })
      else s.blocked s .boFull)) ∧
  (∀ (f : XR) (s : State) (tok : Vector (BitVec 4) 8),
    Issues (.bopop f) s tok → slotAt (.bopop f) (begun (.bopop f) s tok) = true →
    (qHead s.ctx.bo = none → exec (.bopop f) s = .next (s.blocked s .boEmpty)) ∧
    (∀ x t, qHead s.ctx.bo = some x →
      Gives (wS f.d (if x then 1 else 0)) ((begun (.bopop f) s tok).modCtx fun c => { c with bo := qPop s.curRgn c.bo }) () t →
      exec (.bopop f) s = .next (done (.bopop f) s t))) ∧
  (∀ (f : XR) (s : State) (tok : Vector (BitVec 4) 8),
    Issues (.qpeek f) s tok → slotAt (.qpeek f) (begun (.qpeek f) s tok) = true →
    (qHead (vget s.ctx.q (f.a.toNat - 56)) = none → exec (.qpeek f) s = .next (s.blocked s .dqEmpty)) ∧
    (∀ x t, qHead (vget s.ctx.q (f.a.toNat - 56)) = some x → Gives (wS f.d x) (begun (.qpeek f) s tok) () t →
      exec (.qpeek f) s = .next (done (.qpeek f) s t))) ∧
  (∀ (f : XR) (s : State) (tok : Vector (BitVec 4) 8),
    Issues (.vqpeek f) s tok → slotAt (.vqpeek f) (begun (.vqpeek f) s tok) = true →
    (qHead (vget s.ctx.vq (f.a.toNat - 56)) = none → exec (.vqpeek f) s = .next (s.blocked s .dqEmpty)) ∧
    (∀ x t, qHead (vget s.ctx.vq (f.a.toNat - 56)) = some x →
      Gives (wV f.d (BitVec.allOnes 64) x) (begun (.vqpeek f) s tok) () t →
      exec (.vqpeek f) s = .next (done (.vqpeek f) s t))) ∧
  (∀ (f : XR) (s : State) (tok : Vector (BitVec 4) 8) (n : Nat) (t : State),
    Issues (.qlen f) s tok → slotAt (.qlen f) (begun (.qlen f) s tok) = true →
    n = (if f.f = 0 then (vget s.ctx.q (f.a.toNat - 56)).countP (·.mark.isNone)
      else if f.f = 1 then (vget s.ctx.vq (f.a.toNat - 56)).countP (·.mark.isNone) else s.ctx.bo.countP (·.mark.isNone)) →
    Gives (wS f.d (ofN n)) (begun (.qlen f) s tok) () t →
    exec (.qlen f) s = .next (done (.qlen f) s t))

/-- R226, R49, R50: with room for every selected lane, defer appends one entry for each, lowest lane first, with the lane's
values, its tag and k, adds the lanes to the deferral mask and writes 1 to D; without room it writes 0 and appends and
defers nothing. It never waits; with no active lane it does nothing. -/
def Sys2Proof.Claims.DeferForm : Prop :=
  ∀ (f : XR) (s : State) (tok : Vector (BitVec 4) 8) (b : Mask) (s1 : State),
    Issues (.defer f) s tok → s.ctx.id.harv = false → lanesAt (.defer f) (begun (.defer f) s tok) ≠ 0 →
    Gives (rP f.b) (begun (.defer f) s tok) b s1 →
    let sel := lanesAt (.defer f) s &&& b
    let lanes := (List.range 64).filter fun l => sel.getLsbD l
    let k := f.x.toNat / 16 % 4
    (512 < s.ctx.defq.length + lanes.length → ∀ t, Gives (wS f.d 0) s1 () t →
      ∃ u, exec (.defer f) s = .next u ∧ u.ctx.defq = s.ctx.defq ∧ u.ctx.dmask = s.ctx.dmask ∧ u.ctx.s = t.ctx.s) ∧
    (s.ctx.defq.length + lanes.length ≤ 512 → ∀ t, Gives (wS f.d 1) s1 () t →
      ∃ u es, exec (.defer f) s = .next u ∧ u.ctx.defq = s.ctx.defq ++ es ∧ u.ctx.dmask = s.ctx.dmask ||| sel ∧
        u.ctx.s = t.ctx.s ∧ es.map (·.lane.toNat) = lanes ∧
        ∀ e ∈ es, e.path = f.x.setWidth 4 ∧ e.nval.toNat = k ∧
          ∀ j < 4, (e.val.extractLsb' (32 * j) 32 : Lane) =
            if j ≤ k then lane (s.vReg (f.a.toNat + j)) e.lane.toNat else 0)

/-- R227, R51: drain takes the first n entries of its tag, where n is 64 when there are 64 or more, otherwise all of them
under .flush and none without; the others keep their order. Entry i writes lane i of each register of the group, lanes n
and above keep what they held, and C becomes the mask of the low n lanes. -/
def Sys2Proof.Claims.DrainForm : Prop :=
  ∀ (f : XR) (s : State) (tok : Vector (BitVec 4) 8),
    Issues (.drain f) s tok → s.ctx.id.harv = false → slotAt (.drain f) (begun (.drain f) s tok) = true →
    f.d.toNat + f.x.toNat / 16 % 4 + f.x.toNat / 64 % 2 < 32 →
    let tag : BitVec 4 := f.x.setWidth 4
    let k := f.x.toNat / 16 % 4
    let mine := s.ctx.defq.filter fun e => e.path == tag
    let n := if 64 ≤ mine.length then 64 else if f.x.getLsbD 7 then mine.length else 0
    ∃ u, exec (.drain f) s = .next u ∧
      (u.ctx.defq.filter fun e => e.path == tag) = mine.drop n ∧
      (u.ctx.defq.filter fun e => e.path != tag) = (s.ctx.defq.filter fun e => e.path != tag) ∧
      (∀ j ≤ k, ∀ l < 64, lane (u.vReg (f.d.toNat + j)) l =
        match (mine.take n)[l]? with
        | some e => if j ≤ e.nval.toNat then e.val.extractLsb' (32 * j) 32 else 0
        | none => lane (s.vReg (f.d.toNat + j)) l) ∧
      (f.x.getLsbD 6 = true → ∀ l < 64, lane (u.vReg (f.d.toNat + k + 1)) l =
        match (mine.take n)[l]? with
        | some e => BitVec.ofNat 32 (e.lane.toNat + 64 * e.path.toNat + 1024 * e.nval.toNat)
        | none => lane (s.vReg (f.d.toNat + k + 1)) l) ∧
      (0 < f.c.toNat → f.c.toNat < 16 → u.pReg f.c.toNat = BitVec.ofNat 64 (2 ^ n - 1))

/-- R228, R49: rejoin clears the whole deferral mask and leaves the deferral queue as it is. -/
def Sys2Proof.Claims.RejoinForm : Prop :=
  ∀ (f : XR) (s : State) (tok : Vector (BitVec 4) 8),
    Issues (.rejoin f) s tok → s.ctx.id.harv = false → slotAt (.rejoin f) (begun (.rejoin f) s tok) = true →
    ∃ u, exec (.rejoin f) s = .next u ∧ u.ctx.dmask = 0 ∧ u.ctx.defq = s.ctx.defq ∧ u.ctx.s = s.ctx.s ∧ OnlyCtx s u

/-- R52, R416: in a harvest context an active defer, drain or rejoin raises LEASE with cause 0x2, and leaves the deferral
queue and mask as they are. -/
def Sys2Proof.Claims.DeferralInHarvest : Prop :=
  ∀ p ∈ ([.defer, .drain, .rejoin] : List (XR → Instr)), ∀ (f : XR) (s : State) (tok : Vector (BitVec 4) 8),
    Issues (p f) s tok → s.ctx.id.harv = true → slotAt (p f) (begun (p f) s tok) = true →
    lanesAt (p f) (begun (p f) s tok) ≠ 0 →
    exec (p f) s = .next (s.raise (fillLease (lease 2 0xFF 0 0) (fmtOf s (shape (p f))) (shape (p f)).opcode.toNat s.part.lent.toNat)) ∧
    (s.raise (fillLease (lease 2 0xFF 0 0) (fmtOf s (shape (p f))) (shape (p f)).opcode.toNat s.part.lent.toNat)).ctx.defq = s.ctx.defq ∧
    (s.raise (fillLease (lease 2 0xFF 0 0) (fmtOf s (shape (p f))) (shape (p f)).opcode.toNat s.part.lent.toNat)).ctx.dmask = s.ctx.dmask

/-- The links of a list each hold n tokens more than before, and the others as many. -/
def Sys2Proof.Claims.MovedUp (ls : List (Fin 8)) (n : Nat) (t u : Vector (BitVec 4) 8) : Prop :=
  ∀ l : Fin 8, (u.get l).toNat = (t.get l).toNat + (if l ∈ ls then n else 0)

/-- R230, R37, R48: tokn with count n and nop with count 1 take that many tokens from every link that their token bits wait
on; the signals are made at once when every signalled link has room, and otherwise stand held. Whatever the predicate holds,
they change no register, queue, predicate, flag or byte. -/
def Sys2Proof.Claims.TokenForms : Prop :=
  ∀ i, ((∃ f : XR, i = .tokn f) ∨ (∃ f : W32, i = .nop f)) →
    ∀ (s : State) (tok : Vector (BitVec 4) 8), Issues i s tok → s.sq.held = [] → s.sq.atB = false → s.sq.atE = false →
    let n := match i with | .tokn f => f.x.toNat % 16 | _ => 1
    let w := waitLinks s.turn (shape i).tok
    let g := signalLinks s.turn (shape i).tok
    let u := done i s (begun i s tok)
    exec i s = .next u ∧ MovedUp w n tok s.ctx.tok ∧
      ((∀ l ∈ g, (tok.get l).toNat + n ≤ 15) → MovedUp g n tok u.ctx.tok ∧ (u.ctx.seqs.get s.turn).held = []) ∧
      (∀ l ∈ g, 15 < (tok.get l).toNat + n → (l, n) ∈ (u.ctx.seqs.get s.turn).held ∧ u.ctx.tok.get l = tok.get l) ∧
      (u.ctx.seqs.get s.turn).pc = s.sq.pc + BitVec.ofNat 52 (s.len (shape i).len) ∧
      u.ctx.s = s.ctx.s ∧ u.ctx.v = s.ctx.v ∧ u.ctx.o = s.ctx.o ∧ u.ctx.p = s.ctx.p ∧ u.ctx.q = s.ctx.q ∧
      u.ctx.vq = s.ctx.vq ∧ u.ctx.bo = s.ctx.bo ∧ u.ctx.fpflg = s.ctx.fpflg ∧
      (u.ctx.seqs.get s.turn).latch = s.sq.latch ∧ OnlyCtx s u

/-- R231, R232, R118: an rgnb whose sequencer is the last of those listed opens the region: its checkpoint holds the
sequencers after their markers, the token counts, the queues and the generator state; while another listed sequencer has
not come, the sequencer is held at the marker and no region opens. -/
def Sys2Proof.Claims.RegionBegin : Prop :=
  ∀ (f : XR) (s : State) (tok : Vector (BitVec 4) 8) (m : BitVec 4),
    Issues (.rgnb f) s tok → (s.ctx.bnd.rgns.find? fun r => r.1 == f.x) = some (f.x, m) →
    m.getLsbD (seqCode s.turn) = true →
    let others := listedSeqs m |>.filter (· ≠ s.turn)
    let here := others.all fun q => (s.ctx.seqs.get q).atB && (s.ctx.seqs.get q).rgn == some f.x
    let b := begun (.rgnb f) s tok
    let u := done (.rgnb f) s (b.setSq { b.sq with rgn := some f.x, atB := true })
    exec (.rgnb f) s = .next u ∧ (u.ctx.seqs.get s.turn).rgn = some f.x ∧
      (u.ctx.seqs.get s.turn).pc = s.sq.pc + BitVec.ofNat 52 (s.len 8) ∧
      (here = false → u.ctx.rgns = s.ctx.rgns ∧ (u.ctx.seqs.get s.turn).atB = true ∧
        (u.ctx.seqs.get s.turn).wait = .marker) ∧
      (here = true → ∃ r, u.ctx.rgns = r :: s.ctx.rgns ∧ r.num = f.x ∧ r.mask = m ∧ r.dirty = false ∧
        (∀ q ∈ listedSeqs m, (u.ctx.seqs.get q).atB = false ∧ (r.chk.seqs.get q).pc = (u.ctx.seqs.get q).pc) ∧
        r.chk.tok = tok ∧ r.chk.q = s.ctx.q ∧ r.chk.vq = s.ctx.vq ∧ r.chk.bo = s.ctx.bo ∧ r.chk.srs = s.ctx.srs)

/-- R232: in an owner context, an rgne whose sequencer is the last of those listed commits the region: the queue entries that
the region popped leave their queues, the region is closed, and every listed sequencer goes on; while another has not come,
the sequencer is held at the marker and the region stays open. -/
def Sys2Proof.Claims.RegionEnd : Prop :=
  ∀ (f : XR) (s : State) (tok : Vector (BitVec 4) 8) (r : OpenRgn),
    Issues (.rgne f) s tok → s.ctx.id.harv = false → (s.ctx.rgns.find? fun r => r.num == f.x) = some r →
    r.mask.getLsbD (seqCode s.turn) = true →
    let others := listedSeqs r.mask |>.filter (· ≠ s.turn)
    let here := others.all fun q => (s.ctx.seqs.get q).atE && (s.ctx.seqs.get q).rgn == some f.x
    let b := begun (.rgne f) s tok
    let u := done (.rgne f) s ((b.setSq { b.sq with atE := true }).tryCommit f.x)
    exec (.rgne f) s = .next u ∧
      (here = false → u.ctx.rgns = s.ctx.rgns ∧ u.ctx.q = s.ctx.q ∧ (u.ctx.seqs.get s.turn).atE = true) ∧
      (here = true → u.ctx.rgns = s.ctx.rgns.filter (fun x => x.num ≠ f.x) ∧
        (∀ k < 8, vget u.ctx.q k = (vget s.ctx.q k).filter fun e => e.mark != some f.x) ∧
        (∀ q ∈ listedSeqs r.mask, (u.ctx.seqs.get q).atE = false ∧ (u.ctx.seqs.get q).rgn = none))

/-! ## Edges and job control blocks (spec/03 R68 to R78, spec/08 R233 to R239) -/

/-- The record at the head of the input edge of a port, before anything is taken from it. -/
def Sys2Proof.Claims.headOf (s : State) (port : Nat) : Option (Nat × BitVec 512) := s.headRec (s.portEdge false port)
/-- The task that a record brings: it holds the record's block when JCBV is 1 and the block is live (R76). -/
def Sys2Proof.Claims.taskOf (s : State) (r : BitVec 512) : Task :=
  { jcb := if recJcbv r ∧ (s.jcb (recJcb r)).isSome then some (recJcb r) else none, posted := false }

/-- R235, R69, R75, R76: an eget that finds a record ends the current task, takes the record at the head, brings a new task,
and leaves its eight words in the group of D, the first in the latch; the edge holds one record fewer and has been popped once
more. An ejoin takes it for the task that stands. etry takes it as its F bit says and writes 1 to C. -/
def Sys2Proof.Claims.EdgePopTakes : Prop :=
  ∀ (f : XR) (s : State) (tok : Vector (BitVec 4) 8) (join : Bool) (c : Option (BitVec 6)) (i : Instr) (b b' : State) (k : Nat)
    (r : BitVec 512) (x : Edge),
    ((i = .eget f ∧ join = false ∧ c = none) ∨ (i = .ejoin f ∧ join = true ∧ c = none) ∨
      (i = .etry f ∧ join = f.f.getLsbD 0 ∧ c = some f.c ∧ f.c.toNat < 32 ∧ (f.c.toNat < f.d.toNat ∨ f.d.toNat + 8 ≤ f.c.toNat))) →
    Issues i s tok → slotAt i (begun i s tok) = true → (s.ctx.id.harv = true → s.ctx.rgns ≠ []) →
    b = begun i s tok → b' = (if join then b else b.endTask) →
    let port := f.x.toNat % 4
    headOf b port = some (k, r) → headOf b' port = some (k, r) → b'.edge b'.domOf (b'.portEdge false port) = some x →
    (if join then b'.joinClash r else recTwice r) = none →
    ∃ u y, exec i s = .next u ∧
      (∀ j < 8, vget u.ctx.s (f.d.toNat + j) = r.extractLsb' (64 * j) 64) ∧
      (∀ q ∈ c, vget u.ctx.s q.toNat = 1) ∧
      (u.ctx.seqs.get s.turn).latch = (r.extractLsb' 0 64).setWidth 2048 ∧
      (u.ctx.task = if join then b'.ctx.task else some (taskOf b' r)) ∧
      u.edge b'.domOf (b'.portEdge false port) = some y ∧ y.popped = x.popped + 1 ∧ y.fill + 1 = x.fill

/-- R235: without a record an eget or ejoin waits on its edge (an eget has ended the task by then, R78, which makes the regions
that list its sequencer dirty, R119), and an etry writes 0 to C, takes nothing and ends no task. -/
def Sys2Proof.Claims.EdgePopWaits : Prop :=
  (∀ (f : XR) (s : State) (tok : Vector (BitVec 4) 8) (b : State),
    Issues (.eget f) s tok → slotAt (.eget f) (begun (.eget f) s tok) = true → (s.ctx.id.harv = true → s.ctx.rgns ≠ []) →
    (s.ctx.task = none → b = begun (.eget f) s tok) → (s.ctx.task ≠ none → Gives dirty (begun (.eget f) s tok) () b) →
    headOf b.endTask (f.x.toNat % 4) = none →
    exec (.eget f) s = .next (s.blocked b.endTask
      (.edge (s.portEdge false (f.x.toNat % 4)).graph (s.portEdge false (f.x.toNat % 4)).num false))) ∧
  (∀ (f : XR) (s : State) (tok : Vector (BitVec 4) 8),
    Issues (.ejoin f) s tok → slotAt (.ejoin f) (begun (.ejoin f) s tok) = true → (s.ctx.id.harv = true → s.ctx.rgns ≠ []) →
    headOf s (f.x.toNat % 4) = none →
    exec (.ejoin f) s = .next (s.blocked (begun (.ejoin f) s tok)
      (.edge (s.portEdge false (f.x.toNat % 4)).graph (s.portEdge false (f.x.toNat % 4)).num false))) ∧
  (∀ (f : XR) (s : State) (tok : Vector (BitVec 4) 8) (t : State),
    Issues (.etry f) s tok → slotAt (.etry f) (begun (.etry f) s tok) = true → (s.ctx.id.harv = true → s.ctx.rgns ≠ []) →
    headOf s (f.x.toNat % 4) = none → Gives (wS2 f.c 0) (begun (.etry f) s tok) () t →
    exec (.etry f) s = .next (done (.etry f) s t) ∧ (done (.etry f) s t).ctx.task = s.ctx.task)

/-- The push of a record group without capabilities. -/
def Sys2Proof.Claims.plainPush (e : EdgeId) (w : Nat → Word) : PushBuf :=
  { edge := e, bits := recOf ((upTo 8).map w), xfer := [], shares := [] }

/-- R69, R237: an eput, in an owner, of a record group without capabilities, block or reserved bits reserves the tail slot of
its edge, writes the 64 bytes of the group there and publishes it; with no free slot it waits, and eputs writes 0 to C in its
place, 1 when it has pushed. No other byte changes but by the release that the push is (R72, R139): the core's update-only lines
are merged first. -/
def Sys2Proof.Claims.EdgePush : Prop :=
  ∀ (f : XR) (s : State) (tok : Vector (BitVec 4) 8) (c : Option (BitVec 6)) (i : Instr) (x : Edge),
    ((i = .eput f ∧ c = none) ∨ (i = .eputs f ∧ c = some f.c ∧ f.c.toNat < 32)) →
    Issues i s tok → slotAt i (begun i s tok) = true → s.ctx.id.harv = false → s.sq.pushing = none → Canon s →
    let w := fun j => vget s.ctx.s (f.a.toNat + j)
    let e := s.portEdge true (f.x.toNat % 4)
    let d := s.domOf
    ((w 0).toNat / 2 ^ 12 % 16 = 0 ∧ (w 0).toNat / 2 ^ 40 % 2 ^ 8 = 0) →
    s.edge d e = some x →
    (x.slots.length = x.depth → c = none →
      exec i s = .next (s.blocked ((begun i s tok).setSq { (begun i s tok).sq with pushing := some (plainPush e w) })
        (.edge e.graph e.num true))) ∧
    (x.slots.length = x.depth → ∀ t, Gives (wS2 f.c 0) (begun i s tok) () t → c = some f.c →
      exec i s = .next (done i s t)) ∧
    (x.slots.length < x.depth → ∃ u y, exec i s = .next u ∧ u.core.uol = [] ∧
      (∀ q ∈ c, vget u.ctx.s q.toNat = 1) ∧
      u.edge d e = some y ∧ y.slots = x.slots ++ [.published] ∧ y.head = x.head ∧
      (∀ j p, (s.carveAt d (x.slotAddr x.slots.length) 64)[j]? = some p →
        u.byteAt p = (w (j / 8)).extractLsb' (8 * (j % 8)) 8) ∧
      (∀ p ∉ s.carveAt d (x.slotAddr x.slots.length) 64, u.byteAt p = s.mergeOwn.byteAt p))

/-- The capability request n of a record group: R236. -/
def Sys2Proof.Claims.request (r : BitVec 512) (n : Nat) : BitVec 128 := r.extractLsb' (64 + 128 * n) 128
/-- Its SRC, and whether it asks for a transfer. -/
def Sys2Proof.Claims.source (r : BitVec 512) (n : Nat) : BitVec 8 := (request r n).extractLsb' 0 8
def Sys2Proof.Claims.transfers (r : BitVec 512) (n : Nat) : Bool := (request r n).getLsbD 8
/-- NCAP of a record (R74). -/
def Sys2Proof.Claims.ncap (r : BitVec 512) : Nat := r.toNat / 2 ^ 13 % 4
/-- R74, R236: a reserved bit of the header, or of one of its requests, is set. -/
def Sys2Proof.Claims.ReservedBits (r : BitVec 512) : Prop :=
  r.getLsbD 15 = true ∨ r.toNat / 2 ^ 40 % 2 ^ 8 ≠ 0 ∨ ∃ n < ncap r, (request r n).toNat / 2 ^ 9 % 2 ^ 7 ≠ 0 ∨
    (request r n).toNat / 2 ^ 23 % 2 ^ 41 ≠ 0 ∨ (request r n).toNat / 2 ^ 116 ≠ 0
/-- R236: the cause of the first check that request n fails, if it fails one. -/
def Sys2Proof.Claims.requestCause (s : State) (r : BitVec 512) (n : Nat) : Option Nat :=
  let q := request r n
  let slot := fun (k : Nat) => (r.extractLsb' (16 + 8 * k) 8 : BitVec 8)
  match s.slot (source r n) with
  | none => some 1
  | some x =>
    if x.cap.getLsbD 57 then some 3
    else if x.cap.getLsbD (if transfers r n then 52 else 51) = false ∨ (∃ i : Fin 7, q.getLsbD (16 + i.val) = true ∧ x.cap.getLsbD (48 + i.val) = false) ∨
        x.cap.toNat / 2 ^ 64 % 2 ^ 52 < q.toNat / 2 ^ 64 % 2 ^ 52 then some 4
    else if transfers r n = true ∧ x.tmpl = true then some 0xA
    else if ∃ m : Fin n, (source r m.val = source r n ∧ (transfers r n = true ∨ transfers r m.val = true)) ∨ slot m.val = slot n then some 8
    else none
/-- R236: the capability that a request forms from that of its source: NAME, GEN, IMP and PEER of the source, RIGHTS and LIMIT of the
request. -/
def Sys2Proof.Claims.formedFrom (c q : BitVec 128) : BitVec 128 :=
  BitVec.ofNat 128 (c.toNat % 2 ^ 48 + q.toNat / 2 ^ 16 % 2 ^ 7 * 2 ^ 48 + c.toNat / 2 ^ 56 % 2 * 2 ^ 56 + q.toNat / 2 ^ 64 % 2 ^ 52 * 2 ^ 64 +
    c.toNat / 2 ^ 116 * 2 ^ 116)
/-- The record group that a push reads. -/
def Sys2Proof.Claims.groupOf (s : State) (a : BitVec 6) : BitVec 512 := recOf ((upTo 8).map fun j => vget s.ctx.s (a.toNat + j))

/-- R237, R236, R4, R454: an eput or eputs, in an owner, of a record with a reserved bit set posts PKTBAD with cause 0x09 and pushes nothing,
and eputs writes 2 to C; one whose JCBV is 1 and whose block is not a live one of the domain raises JCBORD cause 0x5; then the first
request that fails a check of R236 raises CAPF with that cause and its SRC, and a share whose count is full raises CAPF cause 0x9.
Nothing changes where it traps. -/
def Sys2Proof.Claims.PushesTurnedAway : Prop :=
  ∀ (f : XR) (s : State) (tok : Vector (BitVec 4) 8) (i : Instr), i = .eput f ∨ (i = .eputs f ∧ f.c.toNat < 32) →
    Issues i s tok → slotAt i (begun i s tok) = true → s.ctx.id.harv = false → s.sq.pushing = none →
    let r := groupOf s f.a
    let b := begun i s tok
    let k : BitVec 12 := r.extractLsb' 0 12
    let live := r.getLsbD 12 = true → ∃ j, s.jcb k = some j ∧ j.dom = s.domOf
    (ReservedBits r → ∃ rec t, t = b.report b.domOf (b.queueOf b.ctx) rec ∧ (rec.extractLsb' 0 8 : BitVec 8) = 0x83 ∧
      (rec.extractLsb' 128 64 : Word) = BitVec.setWidth 64 s.sq.pc ∧ (rec.extractLsb' 384 8 : BitVec 8) = 9 ∧
      (i = .eput f → exec i s = .next (done i s t)) ∧
      (i = .eputs f → ∀ v, Gives (wS2 f.c 2) t () v → exec i s = .next (done i s v)) ∧
      ∀ d e, t.edge d e = s.edge d e) ∧
    (¬ReservedBits r → ¬live → exec i s = .next (s.raise (jcbord 5 k.toNat))) ∧
    (¬ReservedBits r → live → ∀ n c, n < ncap r → requestCause s r n = some c → (∀ m < n, requestCause s r m = none) →
      exec i s = .next (s.raise (capfSlot c (source r n).toNat))) ∧
    (¬ReservedBits r → live → (∀ n < ncap r, requestCause s r n = none) →
      (∃ n x e, n < ncap r ∧ transfers r n = false ∧ s.slot (source r n) = some x ∧ x.cap.getLsbD 56 = false ∧
        (s.dom s.domOf).regOf (x.cap.extractLsb' 0 32) = some e ∧ e.refcnt = 0xFFFFFFFF) →
      exec i s = .next (s.raise (capfSlot 9 0)))

/-- R237, R236, R81: an eput or eputs, in an owner, whose requests pass their checks and whose edge has a free slot publishes the record with
each request replaced by the capability that it forms; every slot that it transfers is empty and no other slot changes; each share counts
one reference at its home; eputs writes 1 to C. With no free slot eputs writes 0 to C and changes nothing else: the shares are undone. -/
def Sys2Proof.Claims.CapabilityPushes : Prop :=
  ∀ (f : XR) (s : State) (tok : Vector (BitVec 4) 8) (i : Instr) (x : Edge), i = .eput f ∨ (i = .eputs f ∧ f.c.toNat < 32) →
    Issues i s tok → slotAt i (begun i s tok) = true → s.ctx.id.harv = false → s.sq.pushing = none → Canon s →
    let r := groupOf s f.a
    let d := s.domOf
    let e := s.portEdge true (f.x.toNat % 4)
    let place := s.carveAt d (x.slotAddr x.slots.length) 64
    ¬ReservedBits r → (r.getLsbD 12 = true → ∃ j, s.jcb (r.extractLsb' 0 12) = some j ∧ j.dom = d) →
    (∀ n < ncap r, requestCause s r n = none) → (∀ y ∈ (s.dom d).reg, y.refcnt.toNat + 3 < 2 ^ 32) →
    (∀ n < ncap r, transfers r n = false → ∀ y, s.slot (source r n) = some y → y.cap.getLsbD 56 = false) → s.edge d e = some x →
    (x.slots.length = x.depth → i = .eputs f → ∀ t, Gives (wS2 f.c 0) (begun i s tok) () t → exec i s = .next (done i s t)) ∧
    (x.slots.length < x.depth → ∃ (u : State) (y : Edge) (w : BitVec 512), exec i s = .next u ∧ u.edge d e = some y ∧
      y.slots = x.slots ++ [.published] ∧ (i = .eputs f → vget u.ctx.s f.c.toNat = 1) ∧
      (∀ j p, place[j]? = some p → u.byteAt p = w.extractLsb' (8 * j) 8) ∧ (∀ p ∉ place, u.byteAt p = s.mergeOwn.byteAt p) ∧
      (∀ n < ncap r, ∀ z, s.slot (source r n) = some z → request w n = formedFrom z.cap (request r n)) ∧
      (∀ k < 512, (∀ n < ncap r, k < 64 + 128 * n ∨ 192 + 128 * n ≤ k) → w.getLsbD k = r.getLsbD k) ∧
      (∀ k, u.slot k = if ∃ n : Fin (ncap r), transfers r n.val = true ∧ source r n.val = k then none else s.slot k) ∧
      ∀ nm a, (s.dom d).regOf nm = some a → ∃ c, (u.dom d).regOf nm = some c ∧ c.gen = a.gen ∧ c.live = a.live ∧
        c.refcnt.toNat = a.refcnt.toNat + if a.live then ((List.range (ncap r)).countP fun n => !transfers r n &&
          (s.slot (source r n)).any fun z => z.cap.extractLsb' 0 32 == nm && z.cap.extractLsb' 32 16 == a.gen) else 0)

/-- R237: an eput that a full edge has held is resumed at its reservation, whatever its predicate has become and its registers hold: once there
is a free slot the record that it had formed is published and the slots that it transfers are emptied; until then it waits on. -/
def Sys2Proof.Claims.PushResumes : Prop :=
  ∀ (f : XR) (s : State) (tok : Vector (BitVec 4) 8) (p : PushBuf) (x : Edge),
    Issues (.eput f) s tok → s.ctx.id.harv = false → s.sq.pushing = some p → Canon s → s.edge s.domOf p.edge = some x →
    (x.slots.length = x.depth → p.shares = [] →
      exec (.eput f) s = .next (s.blocked (begun (.eput f) s tok) (.edge p.edge.graph p.edge.num true))) ∧
    (x.slots.length < x.depth → ∃ u y, exec (.eput f) s = .next u ∧ u.edge s.domOf p.edge = some y ∧ y.slots = x.slots ++ [.published] ∧
      (u.ctx.seqs.get s.turn).pushing = none ∧ (∀ k, u.slot k = if k ∈ p.xfer then none else s.slot k) ∧
      (∀ j z, (s.carveAt s.domOf (x.slotAddr x.slots.length) 64)[j]? = some z → u.byteAt z = p.bits.extractLsb' (8 * j) 8) ∧
      ∀ z ∉ s.carveAt s.domOf (x.slotAddr x.slots.length) 64, u.byteAt z = s.mergeOwn.byteAt z)

/-- R237, R57: in an open region of a harvest context, an eput of such a record is kept and pushes nothing yet. -/
def Sys2Proof.Claims.HarvestPushBuffered : Prop :=
  ∀ (f : XR) (s : State) (tok : Vector (BitVec 4) 8),
    Issues (.eput f) s tok → slotAt (.eput f) (begun (.eput f) s tok) = true → s.ctx.id.harv = true → s.ctx.rgns ≠ [] →
    s.sq.pushing = none →
    let w := fun j => vget s.ctx.s (f.a.toNat + j)
    ((w 0).toNat / 2 ^ 12 % 16 = 0 ∧ (w 0).toNat / 2 ^ 40 % 2 ^ 8 = 0) →
    ∃ u, exec (.eput f) s = .next u ∧ OnlyCtx s u ∧
      u.ctx.pushes = s.ctx.pushes ++ [plainPush (s.portEdge true (f.x.toNat % 4)) w]

/-- R238, R68: estat writes FREE in [16:0], FILL in [33:17] and the other slots in [50:34] of the edge on its port. -/
def Sys2Proof.Claims.EdgeStatus : Prop :=
  ∀ (f : XR) (s : State) (tok : Vector (BitVec 4) 8) (x : Edge) (t : State),
    Issues (.estat f) s tok → slotAt (.estat f) (begun (.estat f) s tok) = true →
    s.edge s.domOf (s.portEdge (f.f.getLsbD 0) (f.x.toNat % 4)) = some x →
    x.slots.length ≤ x.depth → x.depth ≤ 65536 →
    Gives (wS f.d (ofN (x.depth - x.slots.length + x.fill * 2 ^ 17 + (x.slots.length - x.fill) * 2 ^ 34)))
      (begun (.estat f) s tok) () t →
    exec (.estat f) s = .next (done (.estat f) s t)

/-- R77, R78, R239: with a block that is not DONE and a task that has not posted, jraise adds A to E and jpost adds 1 to C and
marks the task; when C then equals E the block is DONE at the time of GTS. jstat reads E, C, the state bits and DONEGTS, or 0
without a block. -/
def Sys2Proof.Claims.BlockForms : Prop :=
  (∀ (f : XR) (s : State) (tok : Vector (BitVec 4) 8) (a : Word) (s1 : State) (b : BitVec 12) (j : Jcb) (t : Task),
    Issues (.jraise f) s tok → slotAt (.jraise f) (begun (.jraise f) s tok) = true → s.ctx.id.harv = false →
    Gives (rS f.a) (begun (.jraise f) s tok) a s1 → Canon s → s.heldJcb = some (b, j, t) → t.posted = false → j.done = false →
    j.expect.toNat + a.toNat < 2 ^ 48 →
    ∃ u k, exec (.jraise f) s = .next u ∧ u.jcb b = some k ∧ k.expect.toNat = j.expect.toNat + a.toNat ∧ k.count = j.count ∧
      k.done = false ∧ (∀ c ≠ b, u.jcb c = s.jcb c) ∧ ∀ p, u.byteAt p = s.byteAt p) ∧
  (∀ (f : XR) (s : State) (tok : Vector (BitVec 4) 8) (b : BitVec 12) (j : Jcb) (t : Task),
    Issues (.jpost f) s tok → slotAt (.jpost f) (begun (.jpost f) s tok) = true → s.ctx.id.harv = false →
    Canon s → s.heldJcb = some (b, j, t) → t.posted = false → j.done = false →
    ∃ u k, exec (.jpost f) s = .next u ∧ u.ctx.task = some { t with posted := true } ∧ u.jcb b = some k ∧
      k.count = j.count + 1 ∧ k.expect = j.expect ∧ (k.done = true ↔ j.count + 1 = j.expect) ∧
      (j.count + 1 = j.expect → k.donegts = s.gts) ∧ (∀ c ≠ b, u.jcb c = s.jcb c)) ∧
  (∀ (f : XR) (s : State) (tok : Vector (BitVec 4) 8) (r : Word) (u : State),
    Issues (.jstat f) s tok → slotAt (.jstat f) (begun (.jstat f) s tok) = true →
    r = (match s.heldJcb with
      | none => 0
      | some (_, j, t) => match f.f.toNat % 4 with
        | 0 => ofN j.expect.toNat
        | 1 => ofN j.count.toNat
        | 2 => ofN (j.done.toNat + 2 * t.posted.toNat + 4)
        | _ => j.donegts) →
    Gives (wS f.d r) (begun (.jstat f) s tok) () u →
    exec (.jstat f) s = .next (done (.jstat f) s u))

/-- R77, R239: jraise and jpost raise JCBORD, with no effect: cause 0x2 without a block, 0x1 when the task has posted, 0x6
(jraise) or 0x4 (jpost) when the block is DONE. -/
def Sys2Proof.Claims.BlockOrder : Prop :=
  ∀ (f : XR) (s : State) (tok : Vector (BitVec 4) 8) (i : Instr) (s1 : State) (a : Word) (late : Nat),
    ((i = .jraise f ∧ late = 6 ∧ Gives (rS f.a) (begun i s tok) a s1) ∨ (i = .jpost f ∧ late = 4)) →
    Issues i s tok → slotAt i (begun i s tok) = true → s.ctx.id.harv = false →
    (s.heldJcb = none → exec i s = .next (s.raise (jcbord 2 0))) ∧
    (∀ b j t, s.heldJcb = some (b, j, t) → t.posted = true → exec i s = .next (s.raise (jcbord 1 b.toNat))) ∧
    (∀ b j t, s.heldJcb = some (b, j, t) → t.posted = false → j.done = true → exec i s = .next (s.raise (jcbord late b.toNat)))

/-! ## Addresses, loads and stores (spec/07 R188, spec/04 R85 to R88, spec/09 R240 to R250) -/

/-- One scalar access. -/
def Sys2Proof.Claims.scalarReq (a : Word) (n : Nat) : Req := { ptr := a, n := n, lane := 0xFF }
/-- The access stays in a window that is not translated and lies in this package: scratchpad, carve, wake words. The host window
is not among them: what the host answers is free (log entry 40). -/
def Sys2Proof.Claims.inDirect (r : Req) : Prop :=
  r.ptr.toNat / 2 ^ 60 = 0 ∨ r.ptr.toNat / 2 ^ 60 = 1 ∨ r.ptr.toNat / 2 ^ 60 = 5
/-- Nothing stands against an access in such a window: R87's checks, a scrub under way, poison, strict mode; a wake word lies in
the carve, whose first words the wake words are (R262). -/
structure Sys2Proof.Claims.Clear (need : BitVec 7) (pois wr : Bool) (r : Req) (s : State) : Prop where
  window : inDirect r
  checks : s.checkStatic need r = none
  wakes : r.ptr.toNat / 2 ^ 60 = 5 → r.ptr.toNat % 2 ^ 48 + r.n ≤ (s.dom s.domOf).carveLen
  scrub : r.ptr.toNat / 2 ^ 60 = 0 → s.part.scrub = 0
  poison : pois = true → ∀ p ∈ s.direct r, s.poisoned p = false
  strict : s.ctx.bnd.strict = false
/-- The number that loaded bytes stand for, zero- or sign-extended from n bytes (R244). -/
def Sys2Proof.Claims.loaded (sg : Bool) (n : Nat) (bs : List Byte) : Word :=
  if sg ∧ 2 ^ (8 * n - 1) ≤ leNat bs then ofI (leNat bs - 2 ^ (8 * n) : Int) else ofN (leNat bs)

/-- R188: the effective address of layout XM in its five modes, with the base update that modes 2 and 3 make after the access;
the sum wraps modulo 2^64, OFF13 counts signed. -/
def Sys2Proof.Claims.AddressModes : Prop :=
  ∀ (f : XM) (s : State) (a : Word) (s1 : State), Gives (rS f.a) s a s1 →
    let off : Int := f.off.toInt
    ((f.am = 0 ∨ f.am = 4) → Gives (eaXM f) s (ofI (a.toInt + off), none) s1) ∧
    (f.am = 2 → Gives (eaXM f) s (a, some (f.a, ofI (a.toInt + off))) s1) ∧
    (∀ b s2, Gives (rS f.b) s1 b s2 →
      (f.am = 1 → Gives (eaXM f) s (ofI (a.toInt + b.toInt), none) s2) ∧
      (f.am = 3 → Gives (eaXM f) s (ofI (a.toInt + b.toInt), some (f.b, ofI (b.toInt + off))) s2))

/-- R244, R87, R94: a load whose address, destination and access are found good reads its bytes, lowest address first,
zero- or sign-extends them to T, then updates the base; ldacq (R258) reads the aligned word. -/
def Sys2Proof.Claims.ScalarLoads : Prop :=
  (∀ (f : XM) (s : State) (tok : Vector (BitVec 4) 8) (ea : Word) (u : Option (BitVec 6 × Word)) (s1 s2 s3 s4 t : State)
    (ps : List Place) (bs : List Byte),
    Issues (.ld f) s tok → slotAt (.ld f) (begun (.ld f) s tok) = true → Gives (eaXM f) (begun (.ld f) s tok) (ea, u) s1 →
    Gives (readyS f.t) s1 () s1 → Gives (access needRD true false false [scalarReq ea (widthOf f.wd)]) s1 [ps] s2 →
    Gives (loadBytes (scalarReq ea (widthOf f.wd)) ps) s2 bs s3 → bs.length = widthOf f.wd → widthOf f.wd ≤ 8 →
    Gives (wS f.t (loaded (f.f.getLsbD 0) (widthOf f.wd) bs)) s3 () s4 → Gives (postUpd u) s4 () t →
    exec (.ld f) s = .next (done (.ld f) s t)) ∧
  (∀ (f : XM) (s : State) (tok : Vector (BitVec 4) 8) (a : Word) (s1 s2 s3 t : State) (ps : List Place) (bs : List Byte),
    let w := widthOf f.wd
    let ea := ofN ((ofI (a.toInt + f.off.toInt)).toNat / w * w)
    Issues (.ldacq f) s tok → slotAt (.ldacq f) (begun (.ldacq f) s tok) = true → (f.m = 0 ∨ s.ctx.id.harv = false) →
    Gives (rS f.a) (begun (.ldacq f) s tok) a s1 → Gives (readyS f.t) s1 () s1 →
    Gives (access needRD true false true [scalarReq ea w]) s1 [ps] s2 → Gives (loadBytes (scalarReq ea w) ps) s2 bs s3 →
    Gives (wS f.t (ofN (leNat bs))) s3 () t →
    exec (.ldacq f) s = .next (done (.ldacq f) s t))

/-- R98, R109, R244: in the scratchpad, the carve and the wake words an owner's load of n bytes that passes its checks gives
the n bytes that stand at its offset, lowest address first, and changes no byte. -/
def Sys2Proof.Claims.DirectLoad : Prop :=
  ∀ (f : XM) (s : State) (tok : Vector (BitVec 4) 8) (ea : Word) (u : Option (BitVec 6 × Word)) (s1 s2 t : State),
    Issues (.ld f) s tok → slotAt (.ld f) (begun (.ld f) s tok) = true → s.ctx.id.harv = false →
    Gives (eaXM f) (begun (.ld f) s tok) (ea, u) s1 → Gives (readyS f.t) s1 () s1 → widthOf f.wd ≤ 8 →
    Clear needRD true false (scalarReq ea (widthOf f.wd)) s1 →
    let bs := (s.direct (scalarReq ea (widthOf f.wd))).map s.byteAt
    Gives (wS f.t (loaded (f.f.getLsbD 0) (widthOf f.wd) bs)) s1 () s2 → Gives (postUpd u) s2 () t →
    exec (.ld f) s = .next (done (.ld f) s t) ∧ (∀ p, (done (.ld f) s t).byteAt p = s.byteAt p) ∧
    ∀ k < widthOf f.wd, (s.direct (scalarReq ea (widthOf f.wd)))[k]? = some (
      if ea.toNat / 2 ^ 60 = 0 then { sp := .spad, a := ea.toNat % 2 ^ 60 + k }
      else if ea.toNat / 2 ^ 60 = 1 then { sp := .carve, a := (s.dom s.domOf).carveKey (ea.toNat % 2 ^ 60 + k) }
      else { sp := .carve, a := (s.dom s.domOf).carveKey (ea.toNat % 2 ^ 48 + k) })

/-- What a release leaves of a state before the form itself acts: the core's update-only lines are merged at PKG and wider, unless
the form's word lies on window 0, where such a scope acts as CORE (R136, R139). -/
def Sys2Proof.Claims.released (m : BitVec 3) (ea : Word) (s : State) : State :=
  if 2 ≤ m.toNat ∧ ea.toNat / 2 ^ 60 ≠ 0 then s.mergeOwn else s
/-- The release of such a form waits for nothing: at FAB, off window 0, no byte of the context is undelivered (R136, R141). -/
def Sys2Proof.Claims.releaseFree (m : BitVec 3) (ea : Word) (s : State) : Prop := m = 4 → ea.toNat / 2 ^ 60 ≠ 0 → s.ctx.pend = 0

/-- R244, R57, R98: an owner's st or strel (R258) in such a window writes the low bytes of T, lowest first, to the places of
its access, and no other byte of any storage but by strel's release; then st updates its base. -/
def Sys2Proof.Claims.DirectStore : Prop :=
  (∀ (f : XM) (s : State) (tok : Vector (BitVec 4) 8) (ea x : Word) (u : Option (BitVec 6 × Word)) (s1 s2 s3 : State),
    Issues (.st f) s tok → slotAt (.st f) (begun (.st f) s tok) = true → s.ctx.id.harv = false → Canon s →
    Gives (eaXM f) (begun (.st f) s tok) (ea, u) s1 → Gives (rS f.t) s1 x s2 → widthOf f.wd ≤ 8 →
    Clear needWR false true (scalarReq ea (widthOf f.wd)) s2 → Gives (postUpd u) s2 () s3 →
    let ps := s.direct (scalarReq ea (widthOf f.wd))
    ∃ v, exec (.st f) s = .next v ∧ v.ctx.s = s3.ctx.s ∧
      (∀ k < widthOf f.wd, ∃ p, ps[k]? = some p ∧ v.byteAt p = x.extractLsb' (8 * k) 8) ∧
      (∀ p ∉ ps, v.byteAt p = s.byteAt p)) ∧
  (∀ (f : XM) (s : State) (tok : Vector (BitVec 4) 8) (a x : Word) (s1 s2 : State),
    let w := widthOf f.wd
    let ea := ofN ((ofI (a.toInt + f.off.toInt)).toNat / w * w)
    Issues (.strel f) s tok → slotAt (.strel f) (begun (.strel f) s tok) = true → s.ctx.id.harv = false → Canon s →
    releaseFree f.m (ofI (a.toInt + f.off.toInt)) s →
    Gives (rS f.a) (begun (.strel f) s tok) a s1 → Gives (rS f.t) s1 x s2 → w ≤ 8 → Clear needWR false true (scalarReq ea w) s2 →
    ∃ v, exec (.strel f) s = .next v ∧
      (∀ k < w, ∃ p, (s.direct (scalarReq ea w))[k]? = some p ∧ v.byteAt p = x.extractLsb' (8 * k) 8) ∧
      (∀ p ∉ s.direct (scalarReq ea w), v.byteAt p = (released f.m (ofI (a.toInt + f.off.toInt)) s).byteAt p))

/-- R57, R233, R416: in a harvest context an active st with no region open raises LEASE cause 0x4 with the pointer of its first byte;
with one open its bytes go to the
store buffer, no byte of any storage changes, and a load by the same context finds them; a store that the buffer cannot hold
whole raises LEASE cause 0x3. -/
def Sys2Proof.Claims.HarvestStore : Prop :=
  ∀ (f : XM) (s : State) (tok : Vector (BitVec 4) 8), Issues (.st f) s tok → slotAt (.st f) (begun (.st f) s tok) = true →
    s.ctx.id.harv = true →
    let refuse := fun c (ea : Word) => s.raise (fillLease (lease c 0xFF ea ea) (fmtOf s (shape (.st f))) 0x41 s.part.lent.toNat)
    (s.ctx.rgns = [] → ∀ (ea x : Word) (u : Option (BitVec 6 × Word)) (s1 s2 : State),
      Gives (eaXM f) (begun (.st f) s tok) (ea, u) s1 → Gives (rS f.t) s1 x s2 → exec (.st f) s = .next (refuse 4 ea)) ∧
    (s.ctx.rgns ≠ [] → ∀ (ea x : Word) (u : Option (BitVec 6 × Word)) (s1 s2 s3 : State),
      Gives (eaXM f) (begun (.st f) s tok) (ea, u) s1 → Gives (rS f.t) s1 x s2 → widthOf f.wd ≤ 8 →
      Clear needWR false true (scalarReq ea (widthOf f.wd)) s2 → Gives (postUpd u) s2 () s3 →
      let ps := s.direct (scalarReq ea (widthOf f.wd))
      let sb := (ps.zip (leBytes (widthOf f.wd) x.toNat)).foldl (fun sb z => sbPut sb z.1 z.2) s.ctx.sbuf
      (64 < sb.length → exec (.st f) s = .next (refuse 3 0)) ∧
      (sb.length ≤ 64 → ∃ v, exec (.st f) s = .next v ∧ v.ctx.sbuf = sb ∧ (∀ p, v.byteAt p = s.byteAt p) ∧
        ∀ k < widthOf f.wd, ∃ p, ps[k]? = some p ∧ sbGet v.ctx.sbuf p = some (x.extractLsb' (8 * k) 8)))

/-- R246: where the lanes of the vector forms go: lane i of vld and vst at ea + 4i, the j-th active lane of vldk and vstk at
ea + 4j, lane i of the indexed forms at base + zext(B[i]); active lanes only, lowest first. -/
def Sys2Proof.Claims.LaneAddresses : Prop :=
  ∀ (ea : Word) (b : Vec) (n : Nat) (m : Mask),
    let act := (List.range 64).filter fun i => m.getLsbD i
    unitReqs ea m = act.map (fun i => { ptr := ofN (ea.toNat + 4 * i), n := 4, lane := i }) ∧
    (packReqs ea m).map (fun r => (r.lane, r.n)) = act.map (fun i => (i, 4)) ∧
    (∀ j, j < act.length → ((packReqs ea m)[j]?.map (·.ptr)) = some (ofN (ea.toNat + 4 * j))) ∧
    indexReqs ea b n m = act.map (fun i => { ptr := ofN (ea.toNat + (lane b i).toNat), n := n, lane := i })

/-- R246, R48, R87: a vector load whose accesses are all found good writes each active lane of T from its own access and keeps
the other lanes; then the base is updated. -/
def Sys2Proof.Claims.VectorLoads : Prop :=
  (∀ p ∈ ([(.vld, unitReqs), (.vldk, packReqs)] : List ((XM → Instr) × (Word → Mask → List Req))),
    ∀ (f : XM) (s : State) (tok : Vector (BitVec 4) 8) (ea : Word) (u : Option (BitVec 6 × Word)) (s1 s2 s3 t : State)
      (l : List (Nat × Lane)),
    Issues (p.1 f) s tok → lanesAt (p.1 f) s ≠ 0 → Gives (eaXM f) (begun (p.1 f) s tok) (ea, u) s1 →
    Gives (readyV f.t) s1 () s1 → Gives (loadLanes false (p.2 ea (lanesAt (p.1 f) s))) s1 l s2 →
    Gives (wV f.t (lanesAt (p.1 f) s) (ofPairs l)) s2 () s3 → Gives (postUpd u) s3 () t →
    exec (p.1 f) s = .next (done (p.1 f) s t)) ∧
  (∀ (f : XM) (s : State) (tok : Vector (BitVec 4) 8) (a : Word) (b : Vec) (s1 s2 s3 t : State) (l : List (Nat × Lane)),
    Issues (.vldx f) s tok → lanesAt (.vldx f) s ≠ 0 → Gives (rS f.a) (begun (.vldx f) s tok) a s1 → Gives (rV f.b) s1 b s2 →
    Gives (readyV f.t) s2 () s2 →
    Gives (loadLanes (f.f.getLsbD 0) (indexReqs (ofI (a.toInt + f.off.toInt)) b (widthOf f.wd) (lanesAt (.vldx f) s))) s2 l s3 →
    Gives (wV f.t (lanesAt (.vldx f) s) (ofPairs l)) s3 () t →
    exec (.vldx f) s = .next (done (.vldx f) s t))

/-- R246, R244: what a load of lanes answers in the windows that are not translated: the lanes in order, each with the bytes
at its own places, extended to 32 bits. -/
def Sys2Proof.Claims.LanesLoaded : Prop :=
  ∀ (sg : Bool) (rs : List Req) (s : State), s.ctx.id.harv = false → (∀ r ∈ rs, Clear needRD true false r s ∧ r.n ≤ 4) →
    Gives (loadLanes sg rs) s (rs.map fun r => (r.lane, (loaded sg r.n ((s.direct r).map s.byteAt)).setWidth 32)) s

/-- R247, R246: in an owner, a vector store whose accesses lie in such windows and are all found good writes the low bytes of
each active lane to its places, in ascending lane order, so that of two lanes that meet the higher one's byte stays; no other
byte of any storage changes. -/
def Sys2Proof.Claims.VectorStores : Prop :=
  ∀ (i : Instr) (f : XM) (s : State) (tok : Vector (BitVec 4) 8) (rs : List Req) (x : Vec) (s2 : State),
    ((i = .vst f ∧ ∃ ea u s1, Gives (eaXM f) (begun i s tok) (ea, u) s1 ∧ Gives (rV f.t) s1 x s2 ∧
        rs = unitReqs ea (lanesAt i s) ∧ ∃ s3, Gives (postUpd u) s2 () s3) ∨
     (i = .vstk f ∧ ∃ ea u s1, Gives (eaXM f) (begun i s tok) (ea, u) s1 ∧ Gives (rV f.t) s1 x s2 ∧
        rs = packReqs ea (lanesAt i s) ∧ ∃ s3, Gives (postUpd u) s2 () s3) ∨
     (i = .vstx f ∧ ∃ a b s0 s1, Gives (rS f.a) (begun i s tok) a s0 ∧ Gives (rV f.b) s0 b s1 ∧ Gives (rV f.t) s1 x s2 ∧
        rs = indexReqs (ofI (a.toInt + f.off.toInt)) b (widthOf f.wd) (lanesAt i s))) →
    Issues i s tok → lanesAt i s ≠ 0 → s.ctx.id.harv = false → Canon s → (∀ r ∈ rs, Clear needWR false true r s2) →
    let bytes := (rs.map fun r => (s.direct r).zip (leBytes r.n (lane x r.lane).toNat)).flatten
    ∃ v, exec i s = .next v ∧ ∀ p, v.byteAt p = match (bytes.reverse.find? fun z => z.1 == p) with
      | some z => z.2
      | none => s.byteAt p

/-- R248, R249: pf reads its address operands and changes nothing else; icinv takes the named lines of the domain (or every
line) out of the instruction cache and ends every fill under way; ipf leaves the cache's lines, the scratchpad and the carves
as they are; dcwb, its checks passed in windows that hold no update-only lines, has no further effect. -/
def Sys2Proof.Claims.Maintenance : Prop :=
  (∀ (f : XM) (s : State) (tok : Vector (BitVec 4) 8) (ea : Word) (u : Option (BitVec 6 × Word)) (t : State),
    Issues (.pf f) s tok → slotAt (.pf f) (begun (.pf f) s tok) = true → Gives (eaXM f) (begun (.pf f) s tok) (ea, u) t →
    exec (.pf f) s = .next (done (.pf f) s t)) ∧
  (∀ (f : XM) (s : State) (tok : Vector (BitVec 4) 8) (ea : Word) (u : Option (BitVec 6 × Word)) (t : State),
    Issues (.icinv f) s tok → slotAt (.icinv f) (begun (.icinv f) s tok) = true →
    Gives (eaXM f) (begun (.icinv f) s tok) (ea, u) t →
    ∃ v, exec (.icinv f) s = .next v ∧ v.core.fills = [] ∧ (f.m = 1 → v.core.icache = []) ∧
      (f.m = 0 → ∀ x, x ∈ v.core.icache ↔ x ∈ s.core.icache ∧
        ¬ (x.dom = s.domOf ∧ ∃ k ≤ f.f.toNat, x.line = BitVec.ofNat 46 (ea.toNat / 64 + k))) ∧
      ∀ p, v.byteAt p = s.byteAt p) ∧
  (∀ (f : XM) (s : State) (tok : Vector (BitVec 4) 8) (ea : Word) (u : Option (BitVec 6 × Word)) (t : State),
    Issues (.ipf f) s tok → slotAt (.ipf f) (begun (.ipf f) s tok) = true → Gives (eaXM f) (begun (.ipf f) s tok) (ea, u) t →
    ∃ v, exec (.ipf f) s = .next v ∧ v.ctx.s = t.ctx.s ∧ v.core.icache = s.core.icache ∧ v.core.spad = s.core.spad ∧
      v.llc = s.llc) ∧
  (∀ (f : XM) (s : State) (tok : Vector (BitVec 4) 8) (ea : Word) (u : Option (BitVec 6 × Word)) (t : State),
    Issues (.dcwb f) s tok → slotAt (.dcwb f) (begun (.dcwb f) s tok) = true → Gives (eaXM f) (begun (.dcwb f) s tok) (ea, u) t →
    (∀ k ≤ f.f.toNat, Clear 0 false false { ptr := ofN (ea.toNat / 64 * 64 + 64 * k), n := 64, lane := 0xFF } t) →
    exec (.dcwb f) s = .next (done (.dcwb f) s t))

/-- R87, R86: an access that reaches past its window, or starts in one of windows 6 to 15, raises WSTR with the pointer, both
window numbers and its last byte; ld and st take it before any byte moves. -/
def Sys2Proof.Claims.WindowCheck : Prop :=
  ∀ (i : Instr) (f : XM) (s : State) (tok : Vector (BitVec 4) 8) (ea x : Word) (u : Option (BitVec 6 × Word)) (s1 s2 : State),
    ((i = .ld f ∧ s1 = s2) ∨ (i = .st f ∧ Gives (rS f.t) s1 x s2 ∧ (s.ctx.id.harv = true → s.ctx.rgns ≠ []))) →
    Issues i s tok → slotAt i (begun i s tok) = true → Gives (eaXM f) (begun i s tok) (ea, u) s1 →
    (i = .ld f → Gives (readyS f.t) s1 () s1) →
    let last := ea.toNat + widthOf f.wd - 1
    (ea.toNat / 2 ^ 60 ≠ last / 2 ^ 60 → exec i s = .next (s.raise (wstr 1 (ea.toNat / 2 ^ 60) (last / 2 ^ 60 % 16) 0xFF ea (ofN last)))) ∧
    (ea.toNat / 2 ^ 60 = last / 2 ^ 60 → 6 ≤ ea.toNat / 2 ^ 60 →
      exec i s = .next (s.raise (wstr 2 (ea.toNat / 2 ^ 60) (ea.toNat / 2 ^ 60) 0xFF ea (ofN last))))

/-- R87, R88, R80: an access in window 2 or 3 whose slot holds no capability, one of the other window, a stale one, one
without the right, or one whose LIMIT lies below its last byte fails with CAPF causes 1 to 5, the first in this order. -/
def Sys2Proof.Claims.CapabilityCheck : Prop :=
  ∀ (s : State) (need : BitVec 7) (r : Req),
    let w := r.ptr.toNat / 2 ^ 60
    let k : BitVec 8 := BitVec.ofNat 8 (r.ptr.toNat / 2 ^ 52)
    let fails := fun cause => s.checkSlot need r = some (capf cause k.toNat need.toNat r.lane r.ptr (r.ptr + BitVec.ofNat 64 (r.n - 1)))
    (w = 2 ∨ w = 3) →
    (s.slot k = none → fails 1) ∧
    (∀ x, s.slot k = some x →
      (¬ (x.cap.getLsbD 56 = true ↔ w = 3) → fails 2) ∧
      ((x.cap.getLsbD 56 = true ↔ w = 3) →
        (x.cap.getLsbD 57 = true → fails 3) ∧
        (x.cap.getLsbD 57 = false →
          ((∃ j < 7, need.getLsbD j = true ∧ x.cap.getLsbD (48 + j) = false) → fails 4) ∧
          ((∀ j < 7, need.getLsbD j = true → x.cap.getLsbD (48 + j) = true) →
            (x.cap.toNat / 2 ^ 64 % 2 ^ 52 < r.ptr.toNat % 2 ^ 52 + r.n - 1 → fails 5) ∧
            (r.ptr.toNat % 2 ^ 52 + r.n - 1 ≤ x.cap.toNat / 2 ^ 64 % 2 ^ 52 → s.checkSlot need r = none)))))

/-- R102 to R104, R250: with an enabled, declared descriptor, cbres reserves the slot at TAIL and cbacq acquires the one at
HEAD, writing the slot's pointer to D; cbcmt commits a reserved slot and cbrel releases an acquired one; the counts move by
one and add up as before. Without a free (or filled) slot cbres (or cbacq) waits, without a reserved (or acquired) one cbcmt
(or cbrel) raises ALLOC cause 0x3. -/
def Sys2Proof.Claims.CircularBuffers : Prop :=
  ∀ (f : XR) (s : State) (tok : Vector (BitVec 4) 8) (i : Instr), (i = .cbres f ∨ i = .cbcmt f ∨ i = .cbacq f ∨ i = .cbrel f) →
    Issues i s tok → slotAt i (begun i s tok) = true → s.ctx.id.harv = false →
    let b : BitVec 5 := BitVec.ofNat 5 f.x.toNat
    let c := s.core.cbd.get b.toFin
    let ptr := fun k => ofN ((c.base.toNat + k * 2 ^ (6 + c.log2sz.toNat)) % 2 ^ 24)
    let N := c.nslotm1.toNat + 1
    let moved := fun (u : State) (c' : Cbd) => u.core.cbd.get b.toFin = c' ∧ (∀ k : Fin 32, k ≠ b.toFin → u.core.cbd.get k = s.core.cbd.get k) ∧
      ∀ p, u.byteAt p = s.byteAt p
    ((c.en = false ∨ s.ctx.bnd.cbd.getLsbD b.toNat = false) → exec i s = .next (s.raise (alloc 3 0 0))) ∧
    (c.en = true → s.ctx.bnd.cbd.getLsbD b.toNat = true →
      (i = .cbres f → c.free = 0 → exec i s = .next (s.blocked s .engine)) ∧
      (i = .cbres f → 0 < c.free → ∀ t, Gives (wS f.d (ptr c.tail)) ((begun i s tok).setCb b
          { c with free := c.free - 1, resv := c.resv + 1, tail := (c.tail + 1) % N }) () t →
        exec i s = .next (done i s t) ∧ moved (done i s t) { c with free := c.free - 1, resv := c.resv + 1, tail := (c.tail + 1) % N }) ∧
      (i = .cbacq f → c.fill = 0 → exec i s = .next (s.blocked s .engine)) ∧
      (i = .cbacq f → 0 < c.fill → ∀ t, Gives (wS f.d (ptr c.head)) ((begun i s tok).setCb b
          { c with fill := c.fill - 1, acq := c.acq + 1, head := (c.head + 1) % N }) () t →
        exec i s = .next (done i s t) ∧ moved (done i s t) { c with fill := c.fill - 1, acq := c.acq + 1, head := (c.head + 1) % N }) ∧
      (i = .cbcmt f → c.resv = 0 → exec i s = .next (s.raise (alloc 3 0 0))) ∧
      (i = .cbcmt f → 0 < c.resv → let c' : Cbd := { c with resv := c.resv - 1, fill := c.fill + 1 }
        exec i s = .next (done i s ((begun i s tok).setCb b c')) ∧ moved (done i s ((begun i s tok).setCb b c')) c') ∧
      (i = .cbrel f → c.acq = 0 → exec i s = .next (s.raise (alloc 3 0 0))) ∧
      (i = .cbrel f → 0 < c.acq → let c' : Cbd := { c with acq := c.acq - 1, free := c.free + 1 }
        exec i s = .next (done i s ((begun i s tok).setCb b c')) ∧ moved (done i s ((begun i s tok).setCb b c')) c'))

/-! ### Translation (spec/04 R111 to R117, R120) -/

/-- The four levels of a walk: the low bit of its index of VA, the index's width, the size of the next table (R112). -/
def Sys2Proof.Claims.levelOf (l : Nat) : Nat × Nat × Nat :=
  if l = 0 then (39, 13, 8192) else if l = 1 then (29, 10, 2048) else if l = 2 then (21, 8, 256) else (16, 5, 0)
/-- The address of the entry that a walk reads in a table at `base` (R113). -/
def Sys2Proof.Claims.entryAddr (va : BitVec 52) (l base : Nat) : Nat := base + 8 * (va.toNat / 2 ^ (levelOf l).1 % 2 ^ (levelOf l).2.1)
/-- The 64-bit entry at a physical address. -/
def Sys2Proof.Claims.entryAt (s : State) (ea : Nat) : Nat := leNat (Memory.getN s.mem ea 8)
/-- The physical address that an entry points to: ADDR, bits [51:8]. -/
def Sys2Proof.Claims.entryTo (e : Nat) : Nat := e / 2 ^ 8 % 2 ^ 44 * 2 ^ 8
/-- n bytes from a physical address lie in a present MEM or HIO, within its capacity (R111, R113). -/
def Sys2Proof.Claims.populated (s : State) (a n : Nat) : Prop := a < 2 ^ 52 ∧ a % 2 ^ 46 + n ≤ s.capacity (BitVec.ofNat 6 (a / 2 ^ 46))
/-- A valid entry of a level is malformed (R113). -/
def Sys2Proof.Claims.IsMalformed (s : State) (e l : Nat) : Prop :=
  let leaf := e / 2 % 2 = 1
  let page := if leaf then 2 ^ (levelOf l).1 else (levelOf l).2.2
  e / 2 ^ 52 ≠ 0 ∨ (leaf ∧ l = 0) ∨ (¬leaf ∧ l = 3) ∨ (¬leaf ∧ (e / 4 % 4 ≠ 0 ∨ e / 16 % 16 ≠ 0)) ∨
  (page ≠ 0 ∧ (entryTo e % page ≠ 0 ∨ ¬populated s (entryTo e) page)) ∨ (leaf ∧ 4 ≤ e / 16 % 16)
/-- The walk of an address comes to a table of level `l` at `base`: every level before it held a valid, well-formed entry that is no
leaf (R113). -/
def Sys2Proof.Claims.Reaches (s : State) (d : BitVec 4) (va : BitVec 52) : Nat → Nat → Prop
  | 0, base => base = (s.dom d).ptroot
  | l + 1, base => ∃ b, Reaches s d va l b ∧ let e := entryAt s (entryAddr va l b)
      e % 2 = 1 ∧ ¬IsMalformed s e l ∧ e / 2 % 2 = 0 ∧ base = entryTo e

/-- R112, R113, R115: the walk of an address from a root that a present instance holds. At the level that it reaches, V = 0 faults at
the entry's address; a valid malformed entry faults there with its level; a well-formed leaf gives its page, its ORD and LAYOUT and
the tags of the page's frames. -/
def Sys2Proof.Claims.TableWalk : Prop :=
  ∀ (s : State) (d : BitVec 4) (va : BitVec 52) (l base : Nat), populated s (s.dom d).ptroot 65536 → l < 4 →
    Reaches s d va l base →
    let ea := entryAddr va l base
    let e := entryAt s ea
    (e % 2 = 0 → s.walk d va = .invalid ea) ∧
    (e % 2 = 1 → IsMalformed s e l → s.walk d va = .malformed ea l) ∧
    (e % 2 = 1 → ¬IsMalformed s e l → e / 2 % 2 = 1 → ∃ x, s.walk d va = .ok x ∧ x.dom = d ∧ x.bits = (levelOf l).1 ∧
      x.va.toNat = va.toNat / 2 ^ x.bits * 2 ^ x.bits ∧ x.pa.toNat = entryTo e ∧ x.ord.toNat = e / 4 % 4 ∧ x.layout.toNat = e / 16 % 16 ∧
      x.leaf.toNat = ea % 2 ^ 52 ∧ ∀ a, entryTo e ≤ a → a < entryTo e + 2 ^ x.bits → x.tagOf a = sget 0 s.tags (a / 65536))

/-- R114, R117: an address that the core's TLB covers is translated by it, and one that only the second-level TLB of the instance
covers by that; otherwise the tables are walked: a leaf is kept in both, a walk that fails parks its waiter on the entry's line,
after a PKTBAD record where the entry was malformed. The core's TLB keeps the 256 newest entries. -/
def Sys2Proof.Claims.Translations : Prop :=
  ∀ (s : State) (d : BitVec 4) (va : BitVec 52) (w : Waiter) (at_ : Option (SeqId × BitVec 52)),
    (∀ e, s.core.tlb.find? (fun e => e.covers d va) = some e → s.translate d va w at_ = .ok (e, s)) ∧
    (s.core.tlb.find? (fun e => e.covers d va) = none →
      (∀ e, (sget [] s.tlb2 s.core.sock.toNat).find? (fun e => e.covers d va) = some e →
        s.translate d va w at_ = .ok (e, s.tlbInsert e)) ∧
      ((sget [] s.tlb2 s.core.sock.toNat).find? (fun e => e.covers d va) = none →
        let m := s.mergeAll
        (∀ e, m.walk d va = .ok e → s.translate d va w at_ = .ok (e, (m.tlbWalked e).tlbInsert e)) ∧
        (∀ ea, m.walk d va = .invalid ea → s.translate d va w at_ = .error (m.park ea w true)) ∧
        (∀ ea l, m.walk d va = .malformed ea l →
          s.translate d va w at_ = .error ((m.walkRecord m.ctx at_ va ea l).park ea w false)))) ∧
    (∀ e, (s.tlbInsert e).core.tlb = (e :: s.core.tlb).take 256)

/-- The places of an access in window 2 that lies in one frame of a page. -/
def Sys2Proof.Claims.pageAt (r : Req) (e : TlbEnt) (s : State) : List Place :=
  run .phys (e.pa.toNat + (s.vaOf r.ptr).toNat % 2 ^ e.bits) r.n
/-- R87, R111 to R116: an access in window 2 within one frame passes R87's checks of its slot, finds the translation `e`, which leaves
the state `t`, its LAYOUT is the frame's tag, and no poison, where it is looked for, stands in its bytes. -/
structure Sys2Proof.Claims.OnPage (need : BitVec 7) (pois : Bool) (r : Req) (e : TlbEnt) (s t : State) : Prop where
  window : r.ptr.toNat / 2 ^ 60 = 2
  bytes : 0 < r.n
  checks : s.checkStatic need r = none
  frame : (s.vaOf r.ptr).toNat % 65536 + r.n ≤ 65536
  found : s.translate s.domOf (s.vaOf r.ptr) (s.waiter s.domOf (s.vaOf r.ptr)) (some (s.turn, s.ipc (s.len 8))) = .ok (e, t)
  tag : e.tagOf (e.pa.toNat + (s.vaOf r.ptr).toNat % 2 ^ e.bits) = e.layout
  poison : pois = true → ∀ p ∈ pageAt r e s, t.poisoned p = false
  strict : t.ctx.bnd.strict = false

/-- R79, R111: a window-2 pointer names the address VBASE + offset of its slot's buffer. -/
def Sys2Proof.Claims.VirtualAddress : Prop :=
  ∀ (s : State) (p : Word) (x : Slot) (e : RegEnt), s.slot (BitVec.ofNat 8 (p.toNat / 2 ^ 52)) = some x →
    (s.dom s.domOf).regOf (x.cap.setWidth 32) = some e → e.vbase.toNat + p.toNat % 2 ^ 52 < 2 ^ 52 →
    (s.vaOf p).toNat = e.vbase.toNat + p.toNat % 2 ^ 52

/-- R111, R114, R244, R123: a load in window 2 whose translation is found gives the bytes of its page, after the updates that wait for
its lines are merged (R108), and in a harvest context what that context has buffered over them (R57); its access is counted in the
translation. One whose translation is not found waits for its page: outside a region at its instruction, in an owner's clean
regions with the oldest checkpoint restored and every running sequencer waiting (R120). One whose page has another LAYOUT than the
frame's tag raises ALIAS (R115). -/
def Sys2Proof.Claims.TranslatedLoads : Prop :=
  ∀ (f : XM) (s : State) (tok : Vector (BitVec 4) 8) (ea : Word) (u : Option (BitVec 6 × Word)) (s1 : State),
    let r := scalarReq ea (widthOf f.wd)
    let va := s1.vaOf ea
    let found := s1.translate s1.domOf va (s1.waiter s1.domOf va) (some (s1.turn, s1.ipc (s1.len 8)))
    Issues (.ld f) s tok → slotAt (.ld f) (begun (.ld f) s tok) = true → Gives (eaXM f) (begun (.ld f) s tok) (ea, u) s1 →
    Gives (readyS f.t) s1 () s1 → widthOf f.wd ≤ 8 →
    (∀ e s2 s3 s4, OnPage needRD true r e s1 s2 → let v := (s2.touch e false).mergeAt (pageAt r e s1)
      let bs := (pageAt r e s1).map fun p => if s.ctx.id.harv then (sbGet v.ctx.sbuf p).getD (v.byteAt p) else v.byteAt p
      Gives (wS f.t (loaded (f.f.getLsbD 0) (widthOf f.wd) bs)) v () s3 → Gives (postUpd u) s3 () s4 →
      exec (.ld f) s = .next (done (.ld f) s s4)) ∧
    (∀ t, ea.toNat / 2 ^ 60 = 2 → s1.checkStatic needRD r = none → va.toNat % 65536 + r.n ≤ 65536 → found = .error t →
      (s.ctx.rgns = [] → exec (.ld f) s = .next (s.blocked t (.page va))) ∧
      (s.ctx.id.harv = false → (∀ g ∈ s.ctx.rgns, g.dirty = false) → ∀ g, s.ctx.rgns.getLast? = some g →
        ∃ w, exec (.ld f) s = .next w ∧ w.ctx.rgns = [{ g with dirty := false }] ∧ w.ctx.tok = g.chk.tok ∧ w.ctx.q = g.chk.q ∧
          ∀ q, (w.ctx.seqs.get q).pc = (g.chk.seqs.get q).pc ∧
            ((g.chk.seqs.get q).run = .running → (w.ctx.seqs.get q).wait = .page va))) ∧
    (∀ e t, ea.toNat / 2 ^ 60 = 2 → s1.checkStatic needRD r = none → va.toNat % 65536 + r.n ≤ 65536 → found = .ok (e, t) →
      let tag := e.tagOf (e.pa.toNat + va.toNat % 2 ^ e.bits)
      tag ≠ e.layout → exec (.ld f) s = .next (s.raise (aliasTrap e.layout.toNat tag.toNat 0xFF ea ea)))

/-- R111, R123, R244: an owner's store in window 2 whose translation is found writes the low bytes of T to its page, lowest first, and
no other byte differs from what the counted access and the updates merged under it leave. -/
def Sys2Proof.Claims.TranslatedStores : Prop :=
  ∀ (f : XM) (s : State) (tok : Vector (BitVec 4) 8) (ea x : Word) (u : Option (BitVec 6 × Word)) (s1 s2 s3 s4 : State) (e : TlbEnt),
    let r := scalarReq ea (widthOf f.wd)
    Issues (.st f) s tok → slotAt (.st f) (begun (.st f) s tok) = true → s.ctx.id.harv = false → Canon s →
    Gives (eaXM f) (begun (.st f) s tok) (ea, u) s1 → Gives (rS f.t) s1 x s2 → widthOf f.wd ≤ 8 →
    OnPage needWR false r e s2 s3 → Gives (postUpd u) s2 () s4 →
    ∃ v, exec (.st f) s = .next v ∧ v.ctx.s = s4.ctx.s ∧
      (∀ k < widthOf f.wd, ∃ p, (pageAt r e s2)[k]? = some p ∧ v.byteAt p = x.extractLsb' (8 * k) 8) ∧
      ∀ p ∉ pageAt r e s2, v.byteAt p = ((s3.touch e true).mergeAt (pageAt r e s2)).byteAt p

/-- HWERR[31:0] of a domain: the host accesses that ended with an error (R429). -/
def Sys2Proof.Claims.hostErrs (s : State) (d : BitVec 4) : Nat := ((s.dom d).host.get 3).toNat % 2 ^ 32
/-- R427, R429: in the host window (4) an owner's store writes its bytes to host memory, or, where the host ends it with an error,
none, and HWERR counts that; a load gives the bytes that stand there, or all ones with an error counted. Which it is, is free (log
entry 40). -/
def Sys2Proof.Claims.HostAccesses : Prop :=
  (∀ (f : XM) (s : State) (tok : Vector (BitVec 4) 8) (ea x : Word) (u : Option (BitVec 6 × Word)) (s1 s2 s3 : State),
    let r := scalarReq ea (widthOf f.wd)
    let ps := s.hostAt s.domOf (ea.toNat % 2 ^ 60) (widthOf f.wd)
    Issues (.st f) s tok → slotAt (.st f) (begun (.st f) s tok) = true → s.ctx.id.harv = false → Canon s →
    Gives (eaXM f) (begun (.st f) s tok) (ea, u) s1 → Gives (rS f.t) s1 x s2 → widthOf f.wd ≤ 8 → ea.toNat / 2 ^ 60 = 4 →
    s2.checkStatic needWR r = none → s.ctx.bnd.strict = false → ps.Nodup → Gives (postUpd u) s2 () s3 →
    ∃ v, exec (.st f) s = .next v ∧ v.ctx.s = s3.ctx.s ∧ (∀ p ∉ ps, v.byteAt p = s.byteAt p) ∧
      ((hostErrs v s.domOf = hostErrs s s.domOf ∧
          ∀ k < widthOf f.wd, ∀ p, ps[k]? = some p → v.byteAt p = x.extractLsb' (8 * k) 8) ∨
        (hostErrs v s.domOf = min (hostErrs s s.domOf + 1) (2 ^ 32 - 1) ∧ ∀ p ∈ ps, v.byteAt p = s.byteAt p))) ∧
  (∀ (f : XM) (s : State) (tok : Vector (BitVec 4) 8) (ea : Word) (u : Option (BitVec 6 × Word)) (s1 : State),
    let r := scalarReq ea (widthOf f.wd)
    let ps := s.hostAt s.domOf (ea.toNat % 2 ^ 60) (widthOf f.wd)
    Issues (.ld f) s tok → slotAt (.ld f) (begun (.ld f) s tok) = true → s.ctx.id.harv = false →
    Gives (eaXM f) (begun (.ld f) s tok) (ea, u) s1 → Gives (readyS f.t) s1 () s1 → widthOf f.wd ≤ 8 → ea.toNat / 2 ^ 60 = 4 →
    s1.checkStatic needRD r = none → s.ctx.bnd.strict = false → (∀ p ∈ ps, s.poisoned p = false) →
    ∃ (bad : Bool) (t : State), (hostErrs t s.domOf = if bad then min (hostErrs s s.domOf + 1) (2 ^ 32 - 1) else hostErrs s s.domOf) ∧
      (∀ p, t.byteAt p = s.byteAt p) ∧ t.ctx = s1.ctx ∧
      let bs := if bad then List.replicate ps.length 0xFF else ps.map s.byteAt
      ∀ s2 s3, Gives (wS f.t (loaded (f.f.getLsbD 0) (widthOf f.wd) bs)) t () s2 → Gives (postUpd u) s2 () s3 →
        exec (.ld f) s = .next (done (.ld f) s s3))

/-- R90, R140, R435, R453: an owner's store in window 3 leaves for the peer that its slot's capability names: its bytes count in PEND
and its packet stands behind what waits at an up port of the peer's set; it waits while PEND would pass 2^40 - 1, or no room is
left. With no such port it is refused, and counts nothing. No byte of this package's memories changes but by the report of a
refusal. -/
def Sys2Proof.Claims.PeerStores : Prop :=
  ∀ (f : XM) (s : State) (tok : Vector (BitVec 4) 8) (ea x : Word) (u : Option (BitVec 6 × Word)) (s1 s2 s3 : State),
    let n := widthOf f.wd
    let r := scalarReq ea n
    let peer := s2.peerOf ea
    Issues (.st f) s tok → slotAt (.st f) (begun (.st f) s tok) = true → s.ctx.id.harv = false →
    Gives (eaXM f) (begun (.st f) s tok) (ea, u) s1 → Gives (rS f.t) s1 x s2 → n ≤ 8 → ea.toNat / 2 ^ 60 = 3 →
    ea.toNat % 256 + n ≤ 256 → s2.checkStatic needWR r = none → s.ctx.bnd.strict = false → Gives (postUpd u) s2 () s3 →
    (2 ^ 40 - 1 < s.ctx.pend.toNat + n → exec (.st f) s = .next (s.blocked s .pend)) ∧
    (s.ctx.pend.toNat + n ≤ 2 ^ 40 - 1 → s.netRoom s.ctx.sender n = false → exec (.st f) s = .next (s.blocked s .memory)) ∧
    (s.ctx.pend.toNat + n ≤ 2 ^ 40 - 1 → s.netRoom s.ctx.sender n = true →
      (s.reachable peer = true → ∃ v k w, exec (.st f) s = .next v ∧ v.ctx.s = s3.ctx.s ∧
        v.ctx.pend.toNat = s.ctx.pend.toNat + n ∧ (∀ p, v.byteAt p = s.byteAt p) ∧
        v.peers = s.peers ++ [w] ∧ w.own = s.ctx.id ∧ w.peer = peer ∧ w.ptr = ea ∧ w.bytes = n ∧ w.engine = none ∧
        k ∈ sget [] s.pkg.route peer.toNat ∧ (s.ports.get k.toFin).state = 2 ∧
        (v.ports.get k.toFin).txq.length = (s.ports.get k.toFin).txq.length + 2 ∧
        (∃ h b, (v.ports.get k.toFin).txq = (s.ports.get k.toFin).txq ++ [h, b] ∧ h.first = true ∧ b.first = false ∧
          h.pkt = w.pkt ∧ b.pkt = w.pkt ∧ b.data.toNat = x.toNat % 2 ^ (8 * n)) ∧
        ∀ j : BitVec 7, j ≠ k → v.ports.get j.toFin = s.ports.get j.toFin) ∧
      (s.reachable peer = false → ∃ v, exec (.st f) s = .next v ∧ v.ctx.s = s3.ctx.s ∧ v.ctx.pend = s.ctx.pend ∧
        v.peers = s.peers ∧ ∀ p, p.sp ≠ .host → v.byteAt p = s.byteAt p))

/-! ## Atomics, ordering, semaphores, barriers, waits (spec/09 R241, R257 to R265, spec/04 R106 to R108) -/

/-- Integer of a w-byte word. -/
def Sys2Proof.Claims.sgn (w v : Nat) : Int := if v < 2 ^ (8 * w - 1) then v else (v : Int) - 2 ^ (8 * w)
/-- R106: the eight commutative operations on words of w bytes: sum modulo the word, and, or, xor, the lesser and the greater as
integers, the lesser and the greater as naturals. -/
def Sys2Proof.Claims.CommutativeOperations : Prop :=
  ∀ (w a b : Nat), (w = 4 ∨ w = 8) → a < 2 ^ (8 * w) → b < 2 ^ (8 * w) →
    commOp 0 w a b = (a + b) % 2 ^ (8 * w) ∧ commOp 1 w a b = a &&& b ∧ commOp 2 w a b = a ||| b ∧ commOp 3 w a b = a ^^^ b ∧
    sgn w (commOp 4 w a b) = min (sgn w a) (sgn w b) ∧ sgn w (commOp 5 w a b) = max (sgn w a) (sgn w b) ∧
    commOp 6 w a b = min a b ∧ commOp 7 w a b = max a b ∧
    ∀ op : BitVec 3, commOp op w a b < 2 ^ (8 * w) ∧ commOp op w a b = commOp op w b a ∧ commOp op w (commId op w) b = b

/-- R107, R108: an update combined into an update-only line changes no byte of memory; when a read then reaches the word, it
finds what the operation makes of the old word and the operand, and no other byte of the line differs. -/
def Sys2Proof.Claims.UpdateThenRead : Prop :=
  ∀ (s : State) (op : BitVec 3) (w a v : Nat), (w = 4 ∨ w = 8) → a % w = 0 → v < 2 ^ (8 * w) →
    (∀ c ∈ s.allCores, c.uol = []) → s.mons = [] → Canon s →
    let t := s.combine op w a v
    (∀ p, t.byteAt p = s.byteAt p) ∧
    (t.readPlaces (run .phys a w)).1 = leBytes w (commOp op w (leNat (Memory.getN s.mem a w)) v) ∧
    ∀ b, (b < a ∨ a + w ≤ b) → (t.readPlaces (run .phys a w)).2.byteAt { sp := .phys, a := b } = s.byteAt { sp := .phys, a := b }

/-- A scalar atomic's form: the operand registers besides A, in the order in which they are read, and what the word takes
from the old value and them; the flags it sets. -/
structure Sys2Proof.Claims.AtomicForm where
  instr : XM → Instr
  cmp : Bool
  op : XM → Word → Word → Nat → Nat
  flags : XM → Word → Nat → BitVec 7

/-- amo, cas and amof (R257): amo by its commutative operation; cas writes B when the word equals T, or always under .swap; amof
by its floating operation. -/
def Sys2Proof.Claims.atomicForms : List AtomicForm :=
  [{ instr := .amo, cmp := false, op := fun f b _ v => commOp (BitVec.ofNat 3 f.f.toNat) (widthOf f.wd) v b.toNat, flags := fun _ _ _ => 0 },
   { instr := .cas, cmp := true
     op := fun f b t v => if f.f.getLsbD 0 ∨ v = t.toNat % 2 ^ (8 * widthOf f.wd) then b.toNat % 2 ^ (8 * widthOf f.wd) else v
     flags := fun _ _ _ => 0 },
   { instr := .amof, cmp := false, op := fun f b _ v => (amofOp f.f (widthOf f.wd) v (b.toNat % 2 ^ (8 * widthOf f.wd))).1
     flags := fun f b v => (amofOp f.f (widthOf f.wd) v (b.toNat % 2 ^ (8 * widthOf f.wd))).2 }]

/-- R257, R241: in an owner, an atomic on the aligned word that contains its address, in a window that is not translated,
with its release (if any) ready, writes the old word to T and to memory what its operation makes of it, and no byte besides but by
its release; its flags are added to FPFLG. -/
def Sys2Proof.Claims.ScalarAtomics : Prop :=
  ∀ p ∈ atomicForms, ∀ (f : XM) (s : State) (tok : Vector (BitVec 4) 8) (a b x : Word) (s1 s2 s3 t : State),
    let i := p.instr f
    let w := widthOf f.wd
    let ea := ofI (a.toInt + f.off.toInt)
    let r := scalarReq (ofN (ea.toNat / w * w)) w
    let old := leNat ((s.direct r).map s.byteAt)
    Issues i s tok → slotAt i (begun i s tok) = true → s.ctx.id.harv = false → (w = 4 ∨ w = 8) → Canon s →
    (f.f.getLsbD 4 = true → releaseFree f.m ea s) →
    Gives (rS f.a) (begun i s tok) a s1 → Gives (rS f.b) s1 b s2 → (if p.cmp then Gives (rS f.t) s2 x s3 else s3 = s2) →
    Gives (readyS f.t) s3 () s3 → Clear needAT true true r s3 → Gives (wS f.t (ofN old)) s3 () t →
    p.op f b x old < 2 ^ (8 * w) →
    ∃ v, exec i s = .next v ∧ v.ctx.s = t.ctx.s ∧ v.ctx.fpflg = s.ctx.fpflg ||| p.flags f b old ∧
      leNat ((s.direct r).map v.byteAt) = p.op f b x old ∧
      ∀ z ∉ s.direct r, v.byteAt z = (if f.f.getLsbD 4 then released f.m ea s else s).byteAt z

/-- R106, R257: cupd and vcupd, all their accesses found good, make their updates in ascending lane order and write no
register. -/
def Sys2Proof.Claims.CommutativeUpdates : Prop :=
  (∀ (f : XM) (s : State) (tok : Vector (BitVec 4) 8) (a x : Word) (s1 s2 s3 : State),
    let w := widthOf f.wd
    let r := scalarReq (ofN ((ofI (a.toInt + f.off.toInt)).toNat / w * w)) w
    Issues (.cupd f) s tok → slotAt (.cupd f) (begun (.cupd f) s tok) = true → s.ctx.id.harv = false →
    Gives (rS f.a) (begun (.cupd f) s tok) a s1 → Gives (rS f.t) s1 x s2 →
    Gives (cupdAll (BitVec.ofNat 3 f.f.toNat) [(r, x.toNat % 2 ^ (8 * w))]) s2 () s3 →
    ∃ v, exec (.cupd f) s = .next v ∧ v.ctx.s = s2.ctx.s ∧ v.ctx.v = s2.ctx.v ∧ ∀ z, v.byteAt z = s3.byteAt z) ∧
  (∀ (f : XM) (s : State) (tok : Vector (BitVec 4) 8) (a : Word) (b x : Vec) (s1 s2 s3 s4 : State),
    Issues (.vcupd f) s tok → lanesAt (.vcupd f) s ≠ 0 → s.ctx.id.harv = false →
    Gives (rS f.a) (begun (.vcupd f) s tok) a s1 → Gives (rV f.b) s1 b s2 → Gives (rV f.t) s2 x s3 →
    Gives (cupdAll (BitVec.ofNat 3 f.f.toNat) ((wordReqs (ofI (a.toInt + f.off.toInt)) b (lanesAt (.vcupd f) s)).map
      fun r => (r, (lane x r.lane).toNat))) s3 () s4 →
    ∃ v, exec (.vcupd f) s = .next v ∧ v.ctx.s = s3.ctx.s ∧ v.ctx.v = s3.ctx.v ∧ ∀ z, v.byteAt z = s4.byteAt z)

/-- The words of an indexed atomic, from the lowest lane up: each lane's old value, and the bytes as they then stand. -/
def Sys2Proof.Claims.laneAtomics (op : BitVec 3) (x : Vec) : List Req → (Place → Byte) → (State → Req → List Place) → State →
    List (Nat × Lane) × (Place → Byte)
  | [], m, _, _ => ([], m)
  | r :: rs, m, at_, s =>
    let old := leNat ((at_ s r).map m)
    let new := commOp op 4 old (lane x r.lane).toNat
    let m' := fun p => match (((at_ s r).zip (leBytes 4 new)).find? fun z => z.1 == p) with
      | some z => z.2
      | none => m p
    let (l, m'') := laneAtomics op x rs m' at_ s
    ((r.lane, BitVec.ofNat 32 old) :: l, m'')

/-- R257, R241: in an owner and in windows that are not translated, vamo acts on its words one lane after the other, lowest
first, so that lanes which name one word see each other's results; each active lane of T takes its old word. -/
def Sys2Proof.Claims.VectorAtomics : Prop :=
  ∀ (f : XM) (s : State) (tok : Vector (BitVec 4) 8) (a : Word) (b x : Vec) (s1 s2 s3 t : State),
    let m := lanesAt (.vamo f) s
    let rs := wordReqs (ofI (a.toInt + f.off.toInt)) b m
    let res := laneAtomics (BitVec.ofNat 3 f.f.toNat) x rs s.byteAt State.direct s
    Issues (.vamo f) s tok → m ≠ 0 → s.ctx.id.harv = false → Canon s →
    Gives (rS f.a) (begun (.vamo f) s tok) a s1 → Gives (rV f.b) s1 b s2 → Gives (rV f.t) s2 x s3 →
    Gives (readyV f.t) s3 () s3 → (∀ r ∈ rs, Clear needAT true true r s3) → Gives (wV f.t m (ofPairs res.1)) s3 () t →
    ∃ v, exec (.vamo f) s = .next v ∧ v.ctx.v = t.ctx.v ∧ v.ctx.o = t.ctx.o ∧ ∀ z, v.byteAt z = res.2 z

/-- R139, R141, R259: from PKG scope on a fence merges the core's update-only lines; at FAB it then waits while the context's PEND
is not 0; otherwise it completes, and it changes no register. -/
def Sys2Proof.Claims.Fences : Prop :=
  ∀ (f : XR) (s : State) (tok : Vector (BitVec 4) 8), Issues (.fence f) s tok →
    slotAt (.fence f) (begun (.fence f) s tok) = true → s.ctx.id.harv = false →
    (f.m = 4 → s.ctx.pend ≠ 0 → exec (.fence f) s = .next (s.blocked (begun (.fence f) s tok).mergeOwn .memory)) ∧
    ((f.m = 4 → s.ctx.pend = 0) → ∃ u, exec (.fence f) s = .next u ∧ (2 ≤ f.m.toNat → u.core.uol = []) ∧
      u.ctx.s = s.ctx.s ∧ u.ctx.v = s.ctx.v ∧ u.ctx.p = s.ctx.p ∧ u.core.spad = s.core.spad ∧
      u.llc = s.llc)

/-- R260: semsig adds 1 to its count, semwait takes 1, semget reads it; no other count changes, and no byte but by semsig's release.
Those that came before and still wait to do the same act first: with them counted, a signal that finds no room up to 0xFFFF, and a
wait that finds no count left, waits, keeps its place, or takes the last, and changes no count. -/
def Sys2Proof.Claims.Semaphores : Prop :=
  ∀ (f : XR) (s : State) (tok : Vector (BitVec 4) 8), s.ctx.id.harv = false →
    let k : Fin 64 := Fin.ofNat 64 f.x.toNat
    let n := (s.core.sem.get k).toNat
    let rel := if 2 ≤ f.m.toNat then s.mergeOwn else s
    let me : Sum (CtxId × SeqId) Nat := .inl (s.ctx.id, s.turn)
    let ahead := fun (sig : Bool) => ((s.core.semq.takeWhile fun w => w.who != me).filter fun w =>
      w.sem.toNat == k.val && w.signal == sig && s.semLive w).length
    let moves := fun (i : Instr) (m : Nat) (from_ : State) => ∃ u, exec i s = .next u ∧ (u.core.sem.get k).toNat = m ∧
      (∀ j ≠ k, u.core.sem.get j = s.core.sem.get j) ∧ u.core.semq = (s.core.semq.filter fun w => w.who != me) ∧
      (u.ctx.seqs.get s.turn).wait ≠ .sem ∧ ∀ p, u.byteAt p = from_.byteAt p
    let waits := fun (i : Instr) (sig : Bool) (from_ : State) => let w : SemWait := { sem := BitVec.ofNat 6 k.val, signal := sig, who := me }
      ∃ u, exec i s = .next u ∧ u.core.sem = s.core.sem ∧ (u.ctx.seqs.get s.turn).wait = .sem ∧ (u.ctx.seqs.get s.turn).pc = s.sq.pc ∧
        (w ∈ s.core.semq → u.core.semq = s.core.semq) ∧
        (w ∉ s.core.semq → u.core.semq = (s.core.semq.filter fun y => y.who != me && s.semLive y) ++ [w]) ∧
        ∀ p, u.byteAt p = from_.byteAt p
    (Issues (.semsig f) s tok → slotAt (.semsig f) (begun (.semsig f) s tok) = true → (f.m = 4 → s.ctx.pend = 0) →
      (65535 ≤ n + ahead true → waits (.semsig f) true rel) ∧ (n + ahead true < 65535 → moves (.semsig f) (n + 1) rel)) ∧
    (Issues (.semwait f) s tok → slotAt (.semwait f) (begun (.semwait f) s tok) = true →
      (n ≤ ahead false → waits (.semwait f) false s) ∧ (ahead false < n → moves (.semwait f) (n - 1) s)) ∧
    (∀ t, Issues (.semget f) s tok → slotAt (.semget f) (begun (.semget f) s tok) = true →
      Gives (wS f.d (ofN n)) (begun (.semget f) s tok) () t → exec (.semget f) s = .next (done (.semget f) s t))

/-- A barrier object's 16 bytes as N, ARR and GEN. -/
def Sys2Proof.Claims.barObj (n arr gen : Nat) : List Byte := leBytes 16 (n + arr * 2 ^ 32 + gen * 2 ^ 64)

/-- R261: barinit writes N with no arrival and phase 0 (an N of 0 raises CAPF cause 0x4); bararr reads GEN to D and adds an
arrival, the last of which begins the next phase; barwait waits while GEN equals B; bartest writes whether it differs. The
object stands in a window that is not translated, in an owner. -/
def Sys2Proof.Claims.Barriers : Prop :=
  ∀ (f : XR) (s : State) (tok : Vector (BitVec 4) 8) (a : Word) (s1 : State),
    let r := fun (a : Word) => scalarReq (ofN (a.toNat / 16 * 16)) 16
    s.ctx.id.harv = false → Canon s →
    (∀ b s2, Issues (.barinit f) s tok → slotAt (.barinit f) (begun (.barinit f) s tok) = true →
      Gives (rS f.a) (begun (.barinit f) s tok) a s1 → Gives (rS f.b) s1 b s2 → Clear needWR false true (r a) s2 →
      (b.toNat % 2 ^ 32 = 0 → exec (.barinit f) s = .next (s.raise (capf 4 0 2 0xFF (r a).ptr ((r a).ptr + 15)))) ∧
      (b.toNat % 2 ^ 32 ≠ 0 → ∃ u, exec (.barinit f) s = .next u ∧
        (s.direct (r a)).map u.byteAt = barObj (b.toNat % 2 ^ 32) 0 0 ∧ ∀ z ∉ s.direct (r a), u.byteAt z = s.byteAt z)) ∧
    (∀ n arr gen t, Issues (.bararr f) s tok → slotAt (.bararr f) (begun (.bararr f) s tok) = true → releaseFree f.m a s →
      Gives (rS f.a) (begun (.bararr f) s tok) a s1 → Gives (readyS f.d) s1 () s1 → Clear needAT true true (r a) s1 →
      (s.direct (r a)).map s.byteAt = barObj n arr gen → n < 2 ^ 32 → arr + 1 < 2 ^ 32 → gen < 2 ^ 32 →
      Gives (wS f.d (ofN gen)) s1 () t →
      ∃ u, exec (.bararr f) s = .next u ∧ u.ctx.s = t.ctx.s ∧
        (s.direct (r a)).map u.byteAt = (if arr + 1 = n then barObj n 0 ((gen + 1) % 2 ^ 32) else barObj n (arr + 1) gen) ∧
        ∀ z ∉ s.direct (r a), u.byteAt z = (released f.m a s).byteAt z) ∧
    (∀ n arr gen b s2, Issues (.barwait f) s tok → slotAt (.barwait f) (begun (.barwait f) s tok) = true →
      Gives (rS f.a) (begun (.barwait f) s tok) a s1 → Gives (rS f.b) s1 b s2 → Clear needRD true false (r a) s2 →
      (s.direct (r a)).map s.byteAt = barObj n arr gen → n < 2 ^ 32 → arr < 2 ^ 32 → gen < 2 ^ 32 →
      exec (.barwait f) s = .next (if gen = b.toNat % 2 ^ 32 then s.blocked s .barrier else done (.barwait f) s s2)) ∧
    (∀ n arr gen b s2 t, Issues (.bartest f) s tok → slotAt (.bartest f) (begun (.bartest f) s tok) = true →
      Gives (rS f.a) (begun (.bartest f) s tok) a s1 → Gives (rS f.b) s1 b s2 → Gives (readyS f.d) s2 () s2 →
      Clear needRD true false (r a) s2 →
      (s.direct (r a)).map s.byteAt = barObj n arr gen → n < 2 ^ 32 → arr < 2 ^ 32 → gen < 2 ^ 32 →
      Gives (wS f.d (if gen = b.toNat % 2 ^ 32 then 0 else 1)) s2 () t →
      exec (.bartest f) s = .next (done (.bartest f) s t))

/-- R263: an address wait evaluates its word at issue: when the condition fails, T takes the word and the wait is over; while it
holds, the sequencer waits on that word (waitwt until its deadline, and not at all when GTS has reached it). A wait that a
write has ended gives the value of that evaluation. waitwt reads its deadline after A and B (R43). -/
def Sys2Proof.Claims.AddressWaits : Prop :=
  ∀ (i : Instr) (f : XM) (s : State) (tok : Vector (BitVec 4) 8) (a b : Word) (s0 s1 s2 t : State) (dl : Option Word),
    ((i = .waitw f ∧ dl = none ∧ s2 = s1) ∨ (i = .waitwt f ∧ ∃ x, dl = some x ∧ Gives (rS f.t) s1 x s2)) →
    let w := widthOf f.wd
    let r := scalarReq (ofN ((ofI (a.toInt + f.off.toInt)).toNat / w * w)) w
    let v := ofN (leNat ((s.direct r).map s.byteAt))
    let c := ofN (b.toNat % 2 ^ (8 * w))
    let holds : Bool := if f.f.getLsbD 0 then decide (v.toNat < c.toNat) else v == c
    let late : Bool := dl.any fun x => decide (x.toNat ≤ s.gts.toNat)
    Issues i s tok → slotAt i (begun i s tok) = true → s.ctx.id.harv = false → (w = 4 ∨ w = 8) →
    Gives (rS f.a) (begun i s tok) a s0 → Gives (rS f.b) s0 b s1 → Gives (readyS f.t) s2 () s2 → Clear needRD true false r s2 →
    (∀ x, s.sq.woke = some x → Gives (wS f.t x) s2 () t → exec i s = .next (done i s t)) ∧
    (s.sq.woke = none → (holds = false ∨ late = true) → Gives (wS f.t v) s2 () t → exec i s = .next (done i s t)) ∧
    (s.sq.woke = none → holds = true → late = false → ∃ p, (s.direct r).head? = some p ∧
      exec i s = .next (s.blocked s (.addr p.sp p.a w c (f.f.getLsbD 0) dl)))

/-- R262, R264: wake writes T to the wake word that its address names, in the issuing package's carve of its own domain, and
nothing else but by its release; a word at or above WAKEN raises CAPF cause 0x6. A word of a package that an up port leads to is on
its way, its bytes counted in PEND; it waits while no room is left for it. -/
def Sys2Proof.Claims.Wakes : Prop :=
  ∀ (f : XM) (s : State) (tok : Vector (BitVec 4) 8) (a x : Word) (s1 s2 : State),
    let ea := ofI (a.toInt + f.off.toInt)
    let ptr := ofN (ea.toNat / 8 * 8)
    let k := ptr.toNat / 8 % 2 ^ 45
    Issues (.wake f) s tok → slotAt (.wake f) (begun (.wake f) s tok) = true → s.ctx.id.harv = false → Canon s →
    (f.m = 4 → s.ctx.pend = 0) → Gives (rS f.a) (begun (.wake f) s tok) a s1 → Gives (rS f.t) s1 x s2 →
    ptr.toNat / 2 ^ 60 = 5 →
    ((s.dom s.domOf).waken ≤ k → exec (.wake f) s = .next (s.raise (capf 6 0 0 0xFF ptr (ptr + 7)))) ∧
    (k < (s.dom s.domOf).waken → (ptr.toNat / 2 ^ 48 % 2 ^ 12 = 0xFFF ∨ ptr.toNat / 2 ^ 48 % 2 ^ 12 = s.pkg.pkgno.toNat) →
      ∃ u, exec (.wake f) s = .next u ∧
        (∀ j p, (s.carveAt s.domOf (8 * k) 8)[j]? = some p → u.byteAt p = x.extractLsb' (8 * j) 8) ∧
        ∀ p ∉ s.carveAt s.domOf (8 * k) 8, u.byteAt p = (released f.m ea s).byteAt p) ∧
    (k < (s.dom s.domOf).waken → ptr.toNat / 2 ^ 48 % 2 ^ 12 ≠ 0xFFF → ptr.toNat / 2 ^ 48 % 2 ^ 12 ≠ s.pkg.pkgno.toNat →
      s.ctx.pend.toNat + 8 < 2 ^ 40 → s.reachable (BitVec.ofNat 12 (ptr.toNat / 2 ^ 48)) = true →
      (s.netRoom s.ctx.sender 8 = false → exec (.wake f) s = .next (s.blocked s .memory)) ∧
      (s.netRoom s.ctx.sender 8 = true → ∃ u, exec (.wake f) s = .next u ∧ u.ctx.pend.toNat = s.ctx.pend.toNat + 8 ∧ u.peers.length = s.peers.length + 1 ∧
        ∀ p, u.byteAt p = (released f.m ea s).byteAt p))

/-- R257, R111, R89, R116, R429: an owner's scalar atomic on a word of window 2 acts on its page, one of the host window on host
memory, where the host may end either half with an error (log entry 40), and one of window 3 leaves for its peer: it counts in PEND,
the old word that comes back is free, and a poisoned line there raises POISON (log entry 22). -/
def Sys2Proof.Claims.TranslatedAtomics : Prop :=
  ∀ p ∈ atomicForms, ∀ (f : XM) (s : State) (tok : Vector (BitVec 4) 8) (a b x : Word) (s1 s2 s3 : State),
    let i := p.instr f
    let w := widthOf f.wd
    let ea := ofI (a.toInt + f.off.toInt)
    let r := scalarReq (ofN (ea.toNat / w * w)) w
    Issues i s tok → slotAt i (begun i s tok) = true → s.ctx.id.harv = false → (w = 4 ∨ w = 8) → Canon s → f.f.getLsbD 4 = false →
    Gives (rS f.a) (begun i s tok) a s1 → Gives (rS f.b) s1 b s2 → (if p.cmp then Gives (rS f.t) s2 x s3 else s3 = s2) →
    Gives (readyS f.t) s3 () s3 →
    (∀ e t, OnPage needAT true r e s3 t → let ps := pageAt r e s3
      let v := (t.touch e true).mergeAt ps
      let old := leNat (ps.map v.byteAt)
      p.op f b x old < 2 ^ (8 * w) → ∀ y, Gives (wS f.t (ofN old)) s3 () y →
      ∃ u, exec i s = .next u ∧ u.ctx.s = y.ctx.s ∧ u.ctx.fpflg = s.ctx.fpflg ||| p.flags f b old ∧
        leNat (ps.map u.byteAt) = p.op f b x old ∧ ∀ z ∉ ps, u.byteAt z = v.byteAt z) ∧
    (r.ptr.toNat / 2 ^ 60 = 4 → s3.checkStatic needAT r = none → s.ctx.bnd.strict = false → let ps := s.direct r
      ps.Nodup → (∀ z ∈ ps, s.poisoned z = false) →
      ∃ old, old < 2 ^ (8 * w) ∧ (p.op f b x old < 2 ^ (8 * w) → ∀ y, Gives (wS f.t (ofN old)) s3 () y →
        ∃ u noRead noWrite, exec i s = .next u ∧ u.ctx.s = y.ctx.s ∧ (noRead = false → old = leNat (ps.map s.byteAt)) ∧
          hostErrs u s.domOf = min (hostErrs s s.domOf + noRead.toNat + noWrite.toNat) (2 ^ 32 - 1) ∧
          (noWrite = false → leNat (ps.map u.byteAt) = p.op f b x old) ∧ (noWrite = true → ∀ z ∈ ps, u.byteAt z = s.byteAt z) ∧
          ∀ z ∉ ps, u.byteAt z = s.byteAt z)) ∧
    (r.ptr.toNat / 2 ^ 60 = 3 → s3.checkStatic needAT r = none → s.ctx.bnd.strict = false →
      s.ctx.pend.toNat + w ≤ 2 ^ 40 - 1 → s.netRoom s.ctx.sender w = true → s.reachable (s3.peerOf r.ptr) = true →
      exec i s = .next (s.raise (poisonTrap r.ptr)) ∨
      ∃ old u, old < 2 ^ (8 * w) ∧ (∀ y, Gives (wS f.t (ofN old)) s3 () y → exec i s = .next u ∧ u.ctx.s = y.ctx.s ∧
        u.ctx.pend.toNat = s.ctx.pend.toNat + w ∧ u.peers.length = s.peers.length + 1 ∧ ∀ z, u.byteAt z = s.byteAt z))

/-! ## Vector forms (spec/10 R270 to R292) -/

/-- Integer of a lane modulo 2^32. -/
def Sys2Proof.Claims.ofL (x : Int) : Lane := BitVec.ofInt 32 x

/-- The two-source lane forms with their results as arithmetic of the numbers that the lanes stand for (R274). -/
def Sys2Proof.Claims.laneForms : List ((W32 → Instr) × (Lane → Lane → Lane)) :=
  [(.vadd, fun a b => ofL (a.toInt + b.toInt)), (.vsub, fun a b => ofL (a.toInt - b.toInt)), (.vmul, fun a b => ofL (a.toInt * b.toInt)),
   (.vmulh, fun a b => ofL (a.toInt * b.toInt / 2 ^ 32)), (.vmulhn, fun a b => ofL (a.toNat * b.toNat / 2 ^ 32 : Nat)),
   (.vmin, fun a b => ofL (min a.toInt b.toInt)), (.vmax, fun a b => ofL (max a.toInt b.toInt)),
   (.vminn, fun a b => ofL (min a.toNat b.toNat : Nat)), (.vmaxn, fun a b => ofL (max a.toNat b.toNat : Nat)),
   (.vand, fun a b => ofL (a.toNat &&& b.toNat : Nat)), (.vor, fun a b => ofL (a.toNat ||| b.toNat : Nat)),
   (.vxor, fun a b => ofL (a.toNat ^^^ b.toNat : Nat)), (.vandn, fun a b => ofL (a.toNat &&& (2 ^ 32 - 1 - b.toNat) : Nat)),
   (.vsll, fun a b => ofL (a.toNat * 2 ^ (b.toNat % 32) : Nat)), (.vsrl, fun a b => ofL (a.toNat / 2 ^ (b.toNat % 32) : Nat)),
   (.vsra, fun a b => ofL (a.toInt / 2 ^ (b.toNat % 32)))]
/-- The one-source lane forms (R275). -/
def Sys2Proof.Claims.laneForms1 : List ((W32 → Instr) × (Lane → Lane)) :=
  [(.vfabs, fun a => ofL (a.toNat % 2 ^ 31 : Nat)), (.vfneg, fun a => ofL (a.toNat + 2 ^ 31 : Nat)), (.vmov, fun a => a)]

/-- R274, R275, R48, R94: a lane form writes to the active lanes of D its row's result for the same lanes of A and B, whatever
they hold, and keeps the other lanes; vbcast writes A[31:0] to each active lane. -/
def Sys2Proof.Claims.LaneForms : Prop :=
  (∀ p ∈ laneForms, ∀ (f : W32) (s : State) (tok : Vector (BitVec 4) 8) (a b r : Vec) (s1 s2 t : State),
    Issues (p.1 f) s tok → lanesAt (p.1 f) s ≠ 0 → Gives (rV f.a) (begun (p.1 f) s tok) a s1 → Gives (rV f.b) s1 b s2 →
    (∀ k < 64, lane r k = p.2 (lane a k) (lane b k)) → Gives (wV f.d (lanesAt (p.1 f) s) r) s2 () t →
    exec (p.1 f) s = .next (done (p.1 f) s t)) ∧
  (∀ p ∈ laneForms1, ∀ (f : W32) (s : State) (tok : Vector (BitVec 4) 8) (a r : Vec) (s1 t : State),
    Issues (p.1 f) s tok → lanesAt (p.1 f) s ≠ 0 → Gives (rV f.a) (begun (p.1 f) s tok) a s1 →
    (∀ k < 64, lane r k = p.2 (lane a k)) → Gives (wV f.d (lanesAt (p.1 f) s) r) s1 () t →
    exec (p.1 f) s = .next (done (p.1 f) s t)) ∧
  (∀ (f : W32) (s : State) (tok : Vector (BitVec 4) 8) (a : Word) (r : Vec) (s1 t : State),
    Issues (.vbcast f) s tok → lanesAt (.vbcast f) s ≠ 0 → Gives (rS f.a) (begun (.vbcast f) s tok) a s1 →
    (∀ k < 64, lane r k = ofL (a.toNat % 2 ^ 32 : Nat)) → Gives (wV f.d (lanesAt (.vbcast f) s) r) s1 () t →
    exec (.vbcast f) s = .next (done (.vbcast f) s t))

/-- FRAME of the lane forms (R48, R94): outside the context nothing differs; in it no vector register but D, no operand-file
register but D, no queue but those named, no scalar or predicate register and no flag. -/
def Sys2Proof.Claims.LaneFrame : Prop :=
  ∀ p ∈ laneForms, ∀ (f : W32) (s : State) (tok : Vector (BitVec 4) 8) (a b r : Vec) (s1 s2 t : State),
    Issues (p.1 f) s tok → lanesAt (p.1 f) s ≠ 0 → Gives (rV f.a) (begun (p.1 f) s tok) a s1 → Gives (rV f.b) s1 b s2 →
    (∀ k < 64, lane r k = p.2 (lane a k) (lane b k)) → Gives (wV f.d (lanesAt (p.1 f) s) r) s2 () t →
    ∃ u, exec (p.1 f) s = .next u ∧ VectorFrame f.d [f.a, f.b] s u ∧ u.ctx.s = s.ctx.s ∧ u.ctx.p = s.ctx.p ∧
      u.ctx.fpflg = s.ctx.fpflg ∧ u.ctx.srs = s.ctx.srs ∧ u.ctx.fpctl = s.ctx.fpctl ∧ u.ctx.q = s.ctx.q

/-- R170, R271: rounding a list of elements answers each in order with what the form makes of it; outside SR no generator
steps; under SR each element takes the next draw of its governing lane's generator, elements of one lane in ascending order.
The flags of all are added to FPFLG. -/
def Sys2Proof.Claims.ElementsRounded : Prop :=
  ∀ (mode : Nat) (lane : Nat → Nat) (g : Nat → Nat → Nat × BitVec 7) (es : List Nat) (s : State), (∀ e ∈ es, lane e < 64) →
    let before := fun j => (es.take j).countP fun e => lane e == lane (es.getD j 0)
    let at_ := fun (l n : Nat) => Nat.repeat srNext n (vget s.ctx.srs l)
    let rnd := fun j => if mode = 4 then (at_ (lane (es.getD j 0)) (before j + 1)).toNat else 0
    ∃ l t, Gives (rounded mode lane g es) s l t ∧ l.map (·.1) = es ∧
      (∀ j < es.length, (l.getD j (0, 0)).2 = (g (rnd j) (es.getD j 0)).1) ∧
      t.ctx.fpflg = (List.range es.length).foldl (fun fl j => fl ||| (g (rnd j) (es.getD j 0)).2) s.ctx.fpflg ∧
      (∀ k < 64, vget t.ctx.srs k = if mode = 4 then at_ k (es.countP fun e => lane e == k) else vget s.ctx.srs k) ∧
      t = { s with ctx := { s.ctx with fpflg := t.ctx.fpflg, srs := t.ctx.srs } }

/-- Bits of the format of an element type (R270), and its code. -/
def Sys2Proof.Claims.etOf (f : XR) : Nat := f.x.toNat % 4
/-- The rounding mode of a form: M, or FPCTL when M is 7 (R193). -/
def Sys2Proof.Claims.modeOf (s : State) (m : BitVec 3) : Nat := if m = 7 then s.ctx.fpctl.toNat else m.toNat

/-- The W32 floating forms: the exact result and whether it is rounded (R275). -/
def Sys2Proof.Claims.fp32Forms : List ((W32 → Instr) × Bool × (Nat → Nat → Ext → Ext → Nat × BitVec 7)) :=
  [(.vfadd, true, fun mode r a b => deliver fp32 mode r false (Ext.sum (mode == 2) [a, b])),
   (.vfsub, true, fun mode r a b => deliver fp32 mode r false (Ext.sum (mode == 2) [a, b.neg])),
   (.vfmul, true, fun mode r a b => deliver fp32 mode r false (a.mul b)),
   (.vfmin, false, fun _ _ a b => (fp32.enc (minX a b), 0)), (.vfmax, false, fun _ _ a b => (fp32.enc (maxX a b), 0))]
/-- The fused forms: the exact sum that is rounded once (R276). -/
def Sys2Proof.Claims.fusedForms : List ((XR → Instr) × (Bool → Ext → Ext → Ext → Ext × Bool)) :=
  [(.vfma, fun d a b c => fmaX d a b c), (.vfms, fun d a b c => fmaX d a b c.neg), (.vfnma, fun d a b c => fmaX d a.neg b c)]

/-- R273, R275, R276, R277: a floating form rounds, for each active element in ascending order, the exact result of its row
once, in the mode of its M field (FPCTL's for the W32 forms and for M 7), and writes the elements to D. Division and the
greater and lesser stand in vfalu's F field; .sat replaces an infinite result of any of these by the largest finite value, and sets OF. -/
def Sys2Proof.Claims.FloatingForms : Prop :=
  (∀ p ∈ fp32Forms, ∀ (f : W32) (s : State) (tok : Vector (BitVec 4) 8) (a b : Vec) (s1 s2 s3 t : State) (l : List (Nat × Nat)),
    let m := lanesAt (p.1 f) s
    let mode := s.ctx.fpctl.toNat
    Issues (p.1 f) s tok → m ≠ 0 → Gives (rV f.a) (begun (p.1 f) s tok) a s1 → Gives (rV f.b) s1 b s2 →
    Gives (rounded (if p.2.1 then mode else 0) (etLane 0) (fun r e => p.2.2 mode r (etVal 0 a e) (etVal 0 b e)) (etActive 0 m)) s2 l s3 →
    Gives (wV f.d m (etVec 0 l)) s3 () t →
    exec (p.1 f) s = .next (done (p.1 f) s t)) ∧
  (∀ p ∈ fusedForms, ∀ (f : XR) (s : State) (tok : Vector (BitVec 4) 8) (a b c : Vec) (s1 s2 s3 s4 t : State) (l : List (Nat × Nat)),
    let m := etGov (etOf f) (lanesAt (p.1 f) s)
    let mode := modeOf s f.m
    let F := etFmt (etOf f)
    let v := etVal (etOf f)
    Issues (p.1 f) s tok → m ≠ 0 →
    Gives (rV f.a) (begun (p.1 f) s tok) a s1 → Gives (rV f.b) s1 b s2 → Gives (rV f.c) s2 c s3 →
    Gives (rounded mode (etLane (etOf f)) (fun r e => deliver F mode r (f.sa == 1) (p.2 (mode == 2) (v a e) (v b e) (v c e)))
      (etActive (etOf f) m)) s3 l s4 →
    Gives (wV f.d (etMask (etOf f) m) (etVec (etOf f) l)) s4 () t →
    exec (p.1 f) s = .next (done (p.1 f) s t)) ∧
  (∀ (f : XR) (s : State) (tok : Vector (BitVec 4) 8) (a b : Vec) (s1 s2 s3 t : State) (l : List (Nat × Nat)),
    let m := etGov (etOf f) (lanesAt (.vfalu f) s)
    let mode := modeOf s f.m
    let F := etFmt (etOf f)
    let v := etVal (etOf f)
    let ends := fun (y : Ext) => if f.sa = 1 ∧ y.isInf = true then (F.enc (satX F y), flagOF) else (F.enc y, 0)
    let g := fun r e => match f.f.toNat with
      | 0 => deliver F mode r (f.sa == 1) (Ext.sum (mode == 2) [v a e, v b e])
      | 1 => deliver F mode r (f.sa == 1) (Ext.sum (mode == 2) [v a e, (v b e).neg])
      | 3 => divCode F mode r (f.sa == 1) (v a e) (v b e)
      | 4 => ends (minX (v a e) (v b e))
      | 5 => ends (maxX (v a e) (v b e))
      | _ => deliver F mode r (f.sa == 1) ((v a e).mul (v b e))
    Issues (.vfalu f) s tok → m ≠ 0 → Gives (rV f.a) (begun (.vfalu f) s tok) a s1 → Gives (rV f.b) s1 b s2 →
    Gives (rounded (if f.f = 4 ∨ f.f = 5 then 0 else mode) (etLane (etOf f)) g (etActive (etOf f) m)) s2 l s3 →
    Gives (wV f.d (etMask (etOf f) m) (etVec (etOf f) l)) s3 () t →
    exec (.vfalu f) s = .next (done (.vfalu f) s t))

/-- The approximation forms by opcode (R279). -/
def Sys2Proof.Claims.approxForms : List ((XR → Instr) × Nat) :=
  [(.vfrcp, 0x84), (.vfrsq, 0x85), (.vfexp2, 0x87), (.vflog2, 0x88), (.vfsin, 0x89), (.vfcos, 0x8A)]

/-- R278, R279, R280: vfsqrt rounds the square root of each active element once; the six approximation forms write for each
active element a result of their table, without a generator step. -/
def Sys2Proof.Claims.RootsAndApproximations : Prop :=
  (∀ (f : XR) (s : State) (tok : Vector (BitVec 4) 8) (a : Vec) (s1 s2 t : State) (l : List (Nat × Nat)),
    let m := etGov (etOf f) (lanesAt (.vfsqrt f) s)
    Issues (.vfsqrt f) s tok → m ≠ 0 → Gives (rV f.a) (begun (.vfsqrt f) s tok) a s1 →
    Gives (rounded (modeOf s f.m) (etLane (etOf f)) (fun r e => sqrtCode (etFmt (etOf f)) (modeOf s f.m) r (etVal (etOf f) a e))
      (etActive (etOf f) m)) s1 l s2 →
    Gives (wV f.d (etMask (etOf f) m) (etVec (etOf f) l)) s2 () t →
    exec (.vfsqrt f) s = .next (done (.vfsqrt f) s t)) ∧
  (∀ p ∈ approxForms, ∀ (f : XR) (s : State) (tok : Vector (BitVec 4) 8) (a : Vec) (s1 s2 t : State) (l : List (Nat × Nat)),
    let m := etGov (etOf f) (lanesAt (p.1 f) s)
    Issues (p.1 f) s tok → m ≠ 0 → Gives (rV f.a) (begun (p.1 f) s tok) a s1 →
    Gives (rounded 0 (etLane (etOf f)) (fun _ e => approxCode p.2 (etFmt (etOf f)) (etGet (etOf f) a e)) (etActive (etOf f) m)) s1 l s2 →
    Gives (wV f.d (etMask (etOf f) m) (etVec (etOf f) l)) s2 () t →
    exec (p.1 f) s = .next (done (p.1 f) s t))

/-- The floating formats that hold values of other formats exactly (R154). -/
def Sys2Proof.Claims.floatFormats : List Fmt := [fp64, fp32, fp16, bf16, e4m3, e5m2, e3m2, e2m3, e2m1]

/-- R154, R156, R164, R166: in every floating format a code that is no NaN is the code of its own value, and a value that the
format holds is delivered unchanged, with no flag, in every rounding mode, saturating or not. -/
def Sys2Proof.Claims.FormatsExact : Prop :=
  ∀ F ∈ floatFormats, ∀ c < 2 ^ F.width, F.dec c ≠ .nan →
    F.enc (F.dec c) = c ∧
    ∀ (mode rnd : Nat) (sat : Bool), mode ≤ 4 → rnd < 2 ^ 32 → (sat = false ∨ (F.dec c).isFin = true) →
      convert F mode rnd sat (F.dec c) = (c, 0)

/-- The value of a finite extended number, as a rational. -/
def Sys2Proof.Claims.ratOf : Ext → Rat
  | .fin n m e => (if n then -1 else 1) * (m : Rat) * (2 : Rat) ^ e
  | _ => 0

/-- The distance of two rationals. -/
def Sys2Proof.Claims.distOf (a b : Rat) : Rat := if a ≤ b then b - a else a - b

/-- R163, R164: the result of rounding a finite value into a format that can tell an overflow, when it is finite: in RNE no value that the format holds lies nearer; in
RTZ it lies between 0 and the value, in RDN at or below it and in RUP at or above it, and no value of the format lies between
the two. -/
def Sys2Proof.Claims.RoundingIsCorrect : Prop :=
  ∀ F ∈ [fp64, fp32, fp16, bf16, e4m3, e5m2], ∀ (neg : Bool) (m : Nat) (e : Int) (mode : Nat), mode ≤ 3 →
    let x := ratOf (.fin neg m e)
    let r := F.dec (convert F mode 0 false (.fin neg m e)).1
    let y := ratOf r
    r.isFin = true →
    (mode = 0 → ∀ c < 2 ^ F.width, (F.dec c).isFin = true → distOf y x ≤ distOf (ratOf (F.dec c)) x) ∧
    (mode = 1 → distOf y 0 ≤ distOf x 0 ∧ 0 ≤ x * y ∧ ∀ c < 2 ^ F.width, (F.dec c).isFin = true → distOf (ratOf (F.dec c)) 0 ≤ distOf x 0 → distOf (ratOf (F.dec c)) 0 ≤ distOf y 0) ∧
    (mode = 2 → y ≤ x ∧ ∀ c < 2 ^ F.width, (F.dec c).isFin = true → ratOf (F.dec c) ≤ x → ratOf (F.dec c) ≤ y) ∧
    (mode = 3 → x ≤ y ∧ ∀ c < 2 ^ F.width, (F.dec c).isFin = true → x ≤ ratOf (F.dec c) → y ≤ ratOf (F.dec c))

/-- R281: vcmp and vfcmp write to the bits of the active lanes of their predicate whether the condition of F holds, and keep
the other bits; vsel takes each active lane from A or B by C; viota writes A + lane × step. -/
def Sys2Proof.Claims.CompareSelectForms : Prop :=
  (∀ (f : XR) (s : State) (tok : Vector (BitVec 4) 8) (a b : Vec) (old r : Mask) (s1 s2 t : State),
    let m := lanesAt (.vcmp f) s
    let holds := fun (x y : Lane) => match f.f.toNat with
      | 0 => decide (x = y) | 1 => decide (x ≠ y) | 2 => decide (x.toInt < y.toInt) | 3 => decide (x.toInt ≤ y.toInt)
      | 4 => decide (x.toNat < y.toNat) | _ => decide (x.toNat ≤ y.toNat)
    Issues (.vcmp f) s tok → m ≠ 0 → Gives (rV f.a) (begun (.vcmp f) s tok) a s1 → Gives (rV f.b) s1 b s2 → Gives (rP f.d) s2 old s2 →
    (∀ k < 64, r.getLsbD k = if m.getLsbD k then holds (lane a k) (lane b k) else old.getLsbD k) → Gives (wP f.d r) s2 () t →
    exec (.vcmp f) s = .next (done (.vcmp f) s t)) ∧
  (∀ (f : XR) (s : State) (tok : Vector (BitVec 4) 8) (a b : Vec) (old r : Mask) (s1 s2 t : State),
    let et := etOf f
    let g := etGov et (lanesAt (.vfcmp f) s)
    let holds := fun (x y : Ext) => match f.f.toNat with
      | 0 => x.eqv y | 1 => !x.eqv y | 2 => x.lt y | 3 => x.lt y || x.eqv y | _ => x.isNan || y.isNan
    Issues (.vfcmp f) s tok → g ≠ 0 → Gives (rV f.a) (begun (.vfcmp f) s tok) a s1 → Gives (rV f.b) s1 b s2 →
    Gives (rP f.d) s2 old s2 →
    (∀ k < 64, r.getLsbD k = if (etMask et g).getLsbD k then
        holds (etVal et a (if et = 3 then k / 2 else k)) (etVal et b (if et = 3 then k / 2 else k)) else old.getLsbD k) →
    Gives (wP f.d r) s2 () t →
    exec (.vfcmp f) s = .next (done (.vfcmp f) s t)) ∧
  (∀ (f : XR) (s : State) (tok : Vector (BitVec 4) 8) (a b r : Vec) (c : Mask) (s1 s2 s3 t : State),
    Issues (.vsel f) s tok → lanesAt (.vsel f) s ≠ 0 → Gives (rV f.a) (begun (.vsel f) s tok) a s1 → Gives (rV f.b) s1 b s2 →
    Gives (rP f.c) s2 c s3 → (∀ k < 64, lane r k = if c.getLsbD k then lane a k else lane b k) →
    Gives (wV f.d (lanesAt (.vsel f) s) r) s3 () t →
    exec (.vsel f) s = .next (done (.vsel f) s t)) ∧
  (∀ (f : XR) (s : State) (tok : Vector (BitVec 4) 8) (a : Word) (r : Vec) (s1 t : State),
    Issues (.viota f) s tok → lanesAt (.viota f) s ≠ 0 → Gives (rS f.a) (begun (.viota f) s tok) a s1 →
    (∀ k < 64, lane r k = ofL (a.toNat + k * f.x.toNat : Nat)) → Gives (wV f.d (lanesAt (.viota f) s) r) s1 () t →
    exec (.viota f) s = .next (done (.viota f) s t))

/-- Element k of a register of w-bit elements. -/
def Sys2Proof.Claims.elem {n : Nat} (w : Nat) (v : BitVec n) (k : Nat) : Nat := v.toNat / 2 ^ (w * k) % 2 ^ w

/-- R286, R287: element d of vperm is A[B[d] mod c]; of vperm2 the element of A and A + 1 read as one stream; of vrot
A[(d + k) mod c]; of vtrn the step of a block transpose over groups of G elements. -/
def Sys2Proof.Claims.PermuteForms : Prop :=
  (∀ (f : XR) (s : State) (tok : Vector (BitVec 4) 8) (a b r : Vec) (s1 s2 t : State),
    let w := if f.x.getLsbD 0 then 16 else 32
    Issues (.vperm f) s tok → lanesAt (.vperm f) s ≠ 0 → Gives (rV f.a) (begun (.vperm f) s tok) a s1 → Gives (rV f.b) s1 b s2 →
    (∀ d < 2048 / w, elem w r d = elem w a (elem w b d % (2048 / w))) → Gives (wV f.d (lanesAt (.vperm f) s) r) s2 () t →
    exec (.vperm f) s = .next (done (.vperm f) s t)) ∧
  (∀ (f : XR) (s : State) (tok : Vector (BitVec 4) 8) (b r : Vec) (s2 t : State),
    let w := if f.x.getLsbD 0 then 16 else 32
    let g := fun k => if k < 2048 / w then elem w (s.vReg f.a.toNat) k else elem w (s.vReg (f.a.toNat + 1)) (k - 2048 / w)
    Issues (.vperm2 f) s tok → lanesAt (.vperm2 f) s ≠ 0 → Gives (rV f.b) (begun (.vperm2 f) s tok) b s2 →
    (∀ d < 2048 / w, elem w r d = g (elem w b d % (4096 / w))) → Gives (wV f.d (lanesAt (.vperm2 f) s) r) s2 () t →
    exec (.vperm2 f) s = .next (done (.vperm2 f) s t)) ∧
  (∀ (f : XR) (s : State) (tok : Vector (BitVec 4) 8) (a r : Vec) (k : Nat) (s1 s2 t : State),
    let w := if f.x.getLsbD 7 then 16 else 32
    Issues (.vrot f) s tok → lanesAt (.vrot f) s ≠ 0 → Gives (rV f.a) (begun (.vrot f) s tok) a s1 →
    ((f.x.getLsbD 8 = true ∧ k = f.x.toNat % 128 ∧ s2 = s1) ∨ (f.x.getLsbD 8 = false ∧ ∃ b, Gives (rS f.b) s1 b s2 ∧ k = b.toNat)) →
    (∀ d < 2048 / w, elem w r d = elem w a ((d + k) % (2048 / w))) → Gives (wV f.d (lanesAt (.vrot f) s) r) s2 () t →
    exec (.vrot f) s = .next (done (.vrot f) s t)) ∧
  (∀ (f : XR) (s : State) (tok : Vector (BitVec 4) 8) (a b r : Vec) (s1 s2 t : State),
    let w := if f.x.getLsbD 3 then 16 else 32
    let g := 2 ^ (f.x.toNat % 8)
    Issues (.vtrn f) s tok → lanesAt (.vtrn f) s ≠ 0 → Gives (rV f.a) (begun (.vtrn f) s tok) a s1 → Gives (rV f.b) s1 b s2 →
    (∀ d < 2048 / w, elem w r d =
      if f.f.getLsbD 0 then (if d / g % 2 = 0 then elem w a (d + g) else elem w b d)
      else (if d / g % 2 = 0 then elem w a d else elem w b (d - g))) →
    Gives (wV f.d (lanesAt (.vtrn f) s) r) s2 () t →
    exec (.vtrn f) s = .next (done (.vtrn f) s t))

/-- R288: vcompress packs the active lanes of A into lanes 0 upwards and keeps the rest of D; vexpand spreads lanes 0 upwards of A
over the active lanes; vext reads one lane to a scalar; vins writes one lane and keeps the others. -/
def Sys2Proof.Claims.LaneMoves : Prop :=
  (∀ (f : XR) (s : State) (tok : Vector (BitVec 4) 8) (a r : Vec) (s1 t : State),
    let act := (List.range 64).filter fun k => (lanesAt (.vcompress f) s).getLsbD k
    Issues (.vcompress f) s tok → lanesAt (.vcompress f) s ≠ 0 → Gives (rV f.a) (begun (.vcompress f) s tok) a s1 →
    (∀ k (h : k < act.length), lane r k = lane a act[k]) → Gives (wV f.d (BitVec.ofNat 64 (2 ^ act.length - 1)) r) s1 () t →
    exec (.vcompress f) s = .next (done (.vcompress f) s t)) ∧
  (∀ (f : XR) (s : State) (tok : Vector (BitVec 4) 8) (a r : Vec) (s1 t : State),
    let act := (List.range 64).filter fun k => (lanesAt (.vexpand f) s).getLsbD k
    Issues (.vexpand f) s tok → lanesAt (.vexpand f) s ≠ 0 → Gives (rV f.a) (begun (.vexpand f) s tok) a s1 →
    (∀ k (h : k < act.length), lane r act[k] = lane a k) → Gives (wV f.d (lanesAt (.vexpand f) s) r) s1 () t →
    exec (.vexpand f) s = .next (done (.vexpand f) s t)) ∧
  (∀ (f : XR) (s : State) (tok : Vector (BitVec 4) 8) (a : Vec) (k : Nat) (s1 s2 t : State),
    Issues (.vext f) s tok → slotAt (.vext f) (begun (.vext f) s tok) = true → Gives (rV f.a) (begun (.vext f) s tok) a s1 →
    ((f.x.getLsbD 6 = true ∧ k = f.x.toNat % 64 ∧ s2 = s1) ∨
      (f.x.getLsbD 6 = false ∧ ∃ b, Gives (rS f.b) s1 b s2 ∧ k = b.toNat % 64)) →
    Gives (wS f.d (ofN (lane a k).toNat)) s2 () t →
    exec (.vext f) s = .next (done (.vext f) s t)) ∧
  (∀ (f : XR) (s : State) (tok : Vector (BitVec 4) 8) (a : Word) (r : Vec) (k : Nat) (s1 s2 t : State),
    Issues (.vins f) s tok → slotAt (.vins f) (begun (.vins f) s tok) = true → Gives (rS f.a) (begun (.vins f) s tok) a s1 →
    ((f.x.getLsbD 6 = true ∧ k = f.x.toNat % 64 ∧ s2 = s1) ∨
      (f.x.getLsbD 6 = false ∧ ∃ b, Gives (rS f.b) s1 b s2 ∧ k = b.toNat % 64)) →
    lane r k = ofL (a.toNat : Nat) → Gives (wV f.d (BitVec.ofNat 64 (2 ^ k)) r) s2 () t →
    exec (.vins f) s = .next (done (.vins f) s t))

/-- What rounds to the parts of a complex result: each part's exact terms with whether a product was ∞ × 0. -/
def Sys2Proof.Claims.roundPart (F : Fmt) (mode : Nat) (sat : Bool) (t : List (Ext × Bool)) (r : Nat) : Nat × BitVec 7 :=
  deliver F mode r sat ((Ext.sum (mode == 2) (t.map (·.1))).1, (Ext.sum (mode == 2) (t.map (·.1))).2 || t.any (·.2))
/-- The terms of w·y, and of its multiples by powers of i. -/
def Sys2Proof.Claims.cterms (w y : Ext × Ext) (k : Nat) : List (Ext × Bool) × List (Ext × Bool) :=
  let n := fun (t : Ext × Bool) => (t.1.neg, t.2)
  let re := [w.1.mul y.1, n (w.2.mul y.2)]
  let im := [w.1.mul y.2, w.2.mul y.1]
  match k % 4 with
  | 0 => (re, im)
  | 1 => (im.map n, re)
  | 2 => (re.map n, im.map n)
  | _ => (im, re.map n)

/-- R178, R289, R290, R291: the butterflies and twmul write to D and D + 1 the real and imaginary parts of their sums, each part
an exact sum of products rounded once, the first register's elements before the second's; twgen writes the twiddles of
k = (A + e·B) mod 2^L, rounded to nearest. -/
def Sys2Proof.Claims.ComplexForms : Prop :=
  (∀ (i : Instr) (f : XR) (s : State) (tok : Vector (BitVec 4) 8) (terms : Nat → List (Ext × Bool) × List (Ext × Bool)) (s1 s2 t : State)
      (re im : List (Nat × Nat)),
    let et := etOf f
    let n := etCount et
    let v := etVal et
    let x := fun e => (v (s.vReg f.a.toNat) e, v (s.vReg (f.a.toNat + 1)) e)
    let w := fun e => (v (s.vReg f.b.toNat) e, if f.x.getLsbD 3 then (v (s.vReg (f.b.toNat + 1)) e).neg else v (s.vReg (f.b.toNat + 1)) e)
    ((i = .bfly2 f ∧ ∀ e, terms e =
        (let j := e % (n / 2)
         let p := cterms (w (j + n / 2)) (x (j + n / 2)) (if e < n / 2 then 0 else 2)
         (((x j).1, false) :: p.1, ((x j).2, false) :: p.2))) ∨
     (i = .bfly4 f ∧ ∀ e, terms e =
        (let j := e % (n / 4)
         let p := fun k => cterms (w (j + k * (n / 4))) (x (j + k * (n / 4)))
           (if f.x.getLsbD 2 then e / (n / 4) * k else 3 * (e / (n / 4)) * k)
         (((x j).1, false) :: ((p 1).1 ++ (p 2).1 ++ (p 3).1), ((x j).2, false) :: ((p 1).2 ++ (p 2).2 ++ (p 3).2)))) ∨
     (i = .twmul f ∧ ∀ e, terms e = cterms (w e) (x e) 0)) →
    Issues i s tok → lanesAt i s ≠ 0 →
    let mode := modeOf s f.m
    Gives (rounded mode (etLane et) (fun r e => roundPart (etFmt et) mode (f.sa == 1) (terms e).1 r) (etActive et (lanesAt i s)))
      (begun i s tok) re s1 →
    Gives (rounded mode (etLane et) (fun r e => roundPart (etFmt et) mode (f.sa == 1) (terms e).2 r) (etActive et (lanesAt i s))) s1 im s2 →
    Gives (wVGroup f.d (etMask et (lanesAt i s)) [etVec et re, etVec et im]) s2 () t →
    exec i s = .next (done i s t)) ∧
  (∀ (f : XR) (s : State) (tok : Vector (BitVec 4) 8) (a b : Word) (s1 s2 s3 s4 t : State) (re im : List (Nat × Nat)),
    let et := etOf f
    let l := f.x.toNat / 4 % 32
    let k := fun e => (a.toNat + e * b.toNat) % 2 ^ l
    Issues (.twgen f) s tok → lanesAt (.twgen f) s ≠ 0 → Gives (rS f.a) (begun (.twgen f) s tok) a s1 → Gives (rS f.b) s1 b s2 →
    Gives (rounded 0 (etLane et) (fun _ e => (twiddle (etFmt et) l (k e)).1) (etActive et (lanesAt (.twgen f) s))) s2 re s3 →
    Gives (rounded 0 (etLane et) (fun _ e => (twiddle (etFmt et) l (k e)).2) (etActive et (lanesAt (.twgen f) s))) s3 im s4 →
    Gives (wVGroup f.d (lanesAt (.twgen f) s) [etVec et re, etVec et im]) s4 () t →
    exec (.twgen f) s = .next (done (.twgen f) s t))

/-- R292: an integer reduction folds the extended active lanes, lowest first, into B; a floating one takes the exact sum, or the
lesser or greater, of the seed in B and the active elements, and rounds it once (under SR with lane 0's draw). -/
def Sys2Proof.Claims.Reductions : Prop :=
  (∀ p ∈ ([(.vredadd, fun _ a b => ofI (a.toInt + b.toInt)),
           (.vredmin, fun n a b => if n then ofN (min a.toNat b.toNat) else ofI (min a.toInt b.toInt)),
           (.vredmax, fun n a b => if n then ofN (max a.toNat b.toNat) else ofI (max a.toInt b.toInt))] :
           List ((XR → Instr) × (Bool → Word → Word → Word))),
    ∀ (f : XR) (s : State) (tok : Vector (BitVec 4) 8) (a : Vec) (b : Word) (s1 s2 t : State),
    let act := (List.range 64).filter fun k => (lanesAt (p.1 f) s).getLsbD k
    let x := fun k => if f.f.getLsbD 0 then ofN (lane a k).toNat else ofI (lane a k).toInt
    Issues (p.1 f) s tok → lanesAt (p.1 f) s ≠ 0 → Gives (rV f.a) (begun (p.1 f) s tok) a s1 → Gives (rS f.b) s1 b s2 →
    Gives (wS f.d (act.foldl (fun acc k => p.2 (f.f.getLsbD 0) acc (x k)) b)) s2 () t →
    exec (p.1 f) s = .next (done (p.1 f) s t)) ∧
  (∀ (i : Instr) (f : XR) (s : State) (tok : Vector (BitVec 4) 8) (a : Vec) (b : Word) (r : Nat) (c : Nat × BitVec 7) (s1 s2 s3 t : State),
    let et := etOf f
    let F := etFmt et
    let m := etGov et (lanesAt i s)
    let seed := F.dec (b.toNat % 2 ^ F.width)
    let xs := (etActive et m).map fun e => etVal et a e
    let mode := modeOf s f.m
    ((i = .vfredadd f ∧ Gives (draw mode 0) s2 r s3 ∧ c = deliver F mode r (f.sa == 1) (Ext.sum (mode == 2) (seed :: xs))) ∨
     (i = .vfredmin f ∧ s3 = s2 ∧ c = (F.enc (xs.foldl minX seed), 0)) ∨
     (i = .vfredmax f ∧ s3 = s2 ∧ c = (F.enc (xs.foldl maxX seed), 0))) →
    Issues i s tok → m ≠ 0 → Gives (rV f.a) (begun i s tok) a s1 → Gives (rS f.b) s1 b s2 →
    Gives (wS f.d (ofN c.1)) (s3.modCtx fun x => { x with fpflg := x.fpflg ||| c.2 }) () t →
    exec i s = .next (done i s t))

/-- R282, R283, R166: vcvt and vcvti convert, for each active lane that takes part, in ascending order, the code that its source
format, .unpk and .hi give it, rounded once in the mode of M, saturating under SA; each result fills its field of D and every
other bit of D stays. With active lanes of which none takes part, the queue operands move all the same, a queue D with zeros (R44,
R270); between FP64 registers the even lanes govern, as under ET 3. -/
def Sys2Proof.Claims.ConversionForms : Prop :=
  ∀ (i : Instr) (f : XR) (s : State) (tok : Vector (BitVec 4) 8) (a : Vec) (s1 s2 t : State) (l : List (Nat × Nat)), (i = .vcvt f ∨ i = .vcvti f) →
    let k := cvtOf f
    let mode := modeOf s f.m
    let m := if k.src = fp64 ∧ k.dst = fp64 then etGov 3 (lanesAt i s) else lanesAt i s
    let ls := (List.range 64).filter fun l => m.getLsbD l && (k.source a l).isSome
    Issues i s tok → m ≠ 0 → Gives (rV f.a) (begun i s tok) a s1 →
    Gives (rounded mode id (fun r l => convert k.dst mode r (f.sa == 1) (k.src.dec ((k.source a l).getD 0))) ls) s1 l s2 →
    (ls = [] → f.d.toNat < 56 → exec i s = .next (done i s s1)) ∧
    (ls = [] → 56 ≤ f.d.toNat → Gives (wV f.d (BitVec.allOnes 64) 0) s1 () t → exec i s = .next (done i s t)) ∧
    (ls ≠ [] → Gives (wV f.d (BitVec.allOnes 64) (l.foldl (fun v x =>
        setFld v (k.field x.1).1 (k.field x.1).2 (if k.pack then x.2 else laneFill k.dst x.2)) (s2.vOld f.d))) s2 () t →
      exec i s = .next (done i s t))

/-- R284, R155: vcvtb decodes, for the active lanes, the records of the blocks that its lanes stand in; without .dec it encodes one
record for each block of 32 lanes with an active lane, inactive lanes counting as +0, into the record's place in D. -/
def Sys2Proof.Claims.BlockConversion : Prop :=
  ∀ (f : XR) (s : State) (tok : Vector (BitVec 4) 8) (a : Vec) (s1 s2 s3 t : State) (l : List (Nat × Nat)),
    let c := f.f.toNat
    let n := 8 * recBytes c
    let mode := modeOf s f.m
    let m := lanesAt (.vcvtb f) s
    Issues (.vcvtb f) s tok → m ≠ 0 → Gives (rV f.a) (begun (.vcvtb f) s tok) a s1 →
    (f.x.getLsbD 0 = true → Gives (Eff.each (blocksOf m) fun b => setFlags (scaleFlags c (fld a (n * b) 8))) s1 () s2 →
      Gives (rounded mode id (fun r k => convert fp32 mode r (f.sa == 1) ((decRecord c 0 (fld a (n * (k / 32)) n)).getD (k % 32) .zero))
        ((List.range 64).filter fun k => m.getLsbD k)) s2 l s3 →
      Gives (wV f.d m (etVec 0 l)) s3 () t → exec (.vcvtb f) s = .next (done (.vcvtb f) s t)) ∧
    (f.x.getLsbD 0 = false → Gives (encodeBlocks f m a mode) s1 l s2 →
      Gives (wV f.d (BitVec.allOnes 64) (l.foldl (fun v x => setFld v (n * x.1) n x.2) (s2.vOld f.d))) s2 () t →
      exec (.vcvtb f) s = .next (done (.vcvtb f) s t))

/-! ## The sort network (spec/10 R293 to R299) -/

/-- R295, R297: in an owner with no flush in progress each configuration form leaves the sort state that its row gives, and the
configurations and srtflush clear or keep the pairs as it says; while a flush is in progress each of them waits. -/
def Sys2Proof.Claims.SortConfigurations : Prop :=
  ∀ (f : XR) (s : State) (tok : Vector (BitVec 4) 8) (i : Instr) (g : SortSt → SortSt),
    let cleared := fun (t : SortSt) =>
      { t with held := [], cur := 0, busy := false, frozen := false, ovf := false, err := false, drop := 0, ins := 0 }
    ((i = .srtkey f ∧ g = fun t => { cleared t with
        kt := BitVec.ofNat 2 f.x.toNat, dir := f.x.getLsbD 2, mode := 0, thron := false, dedup := false, capK := 4096, segS := 1 }) ∨
     (i = .srttopk f ∧ g = fun t => { cleared t with mode := 1, capK := f.x.toNat + 1, segS := 1 }) ∨
     (i = .srtseg f ∧ g = fun t => { cleared t with mode := 2, capK := f.x.toNat + 1, segS := f.f.toNat + 1 }) ∨
     (i = .srtdedup f ∧ g = fun t => { t with dedup := f.f.getLsbD 0 }) ∨
     (i = .srtthr f ∧ f.f.getLsbD 0 = true ∧ g = fun t => { t with thron := false }) ∨
     (i = .srtthr f ∧ f.f.getLsbD 0 = false ∧ ∃ a s1, Gives (rS f.a) (begun i s tok) a s1 ∧
        g = fun t => { t with thr := BitVec.ofNat 32 a.toNat, thron := true }) ∨
     (i = .srtflush f ∧ g = fun t => { t with busy := true, frozen := true, cur := 0 }) ∨
     (i = .srtwait f ∧ g = fun t => t)) →
    Issues i s tok → slotAt i (begun i s tok) = true → s.ctx.id.harv = false →
    (s.ctx.srt.busy = true → exec i s = .next (s.blocked s .engine)) ∧
    (s.ctx.srt.busy = false → ∃ u, exec i s = .next u ∧ u.ctx.srt = g s.ctx.srt ∧ OnlyCtx s u ∧ u.ctx.s = s.ctx.s ∧ u.ctx.v = s.ctx.v)

/-- R296: srtld offers the pairs of its active lanes, lowest lane first, and changes no register; C is read in SEG mode alone. -/
def Sys2Proof.Claims.SortLoad : Prop :=
  ∀ (f : XR) (s : State) (tok : Vector (BitVec 4) 8) (a b c : Vec) (s1 s2 s3 : State),
    let act := (List.range 64).filter fun k => (lanesAt (.srtld f) s).getLsbD k
    Issues (.srtld f) s tok → act ≠ [] → s.ctx.id.harv = false → s.ctx.srt.busy = false →
    Gives (rV f.a) (begun (.srtld f) s tok) a s1 → Gives (rV f.b) s1 b s2 → (s.ctx.srt.mode = 2 → Gives (rV f.c) s2 c s3) →
    ∃ u, exec (.srtld f) s = .next u ∧ OnlyCtx s u ∧ u.ctx.v = s.ctx.v ∧ u.ctx.s = s.ctx.s ∧
      u.ctx.srt = act.foldl (fun t k => t.offer (lane a k) (lane b k) (lane c k)) s.ctx.srt

/-- The entries that a list of keys and values makes, with their insertion numbers. -/
def Sys2Proof.Claims.entriesOf (l : List (BitVec 32 × BitVec 32)) : List SortEnt :=
  (l.zip (List.range l.length)).map fun x => { key := x.1.1, val := x.1.2, seg := 0, ins := x.2 }

/-- R293, R294, R296, R297: a top-K network that starts empty, without threshold or duplicate removal, holds after any pairs the
K best of them, of equal keys the earlier ones, in readout order best first. -/
def Sys2Proof.Claims.TopKHoldsBest : Prop :=
  ∀ (t : SortSt) (l : List (BitVec 32 × BitVec 32)), t.held = [] → t.ins = 0 → t.mode = 1 → t.frozen = false → t.thron = false →
    t.dedup = false → 0 < t.capK →
    (l.foldl (fun t x => t.offer x.1 x.2 0) t).ordered = (sortBy t.better (entriesOf l)).take t.capK

/-- R297: srtst gives the next 64 retained pairs, or those that are left, keys to D and values to D + 1, lane 0 first, and the mask
of the lanes it filled to C; without a flush it sets ERR and clears C. SRT_FLUSH_DONE puts the pairs in readout order and ends
the flush. srtstat reads the state. -/
def Sys2Proof.Claims.SortReadout : Prop :=
  (∀ (f : XR) (s : State) (tok : Vector (BitVec 4) 8), Issues (.srtst f) s tok → lanesAt (.srtst f) s ≠ 0 →
    s.ctx.id.harv = false → s.ctx.srt.busy = false → 0 < f.c.toNat → f.c.toNat < 16 → f.d.toNat + 1 < 32 →
    let ps := (s.ctx.srt.held.drop s.ctx.srt.cur).take 64
    ∃ u, exec (.srtst f) s = .next u ∧
      (s.ctx.srt.frozen = false → u.ctx.srt = { s.ctx.srt with err := true } ∧ u.pReg f.c.toNat = 0 ∧ u.ctx.v = s.ctx.v) ∧
      (s.ctx.srt.frozen = true → u.ctx.srt = { s.ctx.srt with cur := s.ctx.srt.cur + ps.length } ∧
        u.pReg f.c.toNat = BitVec.ofNat 64 (2 ^ ps.length - 1) ∧
        ∀ k < 64, lane (u.vReg f.d.toNat) k = (match ps[k]? with | some p => p.key | none => lane (s.vReg f.d.toNat) k) ∧
          lane (u.vReg (f.d.toNat + 1)) k = (match ps[k]? with | some p => p.val | none => lane (s.vReg (f.d.toNat + 1)) k))) ∧
  (∀ s : State, s.ctx.srt.busy = true → ∃ u, exec .srtFlushDone s = .next u ∧ u.ctx.srt.busy = false ∧
    u.ctx.srt.held.Perm s.ctx.srt.held ∧
    u.ctx.srt.held.Pairwise (fun a b => ¬ (b.seg.toNat < a.seg.toNat) ∧ (a.seg = b.seg → s.ctx.srt.better b a = false)) ∧
    OnlyCtx s u ∧ u.ctx.s = s.ctx.s ∧ u.ctx.v = s.ctx.v) ∧
  (∀ (f : XR) (s : State) (tok : Vector (BitVec 4) 8) (t : State), Issues (.srtstat f) s tok →
    slotAt (.srtstat f) (begun (.srtstat f) s tok) = true → s.ctx.id.harv = false →
    s.ctx.srt.held.length < 2 ^ 14 → s.ctx.srt.cur < 2 ^ 14 →
    Gives (wS f.d (ofN (s.ctx.srt.held.length + s.ctx.srt.cur * 2 ^ 14 + s.ctx.srt.busy.toNat * 2 ^ 28 + s.ctx.srt.frozen.toNat * 2 ^ 29 +
      s.ctx.srt.ovf.toNat * 2 ^ 30 + s.ctx.srt.err.toNat * 2 ^ 31 + s.ctx.srt.mode.toNat * 2 ^ 32 + s.ctx.srt.kt.toNat * 2 ^ 34 +
      s.ctx.srt.dir.toNat * 2 ^ 36 + s.ctx.srt.thron.toNat * 2 ^ 37 + s.ctx.srt.dedup.toNat * 2 ^ 38 + s.ctx.srt.drop.toNat * 2 ^ 39)))
      (begun (.srtstat f) s tok) () t →
    exec (.srtstat f) s = .next (done (.srtstat f) s t))

/-- Pair k of a group of two registers. -/
def Sys2Proof.Claims.pairAt (s : State) (r k : Nat) : BitVec 32 × BitVec 32 := (lane (s.vReg r) k, lane (s.vReg (r + 1)) k)

/-- R298, R293: srtsort writes the pairs of the active lanes of A, stably sorted, best first, to lanes 0 upwards of D and keeps the
rest; srtmrg merges the 64 pairs of A, if they are sorted, with the 64 of B, ties taking A, into four registers. -/
def Sys2Proof.Claims.SortRegisters : Prop :=
  (∀ (f : XR) (s : State) (tok : Vector (BitVec 4) 8), Issues (.srtsort f) s tok → lanesAt (.srtsort f) s ≠ 0 →
    s.ctx.id.harv = false → f.d.toNat + 1 < 32 →
    let src := ((List.range 64).filter fun k => (lanesAt (.srtsort f) s).getLsbD k).map (pairAt s f.a.toNat)
    ∃ (u : State) (ps : List (BitVec 32 × BitVec 32)), exec (.srtsort f) s = .next u ∧ OnlyCtx s u ∧ ps.Perm src ∧
      ps.Pairwise (fun a b => s.ctx.srt.keyBetter b.1 a.1 = false) ∧
      (∀ k, ps.filter (fun x => x.1 == k) = src.filter fun x => x.1 == k) ∧
      ∀ k < 64, pairAt u f.d.toNat k = (ps[k]?).getD (pairAt s f.d.toNat k)) ∧
  (∀ (f : XR) (s : State) (tok : Vector (BitVec 4) 8), Issues (.srtmrg f) s tok →
    slotAt (.srtmrg f) (begun (.srtmrg f) s tok) = true → s.ctx.id.harv = false → f.d.toNat + 3 < 32 →
    let as := (List.range 64).map (pairAt s f.a.toNat)
    let bs := (List.range 64).map (pairAt s f.b.toNat)
    let ok := fun (l : List (BitVec 32 × BitVec 32)) => l.Pairwise fun a b => s.ctx.srt.keyBetter b.1 a.1 = false
    ∃ (u : State) (ps : List (BitVec 32 × BitVec 32)), exec (.srtmrg f) s = .next u ∧ OnlyCtx s u ∧ ps.Perm (as ++ bs) ∧ (ok as → ok bs → ok ps ∧
        ∀ k, ps.filter (fun x => x.1 == k) = (as ++ bs).filter fun x => x.1 == k) ∧
      ∀ k < 64, some (pairAt u f.d.toNat k) = ps[k]? ∧ some (pairAt u (f.d.toNat + 2) k) = ps[64 + k]?)

/-! ## Capabilities, control registers, discovery, lending (spec/09 R255, R256, R266 to R269) -/

/-- One reference fewer on a registry entry (R81, R82): the change to 0 frees the buffer, and its generation rises or it is
retired. -/
def Sys2Proof.Claims.dropped (e : RegEnt) : RegEnt :=
  if 1 < e.refcnt.toNat then { e with refcnt := e.refcnt - 1 }
  else if e.gen.toNat = 65535 then { e with live := false, retired := true, refcnt := 0, rtref := false }
  else { e with live := false, gen := e.gen + 1, refcnt := 0, rtref := false }

/-- The fields of a slot request in A and B (R255): SRC, DST, RIGHTS, LIMIT are in order for a source capability. -/
structure Sys2Proof.Claims.GoodRequest (s : State) (a b : Word) (need : Nat) (x : Slot) : Prop where
  source : s.slot (BitVec.ofNat 8 a.toNat) = some x
  fresh : capStale x.cap = false
  right : (capRights x.cap).getLsbD need = true
  rights : ∀ k < 7, a.getLsbD (16 + k) = true → (capRights x.cap).getLsbD k = true
  limit : b.toNat ≤ (capLimit x.cap).toNat
  empty : s.slot (BitVec.ofNat 8 (a.toNat / 256)) = none

/-- The copy that a request forms: the source's name, generation, import bit and peer, with the request's rights and limit. -/
def Sys2Proof.Claims.copyOf (x : Slot) (a b : Word) : Slot :=
  { cap := mkCap (capName x.cap) (capGen x.cap) (BitVec.ofNat 7 (a.toNat / 2 ^ 16)) (capImp x.cap) false (BitVec.ofNat 52 b.toNat)
      (capPeer x.cap), tmpl := false, inst := true }

/-- R255, R80 to R82: capshr puts a copy with the request's rights and limit into DST and counts it; capxfr moves it, leaving SRC
empty and the count as it is; capdrop empties a slot and drops its reference, freeing the buffer with the last; capnar narrows in
place; caprd reads half a slot, 0 of an empty one. No other slot and no byte changes. -/
def Sys2Proof.Claims.CapabilityForms : Prop :=
  (∀ (f : XR) (s : State) (tok : Vector (BitVec 4) 8) (a b : Word) (s1 s2 : State) (x : Slot) (e : RegEnt),
    Issues (.capshr f) s tok → slotAt (.capshr f) (begun (.capshr f) s tok) = true → s.ctx.id.harv = false → Canon s →
    Gives (rS f.a) (begun (.capshr f) s tok) a s1 → Gives (rS f.b) s1 b s2 → GoodRequest s a b 3 x → capImp x.cap = false →
    (s.dom s.domOf).regOf (capName x.cap) = some e → e.live = true → e.gen = capGen x.cap → e.refcnt.toNat + 1 < 2 ^ 32 →
    ∃ u, exec (.capshr f) s = .next u ∧ u.slot (BitVec.ofNat 8 (a.toNat / 256)) = some (copyOf x a b) ∧
      (∀ k, k ≠ BitVec.ofNat 8 (a.toNat / 256) → u.slot k = s.slot k) ∧
      (u.dom s.domOf).regOf (capName x.cap) = some { e with refcnt := e.refcnt + 1 } ∧ ∀ p, u.byteAt p = s.byteAt p) ∧
  (∀ (f : XR) (s : State) (tok : Vector (BitVec 4) 8) (a b : Word) (s1 s2 : State) (x : Slot),
    Issues (.capxfr f) s tok → slotAt (.capxfr f) (begun (.capxfr f) s tok) = true → s.ctx.id.harv = false → Canon s →
    Gives (rS f.a) (begun (.capxfr f) s tok) a s1 → Gives (rS f.b) s1 b s2 → GoodRequest s a b 4 x → x.tmpl = false →
    ∃ u, exec (.capxfr f) s = .next u ∧ u.slot (BitVec.ofNat 8 (a.toNat / 256)) = some (copyOf x a b) ∧
      u.slot (BitVec.ofNat 8 a.toNat) = none ∧
      (∀ k, k ≠ BitVec.ofNat 8 (a.toNat / 256) → k ≠ BitVec.ofNat 8 a.toNat → u.slot k = s.slot k) ∧ OnlyCtx s u) ∧
  (∀ (f : XR) (s : State) (tok : Vector (BitVec 4) 8) (x : Slot) (e : RegEnt),
    Issues (.capdrop f) s tok → slotAt (.capdrop f) (begun (.capdrop f) s tok) = true → s.ctx.id.harv = false → Canon s →
    s.slot (BitVec.ofNat 8 f.x.toNat) = some x → x.tmpl = false → capImp x.cap = false →
    (s.dom s.domOf).regOf (capName x.cap) = some e → e.live = true → e.gen = capGen x.cap →
    ∃ u, exec (.capdrop f) s = .next u ∧ u.slot (BitVec.ofNat 8 f.x.toNat) = none ∧
      (∀ k, k ≠ BitVec.ofNat 8 f.x.toNat → u.slot k = s.slot k) ∧
      (u.dom s.domOf).regOf (capName x.cap) = some (if capStale x.cap then e else dropped e) ∧ ∀ p, u.byteAt p = s.byteAt p) ∧
  (∀ (f : XR) (s : State) (tok : Vector (BitVec 4) 8) (a b : Word) (s1 s2 : State) (x : Slot),
    let k : BitVec 8 := BitVec.ofNat 8 f.x.toNat
    Issues (.capnar f) s tok → slotAt (.capnar f) (begun (.capnar f) s tok) = true → s.ctx.id.harv = false → Canon s →
    Gives (rS f.a) (begun (.capnar f) s tok) a s1 → Gives (rS f.b) s1 b s2 → s.slot k = some x → capStale x.cap = false →
    (∀ j < 7, a.getLsbD j = true → (capRights x.cap).getLsbD j = true) → b.toNat ≤ (capLimit x.cap).toNat →
    ∃ u y, exec (.capnar f) s = .next u ∧ u.slot k = some y ∧ capName y.cap = capName x.cap ∧ capGen y.cap = capGen x.cap ∧
      capRights y.cap = BitVec.ofNat 7 a.toNat ∧ (capLimit y.cap).toNat = b.toNat ∧ capImp y.cap = capImp x.cap ∧
      capPeer y.cap = capPeer x.cap ∧ (∀ j, j ≠ k → u.slot j = s.slot j) ∧ OnlyCtx s u) ∧
  (∀ (f : XR) (s : State) (tok : Vector (BitVec 4) 8) (t : State),
    let c : Nat := match s.slot (BitVec.ofNat 8 f.x.toNat) with | some x => x.cap.toNat | none => 0
    Issues (.caprd f) s tok → slotAt (.caprd f) (begun (.caprd f) s tok) = true →
    Gives (wS f.d (ofN (if f.f.getLsbD 0 then c / 2 ^ 64 else c))) (begun (.caprd f) s tok) () t →
    exec (.caprd f) s = .next (done (.caprd f) s t))

/-- R256, R80, R81: capexp records an export of a local capability with XP under a fresh key, counts it, and writes its token to
the group of D; capimp loads a token's capability, imported and without XP, into an empty slot when its exporting home, which is
another package, accepts it (that answer is a free value), and raises CAPF cause 0x7 when it does not. -/
def Sys2Proof.Claims.ExportImport : Prop :=
  (∀ (f : XR) (s : State) (tok : Vector (BitVec 4) 8) (x : Slot) (e : RegEnt),
    Issues (.capexp f) s tok → slotAt (.capexp f) (begun (.capexp f) s tok) = true → s.ctx.id.harv = false →
    s.slot (BitVec.ofNat 8 f.x.toNat) = some x → capImp x.cap = false → capStale x.cap = false →
    (capRights x.cap).getLsbD 6 = true → (s.dom s.domOf).regOf (capName x.cap) = some e → e.live = true →
    e.gen = capGen x.cap → e.refcnt.toNat + 1 < 2 ^ 32 → f.d.toNat + 2 < 32 →
    ∃ u, exec (.capexp f) s = .next u ∧ u.nextKey = s.nextKey + 1 ∧
      (∃ k : ExportRec, (u.dom s.domOf).exps = (s.dom s.domOf).exps ++ [k] ∧ k.key = s.nextKey ∧ k.name = capName x.cap ∧
        k.gen = capGen x.cap ∧ k.rights.toNat = (capRights x.cap).toNat % 64 ∧ k.limit = capLimit x.cap ∧ k.used = false) ∧
      (u.dom s.domOf).regOf (capName x.cap) = some { e with refcnt := e.refcnt + 1 } ∧
      vget u.ctx.s f.d.toNat = ofN ((capName x.cap).toNat + (capGen x.cap).toNat * 2 ^ 32 + (capRights x.cap).toNat % 64 * 2 ^ 48) ∧
      vget u.ctx.s (f.d.toNat + 1) = ofN ((capLimit x.cap).toNat + s.pkg.pkgno.toNat * 2 ^ 52) ∧
      vget u.ctx.s (f.d.toNat + 2) = s.nextKey) ∧
  (∀ (f : XR) (s : State) (tok : Vector (BitVec 4) 8),
    let w := fun k => vget s.ctx.s (f.a.toNat + k)
    let k : BitVec 8 := BitVec.ofNat 8 f.x.toNat
    let own := (w 1).toNat / 2 ^ 52 = s.pkg.pkgno.toNat
    Issues (.capimp f) s tok → slotAt (.capimp f) (begun (.capimp f) s tok) = true → s.ctx.id.harv = false → s.slot k = none →
    (own → exec (.capimp f) s = .next (s.raise (capfSlot 7 k.toNat))) ∧
    (¬ own → ∃ u, exec (.capimp f) s = .next u ∧ if Config.freeBool s.fresh = true then u = s.raise (capfSlot 7 k.toNat) else
      (∃ y, u.slot k = some y ∧ y.tmpl = false ∧ y.inst = true ∧ capName y.cap = BitVec.ofNat 32 (w 0).toNat ∧
        capGen y.cap = BitVec.ofNat 16 ((w 0).toNat / 2 ^ 32) ∧ (capRights y.cap).toNat = (w 0).toNat / 2 ^ 48 % 64 ∧
        capImp y.cap = true ∧ capStale y.cap = false ∧ capLimit y.cap = BitVec.ofNat 52 (w 1).toNat ∧
        capPeer y.cap = BitVec.ofNat 12 ((w 1).toNat / 2 ^ 52)) ∧ ∀ j, j ≠ k → u.slot j = s.slot j))

/-- R268, R269, R32, R41, R46, R93, R163, R172, R180, R182: what crr reads: the control registers of the context, its sequencer and
its core, each at its number, and a write of a writable one leaves there what was written, FPFLG and ENGFLG losing the bits
written as 1, CESR never 0 (while an earlier copy converts an access to it waits, R172), FPCTL and SPFMT as they were when a reserved value is written. A write of a read-only register changes
nothing. -/
def Sys2Proof.Claims.ControlRegisters : Prop :=
  (∀ (f : XR) (s : State) (tok : Vector (BitVec 4) 8) (r : Word) (t : State),
    let n := f.x.toNat
    Issues (.crr f) s tok → slotAt (.crr f) (begun (.crr f) s tok) = true → (n = 7 → s.converting = false) →
    ((n = 0 ∧ r = ofN (s.ctx.id.loc.sock.toNat + s.ctx.id.loc.core.toNat * 2 ^ 6 + s.ctx.id.loc.part.toNat * 2 ^ 10 +
        s.ctx.id.harv.toNat * 2 ^ 13 + s.ctx.bnd.stage.toNat * 2 ^ 16 + s.ctx.bnd.job.toNat * 2 ^ 32)) ∨
     (n = 1 ∧ ∀ k : Fin 8, r.toNat / 2 ^ (4 * k.val) % 16 = (tok.get k).toNat ∧ r.toNat < 2 ^ 32) ∨
     (n = 2 ∧ r = s.ctx.qocc) ∨
     (n = 3 ∧ r = ofN (s.sq.vrb.toNat + s.sq.prb.toNat * 16)) ∨ (n = 4 ∧ r = ofN s.ctx.fpctl.toNat) ∨
     (n = 5 ∧ r = ofN s.ctx.fpflg.toNat) ∨ (n = 6 ∧ r = ofN s.ctx.engflg.toNat) ∨ (n = 7 ∧ r = ofN s.ctx.cesr.toNat) ∨
     (n = 8 ∧ r.toNat % 2 ^ 40 = s.ctx.pend.toNat ∧ r = s.ctx.pendb) ∨
     (n = 9 ∧ r = if s.ctx.id.harv then 0 else ofN (s.part.lent.toNat + (if s.part.lease = .vacant then 0 else 2 ^ 16) +
        (if s.part.lease = .held then 2 ^ 17 else 0) + s.part.scrub.toNat * 2 ^ 32)) ∨
     (n = 10 ∧ r = ofN ((s.dom s.domOf).waken + s.pkg.pkgno.toNat * 2 ^ 32)) ∨
     (0x100 ≤ n ∧ n < 0x140 ∧ r = ofN (s.core.spfmt.get (Fin.ofNat 64 n)).toNat) ∨
     (0x140 ≤ n ∧ n < 0x160 ∧ r = (s.core.cbd.get (Fin.ofNat 32 n)).word) ∨
     (0x160 ≤ n ∧ n < 0x180 ∧ r = (s.core.cbd.get (Fin.ofNat 32 n)).state)) →
    Gives (wS f.d r) (begun (.crr f) s tok) () t →
    exec (.crr f) s = .next (done (.crr f) s t)) ∧
  (∀ (f : XR) (s : State) (tok : Vector (BitVec 4) 8), f.x.toNat = 7 → s.converting = true →
    (Issues (.crr f) s tok → slotAt (.crr f) (begun (.crr f) s tok) = true → exec (.crr f) s = .next (s.blocked s .engine)) ∧
    (∀ a s1, Issues (.crw f) s tok → slotAt (.crw f) (begun (.crw f) s tok) = true → Gives (rS f.a) (begun (.crw f) s tok) a s1 →
      s.ctx.id.harv = false → exec (.crw f) s = .next (s.blocked s .engine))) ∧
  (∀ (f : XR) (s : State) (tok : Vector (BitVec 4) 8) (a : Word) (s1 : State),
    let n := f.x.toNat
    Issues (.crw f) s tok → slotAt (.crw f) (begun (.crw f) s tok) = true → s.ctx.id.harv = false → s.converting = false →
    Gives (rS f.a) (begun (.crw f) s tok) a s1 →
    (n < 0x140 ∨ 0x160 ≤ n → ∃ u, exec (.crw f) s = .next u ∧
      (u.ctx.seqs.get s.turn).vrb = (if n = 3 then BitVec.ofNat 4 a.toNat else s.sq.vrb) ∧
      (u.ctx.seqs.get s.turn).prb = (if n = 3 then BitVec.ofNat 3 (a.toNat / 16) else s.sq.prb) ∧
      u.ctx.fpctl = (if n = 4 ∧ a.toNat % 8 < 5 then BitVec.ofNat 3 a.toNat else s.ctx.fpctl) ∧
      u.ctx.fpflg = (if n = 5 then s.ctx.fpflg &&& ~~~(BitVec.ofNat 7 a.toNat) else s.ctx.fpflg) ∧
      u.ctx.engflg = (if n = 6 then s.ctx.engflg &&& ~~~(BitVec.ofNat 7 a.toNat) else s.ctx.engflg) ∧
      u.ctx.cesr = (if n = 7 then (if a.toNat % 2 ^ 32 = 0 then 0x5D2E9A63 else BitVec.ofNat 32 a.toNat) else s.ctx.cesr) ∧
      (∀ b : Fin 64, u.core.spfmt.get b = if n = 0x100 + b.val ∧ a.toNat % 32 < 0x14 ∧ a.toNat / 32 % 8 < 5 then BitVec.ofNat 9 a.toNat
        else s.core.spfmt.get b) ∧
      u.core.cbd = s.core.cbd ∧ u.ctx.pend = s.ctx.pend ∧ u.ctx.q = s1.ctx.q ∧ u.core.parts = s.core.parts ∧
      ∀ p, u.byteAt p = s.byteAt p))

/-- R93, R99, R163, R172, R180, R182: the register writes as operations of the table do what crw does to those registers. -/
def Sys2Proof.Claims.RegisterWriteOperations : Prop :=
  ∀ (s : State) (v : Word),
    (∃ u, exec (.fpctlWrite v) s = .next u ∧ u.ctx.fpctl = (if v.toNat % 8 < 5 then BitVec.ofNat 3 v.toNat else s.ctx.fpctl) ∧ OnlyCtx s u) ∧
    (∀ eng, ∃ u, exec (.fpflgClear eng v) s = .next u ∧ OnlyCtx s u ∧
      u.ctx.fpflg = (if eng then s.ctx.fpflg else s.ctx.fpflg &&& ~~~(BitVec.ofNat 7 v.toNat)) ∧
      u.ctx.engflg = (if eng then s.ctx.engflg &&& ~~~(BitVec.ofNat 7 v.toNat) else s.ctx.engflg)) ∧
    (∀ q, ∃ u, exec (.rotcWrite q v) s = .next u ∧ OnlyCtx s u ∧ (u.ctx.seqs.get q).vrb = BitVec.ofNat 4 v.toNat ∧
      (u.ctx.seqs.get q).prb = BitVec.ofNat 3 (v.toNat / 16) ∧ ∀ r ≠ q, u.ctx.seqs.get r = s.ctx.seqs.get r) ∧
    (s.converting = false → ∃ u, exec (.cesrWrite v) s = .next u ∧ OnlyCtx s u ∧
      u.ctx.cesr = if v.toNat % 2 ^ 32 = 0 then 0x5D2E9A63 else BitVec.ofNat 32 v.toNat) ∧
    (∀ b : BitVec 6, b.toNat < banksOf s.cls → v.toNat % 32 < 0x14 → v.toNat / 32 % 8 < 5 →
      ∃ u, exec (.spfmtWrite b v) s = .next u ∧ u.core.spfmt.get b.toFin = BitVec.ofNat 9 v.toNat ∧
        (∀ c : Fin 64, c ≠ b.toFin → u.core.spfmt.get c = s.core.spfmt.get c) ∧ ∀ p, u.byteAt p = s.byteAt p)

/-- R102 to R104: enabling a disabled descriptor with a legal size, an aligned base and a ring within the kernel's ranges makes
every slot free; a ring beyond them raises ALLOC cause 0x3; disabling one empties its state. An enabled descriptor is not
changed by a write that keeps EN. -/
def Sys2Proof.Claims.DescriptorWrites : Prop :=
  ∀ (s : State) (b : BitVec 5) (v : Word), v.getLsbD 36 = true →
    let c := s.core.cbd.get b.toFin
    (c.en = false → v.toNat / 2 ^ 24 % 16 < 13 → v.toNat % 64 = 0 → s.ringBad v = false → ∃ u d, exec (.cbdEnable b v) s = .next u ∧
      u.core.cbd.get b.toFin = d ∧ d.en = true ∧ d.base.toNat = v.toNat % 2 ^ 24 ∧ d.log2sz.toNat = v.toNat / 2 ^ 24 % 16 ∧
      d.nslotm1.toNat = v.toNat / 2 ^ 28 % 256 ∧ d.free = v.toNat / 2 ^ 28 % 256 + 1 ∧ d.fill = 0 ∧ d.resv = 0 ∧ d.acq = 0 ∧
      d.head = 0 ∧ d.tail = 0 ∧ ∀ k : Fin 32, k ≠ b.toFin → u.core.cbd.get k = s.core.cbd.get k) ∧
    (c.en = false → v.toNat / 2 ^ 24 % 16 < 13 → v.toNat % 64 = 0 → s.ringBad v = true →
      exec (.cbdEnable b v) s = .next (s.raise (alloc 3 0 0))) ∧
    (c.en = true → exec (.cbdEnable b v) s = .next s) ∧
    (∃ u d, exec (.cbdDisable b v) s = .next u ∧ u.core.cbd.get b.toFin = d ∧ d.en = false ∧ d.free = 0 ∧ d.fill = 0 ∧ d.resv = 0 ∧
      d.acq = 0 ∧ ∀ k : Fin 32, k ≠ b.toFin → u.core.cbd.get k = s.core.cbd.get k)

/-- R266, R414, R417: lend adds the ranges named in A, all of which the kernel has declared lendable, to LENT, and the newly lent
ones to those that are being zeroed; reclaim takes named lent ranges back, has them zeroed too, and parks a held lease; when a
zeroing ends, the range reads 0 and its scrub bit is clear. -/
def Sys2Proof.Claims.LendingForms : Prop :=
  (∀ (f : XR) (s : State) (tok : Vector (BitVec 4) 8) (a : Word) (s1 : State), Issues (.lend f) s tok →
    slotAt (.lend f) (begun (.lend f) s tok) = true → s.ctx.id.harv = false → Gives (rS f.a) (begun (.lend f) s tok) a s1 →
    let m : BitVec 16 := BitVec.ofNat 16 a.toNat
    ((s.ctx.bnd.crit = false ∨ 2 ^ s.ctx.bnd.lend.length ≤ m.toNat) →
      exec (.lend f) s = .next (s.raise (fillLease (lease 6 0xFF 0 0) (fmtOf s (shape (.lend f))) 0x7B s.part.lent.toNat))) ∧
    (s.ctx.bnd.crit = true → m.toNat < 2 ^ s.ctx.bnd.lend.length → ∃ u, exec (.lend f) s = .next u ∧
      u.part = { s.part with lent := s.part.lent ||| m, scrub := s.part.scrub ||| (m &&& ~~~s.part.lent) } ∧
      ∀ p, u.byteAt p = s.byteAt p)) ∧
  (∀ (f : XR) (s : State) (tok : Vector (BitVec 4) 8) (a : Word) (s1 : State), Issues (.reclaim f) s tok →
    slotAt (.reclaim f) (begun (.reclaim f) s tok) = true → s.ctx.id.harv = false → Gives (rS f.a) (begun (.reclaim f) s tok) a s1 →
    let m : BitVec 16 := BitVec.ofNat 16 a.toNat
    ∃ u, exec (.reclaim f) s = .next u ∧ u.part.lent = s.part.lent &&& ~~~m ∧ u.part.scrub = s.part.scrub ||| (m &&& s.part.lent) ∧
      u.part.lease = (if s.part.lease = .held then .parked else s.part.lease) ∧ ∀ p, u.byteAt p = s.byteAt p) ∧
  (∀ (s : State) (k : BitVec 4) (r : Range), s.part.scrub.getLsbD k.toNat = true → s.lendRanges[k.toNat]? = some r →
    ∃ u, exec (.scrubDone k) s = .next u ∧ u.part.scrub.getLsbD k.toNat = false ∧
      (∀ j : Nat, j ≠ k.toNat → u.part.scrub.getLsbD j = s.part.scrub.getLsbD j) ∧
      (∀ a, r.lo ≤ a → a < r.lo + r.len → u.byteAt { sp := .spad, a := a } = 0) ∧
      (∀ p : Place, ¬ (p.sp = .spad ∧ r.lo ≤ p.a ∧ p.a < r.lo + r.len) → u.byteAt p = s.byteAt p))

/-! ## Engine queues: posts, tickets, entries (spec/05 R143 to R146, spec/09 R251 to R254, spec/11 R300 to R330) -/

/-- The ticket forms: whether the form waits, its family, its destination and the operand that names the ticket. -/
def Sys2Proof.Claims.ticketForm : Instr → Option (Bool × Family × BitVec 6 × BitVec 6)
  | .mwait f => some (true, .mat, f.d, f.a)
  | .csrwait f => some (true, .spa, f.d, f.a)
  | .xfwait f => some (true, .xf, f.d, f.a)
  | .colwait f => some (true, .col, f.d, f.a)
  | .cpywait f => some (true, .cpy, f.d, f.a)
  | .mstat f => some (false, .mat, f.d, f.a)
  | .csrstat f => some (false, .spa, f.d, f.a)
  | .xfstat f => some (false, .xf, f.d, f.a)
  | .colstat f => some (false, .col, f.d, f.a)
  | .cpystat f => some (false, .cpy, f.d, f.a)
  | _ => none
/-- CODE and POIS of a ticket (R254): 0 for ticket 0, 0xFD for one not issued, 0xFE for one older than the 64 most recent, 0xFF
while its entry is unfinished, else what the entry left. -/
def Sys2Proof.Claims.TicketCode (x : Fam) (t : Word) (code : Nat) (pois : Bool) : Prop :=
  if t = 0 then code = 0 ∧ pois = false
  else if x.last.toNat < t.toNat then code = 0xFD ∧ pois = false
  else if t.toNat + 64 ≤ x.last.toNat then code = 0xFE ∧ pois = false
  else match x.recent.find? fun y => y.tk == t with
    | some y => code = y.code.toNat ∧ pois = y.pois
    | none => pois = false ∧ code = if t ∈ x.pending then 0xFF else 0xFE

/-- R254, R301: a wait form waits while an entry of the family with a ticket up to u(A) is unfinished; it and the status form, which
never waits, write the status word: CODE, POIS, the number of unfinished entries, the number of failed ones. -/
def Sys2Proof.Claims.TicketForms : Prop :=
  ∀ (i : Instr) (s : State) (tok : Vector (BitVec 4) 8) (wait : Bool) (fam : Family) (d a : BitVec 6) (t : Word) (s1 : State),
    ticketForm i = some (wait, fam, d, a) →
    Issues i s tok → slotAt i (begun i s tok) = true → s.ctx.id.harv = false → Gives (rS a) (begun i s tok) t s1 →
    let x := s.ctx.fam fam
    let busy := ∃ p ∈ x.pending, p.toNat ≤ t.toNat
    (wait = true → busy → exec i s = .next (s.blocked s .engine)) ∧
    ((wait = true → ¬busy) → ∀ code pois u, TicketCode x t code pois → x.pending.length < 2 ^ 16 →
      Gives (wS d (ofN (code + 2 ^ 8 * pois.toNat + 2 ^ 16 * x.pending.length + 2 ^ 32 * x.nerr.toNat))) s1 () u →
      exec i s = .next (done i s u))

/-- An entry as it is accepted: not begun, nothing done. -/
def Sys2Proof.Claims.newEntry (num : Nat) (own : CtxId) (tk : Word) (sw ss : Option (BitVec 6)) (body : EngBody) : EngEnt :=
  { num := num, own := own, tk := tk, sw := sw, ss := ss, body := body }
/-- What a post that is accepted leaves (R252, R301, R143): the next ticket, unfinished; one entry more at the end of its queue,
under the next accept number; the ticket in the destination. -/
structure Sys2Proof.Claims.Posted (fam : Family) (q : QId) (d : BitVec 6) (sw ss : Option (BitVec 6)) (body : EngBody) (s s1 u : State) :
    Prop where
  ticket : u.ctx.fam fam = { s.ctx.fam fam with
    last := (s.ctx.fam fam).last + 1, pending := (s.ctx.fam fam).pending ++ [(s.ctx.fam fam).last + 1] }
  queue : u.equeue q = s.equeue q ++
    [newEntry s.accNext s.ctx.id ((s.ctx.fam fam).last + 1) sw ss body]
  number : u.accNext = s.accNext + 1
  dest : ∀ w, Gives (wS d ((s.ctx.fam fam).last + 1)) s1 () w → u.ctx.s = w.ctx.s ∧ u.ctx.o = w.ctx.o
  rest : u.ctx.v = s.ctx.v ∧ u.ctx.p = s.ctx.p ∧ u.ctx.fpflg = s.ctx.fpflg ∧ u.ctx.engflg = s.ctx.engflg

/-- A sound post `i` of an entry, its operands read at `s1`, waits while its queue is full and else is accepted. -/
def Sys2Proof.Claims.Posts (i : Instr) (fam : Family) (q : QId) (d : BitVec 6) (sw ss : Option (BitVec 6)) (body : EngBody)
    (s s1 : State) : Prop :=
  (q.depth ≤ (s.equeue q).length → exec i s = .next (s.blocked s .engine)) ∧
  ((s.equeue q).length < q.depth → (∃ w, Gives (wS d ((s.ctx.fam fam).last + 1)) s1 () w) →
    ∃ u, exec i s = .next u ∧ Posted fam q d sw ss body s s1 u)

/-- A post `i` that is turned away takes its ticket and finishes it with code 0x04, writes it to D and leaves every queue as it
is; one PKTBAD record of cause 0x0A names the family and the ticket (R252, R454). -/
def Sys2Proof.Claims.Rejects (i : Instr) (fam : Family) (d : BitVec 6) (s s1 : State) : Prop :=
  ∀ w, Gives (wS d ((s.ctx.fam fam).last + 1)) s1 () w → (s.ctx.fam fam).last + 1 ≠ 0 →
    ∃ u, exec i s = .next u ∧ (u.ctx.fam fam).last = (s.ctx.fam fam).last + 1 ∧
      (u.ctx.fam fam).code ((s.ctx.fam fam).last + 1) = (4, false) ∧ u.ctx.s = w.ctx.s ∧ u.ctx.o = w.ctx.o ∧
      u.core.copyq = s.core.copyq ∧ u.core.matq = s.core.matq ∧ u.core.gathq = s.core.gathq ∧ u.core.colq = s.core.colq ∧
      u.xfq = s.xfq ∧
      u.doms = (s.pktbad s.ctx (BitVec.ofNat 128 (0x0A + 2 ^ 8 * fam.engine + 2 ^ 64 * ((s.ctx.fam fam).last + 1).toNat))
        (some (s.turn, s.sq.pc)) 0).doms

/-- R305, R307, R311: mnset writes and mnget reads one of the 32 table words; mbase sets BEXA and BEXB, bits [47:32] of word 4; mring
sets the tile ring when every tile of it is declared and otherwise raises ALLOC with cause 0x4; mshadow reads a shadow word. -/
def Sys2Proof.Claims.NestTable : Prop :=
  (∀ (f : XR) (s : State) (tok : Vector (BitVec 4) 8) (a : Word) (s1 : State),
    Issues (.mnset f) s tok → slotAt (.mnset f) (begun (.mnset f) s tok) = true → s.ctx.id.harv = false →
    Gives (rS f.a) (begun (.mnset f) s tok) a s1 →
    ∃ u, exec (.mnset f) s = .next u ∧ u.ctx.s = s.ctx.s ∧ OnlyCtx s u ∧
      ∀ k < 32, vget u.ctx.nest k = if k = f.x.toNat % 32 then a else vget s.ctx.nest k) ∧
  (∀ (f : XR) (s : State) (tok : Vector (BitVec 4) 8) (t : State),
    Issues (.mnget f) s tok → slotAt (.mnget f) (begun (.mnget f) s tok) = true → s.ctx.id.harv = false →
    Gives (wS f.d (vget s.ctx.nest (f.x.toNat % 32))) (begun (.mnget f) s tok) () t →
    exec (.mnget f) s = .next (done (.mnget f) s t)) ∧
  (∀ (f : XR) (s : State) (tok : Vector (BitVec 4) 8) (a : Word) (s1 : State),
    Issues (.mbase f) s tok → slotAt (.mbase f) (begun (.mbase f) s tok) = true → s.ctx.id.harv = false →
    Gives (rS f.a) (begun (.mbase f) s tok) a s1 →
    ∃ u, exec (.mbase f) s = .next u ∧ u.ctx.s = s.ctx.s ∧ OnlyCtx s u ∧
      (∀ k < 64, (vget u.ctx.nest 4).getLsbD k =
        if 32 ≤ k ∧ k < 48 then a.getLsbD (k - 32) else (vget s.ctx.nest 4).getLsbD k) ∧
      ∀ k < 32, k ≠ 4 → vget u.ctx.nest k = vget s.ctx.nest k) ∧
  (∀ (f : XR) (s : State) (tok : Vector (BitVec 4) 8),
    Issues (.mring f) s tok → slotAt (.mring f) (begun (.mring f) s tok) = true → s.ctx.id.harv = false →
    let lo := f.x.toNat % 32
    let n := f.x.toNat / 32 % 32 + 1
    let b := s.ctx.bnd
    (b.tfirst ≤ lo ∧ lo + n ≤ b.tfirst + b.tcount → ∃ u, exec (.mring f) s = .next u ∧ u.ctx.rbase.toNat = lo ∧
      u.ctx.rsize.toNat = n ∧ u.ctx.nest = s.ctx.nest ∧ u.ctx.s = s.ctx.s ∧ OnlyCtx s u) ∧
    (¬(b.tfirst ≤ lo ∧ lo + n ≤ b.tfirst + b.tcount) → exec (.mring f) s = .next (s.raise (alloc 4 0 0)))) ∧
  (∀ (f : XR) (s : State) (tok : Vector (BitVec 4) 8) (t : State),
    Issues (.mshadow f) s tok → slotAt (.mshadow f) (begun (.mshadow f) s tok) = true → s.ctx.id.harv = false →
    (∀ e ∈ s.core.matq ++ s.core.gathq, e.own ≠ s.ctx.id) →
    Gives (wS f.d (vget s.ctx.shadow (f.x.toNat % 4))) (begun (.mshadow f) s tok) () t →
    exec (.mshadow f) s = .next (done (.mshadow f) s t))

/-- R308, R314, R303, R305: mgo posts the nest of the table, mmt and mmts the single step of their operands, with the table and the
bank formats as they stand; a table that R308 rejects is turned away, the footprints and tiles being declared. -/
def Sys2Proof.Claims.ProductPosts : Prop :=
  (∀ (f : XE) (s : State) (tok : Vector (BitVec 4) 8),
    let b := begun (.mgo f) s tok
    let tbl := s.ctx.nest
    let oa := (vget tbl 0).toNat % 2 ^ 24
    let ob := (vget tbl 0).toNat / 2 ^ 24 % 2 ^ 24
    let fa := s.core.fmtOf s.cls oa
    let fb := s.core.fmtOf s.cls ob
    let spans := nestSpans (nestHdr tbl) (nestLvls tbl) oa ob ((vget tbl 0).getLsbD 54) fa fb
    Issues (.mgo f) s tok → slotAt (.mgo f) b = true → s.ctx.id.harv = false → s.ctx.bnd.strict = false →
    Gives (checkSpans spans) b () b → Gives (checkTiles s.ctx.rbase.toNat s.ctx.rsize.toNat) b () b →
    if nestBad tbl || stepBad s.cls s.core tbl (nestLvls tbl) fa fb spans then Rejects (.mgo f) .mat f.d s b
    else Posts (.mgo f) .mat .mat f.d (if f.swe = 1 then some f.sw else none) (if f.sse = 1 then some f.ss else none)
      (.nest tbl s.ctx.rbase.toNat s.ctx.rsize.toNat (BitVec.ofNat 5 fa) (BitVec.ofNat 5 fb)) s b) ∧
  (∀ (i : Instr) (f : XR) (s : State) (tok : Vector (BitVec 4) 8) (b c : Word) (t : Nat) (s1 s2 : State),
    (i = .mmt f ∧ t = f.a.toNat ∨ i = .mmts f ∧
      t = s.ctx.rbase.toNat + (vget s.ctx.seqs.ex.lc (f.x.toNat / 4 % 4)).toNat % s.ctx.rsize.toNat) →
    let tbl := s.ctx.nest
    let oa := b.toNat % 2 ^ 24
    let ob := b.toNat / 2 ^ 24 % 2 ^ 24
    let fa := s.core.fmtOf s.cls oa
    let fb := s.core.fmtOf s.cls ob
    let spans := nestSpans (nestHdr tbl) [] oa ob (f.x.getLsbD 1) fa fb
    Issues i s tok → slotAt i (begun i s tok) = true → s.ctx.id.harv = false → s.ctx.bnd.strict = false →
    Gives (rS f.b) (begun i s tok) b s1 → Gives (rS f.c) s1 c s2 →
    Gives (checkSpans spans) s2 () s2 → Gives (checkTiles t 1) s2 () s2 →
    if stepBad s.cls s.core tbl [] fa fb spans then Rejects i .mat f.d s s2
    else Posts i .mat .mat f.d none none (.step t tbl oa ob (BitVec.ofNat 8 c.toNat) (BitVec.ofNat 8 (c.toNat / 256))
      (f.x.getLsbD 0) (f.x.getLsbD 1) (BitVec.ofNat 5 fa) (BitVec.ofNat 5 fb)) s s2)

/-- The rejections of R308 that the table alone shows: no level or a seventh, a count of 0, a reserved bit. -/
def Sys2Proof.Claims.NestRejected : Prop :=
  ∀ tbl : Vector Word 32, let n := (vget tbl 0).toNat / 2 ^ 55 % 8
    (nestBad tbl = true ↔ n = 0 ∨ n = 7 ∨ 2 ^ 58 ≤ (vget tbl 0).toNat ∨ ∃ l < n, l < 6 ∧
      ((vget tbl (8 + 4 * l)).toNat % 2 ^ 16 = 0 ∨ 2 ^ 22 ≤ (vget tbl (8 + 4 * l)).toNat ∨ vget tbl (11 + 4 * l) ≠ 0))

/-- The rounding of a tile form: M, or FPCTL.RM under M = 7 (R313). -/
def Sys2Proof.Claims.tileRm (s : State) (m : BitVec 3) : BitVec 3 := if m = 7 then s.ctx.fpctl else m

/-- R313, R315: each tile form and mscl posts its entry when what it names is declared; a rounding form under SR, a count of 0 and
words past the scale memory are turned away; macz of a tile that is not declared raises ALLOC with cause 0x4. -/
def Sys2Proof.Claims.TilePosts : Prop :=
  (∀ (f : XR) (s : State) (tok : Vector (BitVec 4) 8),
    let b := begun (.macz f) s tok
    let in_ := s.ctx.bnd.tfirst ≤ f.a.toNat ∧ f.a.toNat < s.ctx.bnd.tfirst + s.ctx.bnd.tcount
    Issues (.macz f) s tok → slotAt (.macz f) b = true → s.ctx.id.harv = false →
    (in_ → Posts (.macz f) .mat .mat f.d none none (.macz f.a.toNat) s b) ∧
    (¬in_ → exec (.macz f) s = .next (s.raise (alloc 4 0 0)))) ∧
  (∀ (i : Instr) (f : XR) (s : State) (tok : Vector (BitVec 4) 8) (b c : Word) (s1 s2 : State) (bytes : Nat) (round : Bool)
    (body : Nat → Nat → EngBody),
    (i = .macld f ∧ bytes = 128 * elemBits f.f.toNat / 8 ∧ round = false ∧ body = (fun o st => .macld f.a.toNat o st f.f) ∨
     i = .macst f ∧ bytes = 128 * elemBits f.f.toNat / 8 ∧ round = true ∧
       body = (fun o st => .macst f.a.toNat o st f.f (tileRm s f.m) (f.sa == 1)) ∨
     i = .maccvt f ∧ bytes = 4 * recBytes f.f.toNat ∧ round = true ∧
       body = (fun o st => .maccvt f.a.toNat o st f.f (tileRm s f.m) (f.sa == 1))) →
    let o : Nat := b.toNat % 2 ^ 24
    let st : Nat := c.toNat % 2 ^ 24
    Issues i s tok → slotAt i (begun i s tok) = true → s.ctx.id.harv = false →
    Gives (rS f.b) (begun i s tok) b s1 → Gives (rS f.c) s1 c s2 →
    Gives (checkSpans [operandSpan (o, o) st (tileRows s.cls - 1) bytes]) s2 () s2 → Gives (checkTiles f.a.toNat 1) s2 () s2 →
    if round = true ∧ tileRm s f.m = 4 then Rejects i .mat f.d s s2 else Posts i .mat .mat f.d none none (body o st) s s2) ∧
  (∀ (f : XR) (s : State) (tok : Vector (BitVec 4) 8),
    let b := begun (.macadd f) s tok
    Issues (.macadd f) s tok → slotAt (.macadd f) b = true → s.ctx.id.harv = false →
    Gives (checkTiles f.a.toNat 1) b () b → Gives (checkTiles f.b.toNat 1) b () b →
    if tileRm s f.m = 4 then Rejects (.macadd f) .mat f.d s b
    else Posts (.macadd f) .mat .mat f.d none none
      (.macadd f.a.toNat f.b.toNat (tileRm s f.m) (f.sa == 1) (f.x.getLsbD 0)) s b) ∧
  (∀ (f : XR) (s : State) (tok : Vector (BitVec 4) 8) (a b c : Word) (s1 s2 s3 : State),
    let o : Nat := a.toNat % 2 ^ 24
    let w := b.toNat % 2 ^ 16
    let n := c.toNat % 2 ^ 17
    Issues (.mscl f) s tok → slotAt (.mscl f) (begun (.mscl f) s tok) = true → s.ctx.id.harv = false →
    Gives (rS f.a) (begun (.mscl f) s tok) a s1 → Gives (rS f.b) s1 b s2 → Gives (rS f.c) s2 c s3 →
    Gives (checkSpans [operandSpan (o, o) 0 0 (4 * n)]) s3 () s3 →
    if n = 0 ∨ 65536 < w + n then Rejects (.mscl f) .mat f.d s s3
    else Posts (.mscl f) .mat .mat f.d none none (.scale o w n (f.x.getLsbD 0)) s s3)

/-- R316, R319: csrset writes a descriptor word; csrcnt and csrrst wait while a sparse entry of the context is unfinished, and then
one reads a counter and the other clears the four, and under .all the descriptor words too. -/
def Sys2Proof.Claims.SparseRegisters : Prop :=
  (∀ (f : XR) (s : State) (tok : Vector (BitVec 4) 8) (a : Word) (s1 : State),
    Issues (.csrset f) s tok → slotAt (.csrset f) (begun (.csrset f) s tok) = true → s.ctx.id.harv = false →
    Gives (rS f.a) (begun (.csrset f) s tok) a s1 →
    ∃ u, exec (.csrset f) s = .next u ∧ u.ctx.s = s.ctx.s ∧ OnlyCtx s u ∧
      ∀ k < 6, vget u.ctx.csr k = if k = f.x.toNat % 8 then a else vget s.ctx.csr k) ∧
  (∀ (f : XR) (s : State) (tok : Vector (BitVec 4) 8), s.ctx.id.harv = false → s.ctx.spa.pending ≠ [] →
    (Issues (.csrcnt f) s tok → slotAt (.csrcnt f) (begun (.csrcnt f) s tok) = true →
      exec (.csrcnt f) s = .next (s.blocked s .engine)) ∧
    (Issues (.csrrst f) s tok → slotAt (.csrrst f) (begun (.csrrst f) s tok) = true →
      exec (.csrrst f) s = .next (s.blocked s .engine))) ∧
  (∀ (f : XR) (s : State) (tok : Vector (BitVec 4) 8), s.ctx.id.harv = false → s.ctx.spa.pending = [] →
    (Issues (.csrcnt f) s tok → slotAt (.csrcnt f) (begun (.csrcnt f) s tok) = true → ∀ t,
      Gives (wS f.d (vget s.ctx.csrc (f.x.toNat % 4))) (begun (.csrcnt f) s tok) () t →
      exec (.csrcnt f) s = .next (done (.csrcnt f) s t)) ∧
    (Issues (.csrrst f) s tok → slotAt (.csrrst f) (begun (.csrrst f) s tok) = true →
      ∃ u, exec (.csrrst f) s = .next u ∧ u.ctx.s = s.ctx.s ∧ OnlyCtx s u ∧ (∀ k < 4, vget u.ctx.csrc k = 0) ∧
        ∀ k < 6, vget u.ctx.csr k = if f.x.getLsbD 0 then 0 else vget s.ctx.csr k))

/-- R318: csrgath posts to the gather queue, csrmm and csrgo to the matrix queue, with the descriptor words as they stand. -/
def Sys2Proof.Claims.SparsePosts : Prop :=
  (∀ (f : XR) (s : State) (tok : Vector (BitVec 4) 8) (a c : Word) (s1 s2 : State),
    let o : Nat := a.toNat % 2 ^ 24
    let k := blkK c
    Issues (.csrgath f) s tok → slotAt (.csrgath f) (begun (.csrgath f) s tok) = true → s.ctx.id.harv = false →
    Gives (rS f.a) (begun (.csrgath f) s tok) a s1 → Gives (rS f.c) s1 c s2 →
    Gives (checkSpans [operandSpan (o, o) (csrStride s.ctx.csr k) 127 (k * csrWidth s.ctx.csr)]) s2 () s2 →
    if csrBad s.ctx.csr then Rejects (.csrgath f) .spa f.d s s2
    else Posts (.csrgath f) .spa .gath f.d none none (.gath o c s.ctx.csr) s s2) ∧
  (∀ (f : XR) (s : State) (tok : Vector (BitVec 4) 8) (b c : Word) (s1 s2 : State),
    let o : Nat := b.toNat % 2 ^ 24
    let fd := s.core.fmtOf 2 o
    let span := operandSpan (o, o) (b.toNat / 2 ^ 24 % 2 ^ 24) 127 (blkK c * elemBits fd / 8)
    Issues (.csrmm f) s tok → slotAt (.csrmm f) (begun (.csrmm f) s tok) = true → s.ctx.id.harv = false → s.ctx.bnd.strict = false →
    Gives (rS f.b) (begun (.csrmm f) s tok) b s1 → Gives (rS f.c) s1 c s2 →
    Gives (checkSpans [span]) s2 () s2 → Gives (checkTiles f.a.toNat 1) s2 () s2 →
    if csrBad s.ctx.csr || !densePlain fd || !pairOk 2 fd (csrVfmt s.ctx.csr) || !s.core.uniform 2 fd span.1.toNat span.2.toNat
    then Rejects (.csrmm f) .spa f.d s s2
    else Posts (.csrmm f) .spa .mat f.d none none (.csrmm f.a.toNat b c (f.x.getLsbD 0) s.ctx.csr (BitVec.ofNat 5 fd)) s s2) ∧
  (∀ (f : XE) (s : State) (tok : Vector (BitVec 4) 8),
    let csr := s.ctx.csr
    let w5 := (vget csr 5).toNat
    let o : Nat := w5 % 2 ^ 24
    let fd := s.core.fmtOf 2 o
    let steps := w5 / 2 ^ 54
    let n := blkK (vget csr 4) * elemBits fd / 8
    let b := begun (.csrgo f) s tok
    let span : Span := operandSpan (o, o + ((steps - 1) * n : Nat)) (w5 / 2 ^ 24 % 2 ^ 24) 127 n
    Issues (.csrgo f) s tok → slotAt (.csrgo f) b = true → s.ctx.id.harv = false → s.ctx.bnd.strict = false →
    Gives (checkSpans [span]) b () b → Gives (checkTiles (w5 / 2 ^ 48 % 32) 1) b () b →
    if csrBad csr || steps == 0 || !densePlain fd || !pairOk 2 fd (csrVfmt csr) || !s.core.uniform 2 fd span.1.toNat span.2.toNat
    then Rejects (.csrgo f) .spa f.d s b
    else Posts (.csrgo f) .spa .mat f.d (if f.swe = 1 then some f.sw else none) (if f.sse = 1 then some f.ss else none)
      (.csrgo csr (BitVec.ofNat 5 fd)) s b)

/-- R251, R252: cpy takes its record from four registers and the formats of the banks; a record of no bytes is turned away, and so is
one that R101 refuses; a sound one is posted once its queue and PEND have room, its bytes for another package counted in PEND. -/
def Sys2Proof.Claims.CopyPost : Prop :=
  ∀ (f : XE) (s : State) (tok : Vector (BitVec 4) 8) (g : List Word) (s1 : State),
    let r := copyRec g (f.f.getLsbD 1) s.core.spfmt
    let geo := copyGeom r s.cls (r.dstOff s)
    let bad := !(!inSpad r.src || rowsUniform s.core.spfmt s.cls (r.src.toNat % 2 ^ 24) r.sstr.toNat geo.sb r.rows.toNat) ||
      !(r.cb || !inSpad r.dst || rowsUniform s.core.spfmt s.cls (r.dst.toNat % 2 ^ 24) r.dstr.toNat geo.db r.rows.toNat) || !(r.cb || geo.ok)
    Issues (.cpy f) s tok → slotAt (.cpy f) (begun (.cpy f) s tok) = true → s.ctx.id.harv = false →
    Gives (rGroup f.a 4) (begun (.cpy f) s tok) g s1 →
    (r.len = 0 ∨ r.rows = 0 → Rejects (.cpy f) .cpy f.d s s1) ∧
    (r.len ≠ 0 → r.rows ≠ 0 →
      Gives (footprint engRD r.src (reach r.rows.toNat r.sstr.toNat geo.sb)) s1 () s1 →
      (r.cb = false → Gives (footprint engWR r.dst (reach r.rows.toNat r.dstr.toNat geo.db)) s1 () s1) →
      (bad = true → Rejects (.cpy f) .cpy f.d s s1) ∧
      (bad = false → 64 ≤ s.core.copyq.length → exec (.cpy f) s = .next (s.blocked s .engine)) ∧
      (bad = false → s.core.copyq.length < 64 → s.ctx.pend.toNat + r.peerBytes geo < 2 ^ 40 →
        (∃ w, Gives (wS f.d (s.ctx.cpy.last + 1)) s1 () w) →
        ∃ u, exec (.cpy f) s = .next u ∧ u.ctx.pend.toNat = s.ctx.pend.toNat + r.peerBytes geo ∧
          Posted .cpy .copy f.d (if f.swe = 1 then some f.sw else none) (if f.sse = 1 then some f.ss else none) (.copy r) s s1 u) ∧
      (bad = false → s.core.copyq.length < 64 → 2 ^ 40 ≤ s.ctx.pend.toNat + r.peerBytes geo →
        exec (.cpy f) s = .next (s.blocked s .pend)))

/-- R320, R327, R326: xfpost posts to a transform queue of the MEM instance its record names, colpost to the core's collective queue,
each with the record of six registers (a transform with the bank formats as they stand), turned away when R320 or R327 refuses it; badrd gives the number of bad chunks of a finished
ticket among the 64 most recent, or its first bad chunk, and all ones for a ticket that has left nothing or is older. -/
def Sys2Proof.Claims.StreamPosts : Prop :=
  (∀ (f : XE) (s : State) (tok : Vector (BitVec 4) 8) (g : List Word) (s1 : State),
    let r : XRec := Vector.ofFn fun i => g.getD i.val 0
    Issues (.xfpost f) s tok → slotAt (.xfpost f) (begun (.xfpost f) s tok) = true → s.ctx.id.harv = false →
    Gives (rGroup f.a 6) (begun (.xfpost f) s tok) g s1 →
    Gives (footprint engRD (xSptr r) (xSlen r)) s1 () s1 →
    (xOut r = true → Gives (footprint engWR (xDptr r) (xDcap r)) s1 () s1) →
    (xBadlst r ≠ 0 → Gives (footprint engWR (xBadlst r) (8 + 4 * xBadcap r)) s1 () s1) →
    (xResptr r ≠ 0 → Gives (footprint engWR (xResptr r) 16) s1 () s1) →
    if xfBad s r then Rejects (.xfpost f) .xf f.d s s1
    else Posts (.xfpost f) .xf (.xf (xSock r) (BitVec.ofNat 2 f.q.toNat)) f.d (if f.swe = 1 then some f.sw else none)
      (if f.sse = 1 then some f.ss else none) (.xform r s.core.spfmt) s s1) ∧
  (∀ (f : XE) (s : State) (tok : Vector (BitVec 4) 8) (g : List Word) (s1 : State),
    let r : XRec := Vector.ofFn fun i => g.getD i.val 0
    Issues (.colpost f) s tok → slotAt (.colpost f) (begun (.colpost f) s tok) = true → s.ctx.id.harv = false →
    Gives (rGroup f.a 6) (begun (.colpost f) s tok) g s1 →
    Gives (footprint engRD (cSptr r) (4 * colElems r 2)) s1 () s1 → Gives (footprint engWR (cDptr r) (4 * colElems r 1)) s1 () s1 →
    Gives (footprint engRD (cGroup r) 8) s1 () s1 → (cWptr r ≠ 0 → s1.wakeCheck (cWptr r) = none) →
    if colBad s r then Rejects (.colpost f) .col f.d s s1
    else Posts (.colpost f) .col .col f.d (if f.swe = 1 then some f.sw else none) (if f.sse = 1 then some f.ss else none)
      (.coll r) s s1) ∧
  (∀ (f : XR) (s : State) (tok : Vector (BitVec 4) 8) (a : Word) (s1 t : State),
    Issues (.badrd f) s tok → slotAt (.badrd f) (begun (.badrd f) s tok) = true → s.ctx.id.harv = false →
    Gives (rS f.a) (begun (.badrd f) s tok) a s1 →
    Gives (wS f.d (match (if s.ctx.xf.last.toNat < a.toNat + 64 then s.ctx.xf.recent.find? fun y => y.tk == a else none) with
      | some y => if f.x.getLsbD 0 then y.first else y.nbad
      | none => BitVec.allOnes 64)) s1 () t →
    exec (.badrd f) s = .next (done (.badrd f) s t))

/-- R330, R146: qfence posts a fence that names queues to the queue it stands in, and takes no ticket; a queue that the core or the
machine does not have turns it away with a PKTBAD record of cause 0x0D and no entry. -/
def Sys2Proof.Claims.FencePost : Prop :=
  ∀ (f : XE) (s : State) (tok : Vector (BitVec 4) 8) (a : Word) (s1 : State),
    let sock := BitVec.ofNat 6 (a.toNat / 256)
    let mask := BitVec.ofNat 8 a.toNat
    let bad := (∃ k < 4, mask.getLsbD k = true ∧ hasQueue s.cls k = false) ∨
      ((4 ≤ f.q.toNat ∨ 16 ≤ mask.toNat) ∧ s.memThere sock = false)
    let q := queueId f.q.toNat sock
    Issues (.qfence f) s tok → slotAt (.qfence f) (begun (.qfence f) s tok) = true → s.ctx.id.harv = false →
    Gives (rS f.a) (begun (.qfence f) s tok) a s1 →
    (bad → ∃ u, exec (.qfence f) s = .next u ∧ u.core.copyq = s.core.copyq ∧ u.core.matq = s.core.matq ∧
      u.core.gathq = s.core.gathq ∧ u.core.colq = s.core.colq ∧ u.xfq = s.xfq ∧
      u.doms = (s.pktbad s.ctx 0x0D (some (s.turn, s.sq.pc)) 0).doms) ∧
    (¬bad → q.depth ≤ (s.equeue q).length → exec (.qfence f) s = .next (s.blocked s .engine)) ∧
    (¬bad → (s.equeue q).length < q.depth → ∃ u, exec (.qfence f) s = .next u ∧ u.accNext = s.accNext + 1 ∧
      u.equeue q = s.equeue q ++ [newEntry s.accNext s.ctx.id 0 (if f.swe = 1 then some f.sw else none)
        (if f.sse = 1 then some f.ss else none) (.fence mask sock)] ∧
      u.ctx.s = s1.ctx.s ∧ u.ctx.mat = s.ctx.mat ∧ u.ctx.spa = s.ctx.spa ∧ u.ctx.xf = s.ctx.xf ∧ u.ctx.col = s.ctx.col ∧
      u.ctx.cpy = s.ctx.cpy)

/-! ### What the engines do -/

/-- The entry events, with the queue that each works on and what it does with the entry at its head. -/
def Sys2Proof.Claims.engineEvents : List (Instr × QId × Engine) :=
  [(.nestEntry, .mat, nestEngine), (.singleStepEntry, .mat, singleEngine), (.tileEntry, .mat, tileEngine),
   (.scaleCopyEntry, .mat, scaleEngine), (.copyEntry, .copy, copyEngine), (.gatherEntry, .gath, gatherEngine),
   (.sparseStepEntry, .mat, sparseEngine), (.collectiveEntry, .col, collEngine)]
/-- The same with the transform and fence events of every queue. -/
def Sys2Proof.Claims.EngineEvent (i : Instr) (q : QId) (g : Engine) : Prop :=
  (i, q, g) ∈ engineEvents ∨ (∃ k n, i = .transformEntry k n ∧ q = .xf k n ∧ g = transformEngine) ∨
  ∃ n k, i = .queueFenceEntry n k ∧ q = queueId n.toNat k ∧ g = fenceEngine

/-- Those that wait to do the same to a semaphore as an entry, and came before it (R260). -/
def Sys2Proof.Claims.aheadOf (s : State) (n : BitVec 6) (sig : Bool) (num : Nat) : Nat :=
  ((s.core.semq.takeWhile fun w => w.who != .inr num).filter fun w => w.sem == n && w.signal == sig && s.semLive w).length
/-- R145, R146, R253, R260: an engine works on the entry at the head of its queue only, in its context's focus; one that waits on a
semaphore which has no count left for it, those that came before counted, takes nothing and keeps its place; otherwise it takes one
from it before anything else; then its steps are made, and one whose work is done ends. One that is parked on a page entry makes none until it is woken (R117). -/
def Sys2Proof.Claims.QueueHeads : Prop :=
  ∀ (i : Instr) (q : QId) (g : Engine) (s : State), EngineEvent i q g →
    (s.equeue q = [] → exec i s = .next s) ∧
    ∀ e rest, s.equeue q = e :: rest → g.mine e.body = true → (s.focus e.own).ctx.id = e.own →
      (s.focus e.own).entryParked e.num = false →
      (s.focus e.own).gangHolds (s.focus e.own).domOf (s.focus e.own).ctx.bnd.job = false →
      let b := s.focus e.own
      (∀ n, e.waited = false → e.sw = some n → (b.core.sem.get n.toFin).toNat ≤ aheadOf b n false e.num →
        ∃ u, exec i s = .next u ∧ u.equeue q = e :: rest ∧ u.core.sem = b.core.sem ∧ u.ctx = b.ctx ∧
          { sem := n, signal := false, who := .inr e.num } ∈ u.core.semq ∧ ∀ p, u.byteAt p = b.byteAt p) ∧
      (∀ e1 b1, (e.waited = true ∧ e1 = e ∧ b1 = b ∨ e.waited = false ∧ e.sw = none ∧ e1 = { e with waited := true } ∧ b1 = b ∨
          e.waited = false ∧ e1 = { e with waited := true } ∧ ∃ n, e.sw = some n ∧ aheadOf b n false e.num < (b.core.sem.get n.toFin).toNat ∧
            b1 = (b.setSem n (b.core.sem.get n.toFin - 1)).modCore fun c => { c with semq := c.semq.filter fun w => w.who != .inr e.num }) →
          e.fin = none →
        (∀ e2 t, g.step e1 { b1 with entry := some e1.num } = .more e2 t →
          exec i s = .next (({ t with entry := none }.setHead q e2).updShadow e2 (g.idx e2) 1)) ∧
        ∀ e2 c p t, g.step e1 { b1 with entry := some e1.num } = .done e2 c p t →
          exec i s = .next (({ t with entry := none }.endRecord e2 c p).endEntry q e2 c (g.idx e2) (g.total e2 - e2.sent)))

/-- R253, R146, R254, R312, R260: an entry that has no peer write outstanding and finds room in the semaphore that it signals, those
that came before counted, leaves its queue; its ticket takes its code, its flags join ENGFLG, and the semaphore gains one when the
code is a normal end, and only then, which R325 says of transform entries and log entry 49 of the others. Without room it stays. -/
def Sys2Proof.Claims.EntryEnds : Prop :=
  ∀ (q : QId) (e : EngEnt) (rest : List EngEnt) (fam : Family) (code : BitVec 8) (idx : List Nat) (n : Nat) (s : State),
    Canon s → s.equeue q = e :: rest → e.body.family = some fam → e.pois = none →
    (∀ p ∈ s.peers, ¬(p.own = e.own ∧ p.engine = some (BitVec.ofNat 8 fam.engine, e.tk))) →
    let normal := code = 0 ∨ code = 5 ∨ code = 7
    (∀ k, e.ss = some k → normal → 0xFFFF ≤ (s.core.sem.get k.toFin).toNat + aheadOf s k true e.num →
      (s.endEntry q e code idx n).equeue q = { e with fin := some code } :: rest ∧
      (s.endEntry q e code idx n).ctx.fam fam = s.ctx.fam fam) ∧
    ((∀ k, e.ss = some k → normal → (s.core.sem.get k.toFin).toNat + aheadOf s k true e.num < 0xFFFF) →
      let u := s.endEntry q e code idx n
      u.equeue q = rest ∧ u.ctx.engflg = s.ctx.engflg ||| e.flags ∧
      (u.ctx.fam fam).pending = (s.ctx.fam fam).pending.erase e.tk ∧
      ((s.ctx.fam fam).last.toNat < e.tk.toNat + 64 → (u.ctx.fam fam).recent.head?.map (fun r => (r.tk, r.code)) = some (e.tk, code)) ∧
      (code ≠ 0 → (s.ctx.fam fam).nerr.toNat < 2 ^ 32 - 1 → (u.ctx.fam fam).nerr = (s.ctx.fam fam).nerr + 1) ∧
      ∀ k : BitVec 6, u.core.sem.get k.toFin =
        if e.ss = some k ∧ normal then s.core.sem.get k.toFin + 1 else s.core.sem.get k.toFin)

/-- R309, R305, R306: the steps of a nest run over every index vector, level 0 fastest: the indices of step n stay below their
counts and n is their mixed-radix number. -/
def Sys2Proof.Claims.StepOrder : Prop :=
  ∀ (cs : List Nat) (n : Nat), (∀ c ∈ cs, 0 < c) → n < cs.foldr (· * ·) 1 →
    (stepIdx cs n).length = cs.length ∧ (∀ p ∈ (stepIdx cs n).zip cs, p.1 < p.2) ∧
    ((stepIdx cs n).zip cs).foldr (fun p a => p.1 + p.2 * a) 0 = n

/-- R309, R304, R173 to R176: a step into tile t leaves in element (i, j), for i up to MV and j up to NV, the dot product of row i of A
and column j of B accumulated into what stands there (into +0 when the step zeroes the tile first), and every other element of every
tile as it is. -/
def Sys2Proof.Claims.StepProduct : Prop :=
  ∀ (h : NestHdr) (m : MStep) (e e1 : EngEnt) (s t : State), Canon s → h.mv < 256 → h.nv < 128 → m.store = false →
    matStep h m e s = (e1, t) →
    e1.prog = e.prog + 1 ∧
    (∀ i ≤ h.mv, ∀ j ≤ h.nv, sget 0 t.core.tiles (tileKey m.t i j) =
      (dot m.fa (fun g => s.core.scaleAt (m.sab + 256 * g + i)) (fun g => s.core.scaleAt (m.swb + 128 * g + j))
        (if m.zero then 0 else sget 0 s.core.tiles (tileKey m.t i j))
        (operandRow s.core m.fa m.bexa (m.a + i * h.ars) h.klen).1 (operandRow s.core m.fb m.bexb (m.b + j * h.bcs) h.klen).1).1) ∧
    (∀ u i j, i < 256 → j < 128 → (u ≠ m.t ∨ h.mv < i ∨ h.nv < j) →
      sget 0 t.core.tiles (tileKey u i j) = sget 0 s.core.tiles (tileKey u i j)) ∧
    t = { s with core := { s.core with tiles := t.core.tiles, tpois := t.core.tpois } }

/-- R173: one group of up to 32 floating products into an FP32 accumulator is exact until it is rounded once, to nearest even. -/
def Sys2Proof.Claims.GroupExact : Prop :=
  ∀ (acc : BitVec 32) (xs ys : List Ext), xs.length ≤ 32 → xs ≠ [] → xs.length = ys.length →
    (dot 0 (fun _ => .zero) (fun _ => .zero) acc xs ys).1 = BitVec.ofNat 32
      (deliver fp32 0 0 false (let p := Ext.sum false (fp32.dec acc.toNat :: (xs.zip ys).map fun x => (x.1.mul x.2).1)
        (p.1, p.2 || (xs.zip ys).any fun x => (x.1.mul x.2).2))).1

/-- R313: macz zeroes a whole tile and its rows' poison; macld takes its rows from scratchpad, FP32 elements unchanged; macadd.int adds
modulo 2^32; no other tile changes. -/
def Sys2Proof.Claims.TileSteps : Prop :=
  ∀ (e : EngEnt) (s : State), Canon s → let rows := if s.cls = 1 then 256 else 128
    (∀ t, e.body = .macz t → ∃ u, tileRun e s = .done e 0 0 u ∧
      (∀ i < rows, u.core.rowPois t i = false ∧ ∀ j < 128, sget 0 u.core.tiles (tileKey t i j) = 0) ∧
      ∀ v i j, v ≠ t → i < 256 → j < 128 → sget 0 u.core.tiles (tileKey v i j) = sget 0 s.core.tiles (tileKey v i j)) ∧
    (∀ t b c, e.body = .macld t b c 0 → ∃ u, tileRun e s = .done e 0 0 u ∧
      (∀ i < rows, ∀ j < 128, (sget 0 u.core.tiles (tileKey t i j)).toNat = leNat (Memory.getN s.core.spad (b + i * c + 4 * j) 4)) ∧
      ∀ v i j, v ≠ t → i < 256 → j < 128 → sget 0 u.core.tiles (tileKey v i j) = sget 0 s.core.tiles (tileKey v i j)) ∧
    (∀ t u rm sa, e.body = .macadd t u rm sa true → t ≠ u → ∃ e1 v, tileRun e s = .done e1 0 0 v ∧
      (∀ i < rows, ∀ j < 128, sget 0 v.core.tiles (tileKey t i j) =
        sget 0 s.core.tiles (tileKey t i j) + sget 0 s.core.tiles (tileKey u i j)) ∧
      ∀ w i j, w ≠ t → i < 256 → j < 128 → sget 0 v.core.tiles (tileKey w i j) = sget 0 s.core.tiles (tileKey w i j))

/-- R313: macst of FP32 writes row i of the tile, element after element, at its offset plus i rows' strides, and no other byte, when the
rows do not overlap. -/
def Sys2Proof.Claims.TileStored : Prop :=
  ∀ (e : EngEnt) (s : State) (t b c : Nat) (rm : BitVec 3) (sa : Bool), Canon s → e.body = .macst t b c 0 rm sa → 512 ≤ c →
    let rows := if s.cls = 1 then 256 else 128
    ∃ e1 u, tileRun e s = .done e1 0 0 u ∧
      (∀ i < rows, ∀ j < 128, ∀ k < 4, u.byteAt { sp := .spad, a := b + i * c + 4 * j + k } =
        (sget 0 s.core.tiles (tileKey t i j)).extractLsb' (8 * k) 8) ∧
      ∀ p : Place, (p.sp ≠ .spad ∨ ∀ i < rows, p.a < b + i * c ∨ b + i * c + 512 ≤ p.a) → u.byteAt p = s.byteAt p

/-- R315: mscl moves n words between scratchpad and scale memory, bits unchanged. -/
def Sys2Proof.Claims.ScaleCopies : Prop :=
  ∀ (e : EngEnt) (s : State) (o w n : Nat), Canon s →
    (e.body = .scale o w n false → ∃ u, scaleRun e s = .done e 0 0 u ∧
      (∀ k < n, (sget 0 u.core.scale (w + k)).toNat = leNat (Memory.getN s.core.spad (o + 4 * k) 4)) ∧
      (∀ k, k < w ∨ w + n ≤ k → sget 0 u.core.scale k = sget 0 s.core.scale k) ∧ u.core.spad = s.core.spad) ∧
    (e.body = .scale o w n true → ∃ u, scaleRun e s = .done e 0 0 u ∧ u.core.scale = s.core.scale ∧
      (∀ k < n, ∀ j < 4, u.byteAt { sp := .spad, a := o + 4 * k + j } = (sget 0 s.core.scale (w + k)).extractLsb' (8 * j) 8) ∧
      ∀ a, a < o ∨ o + 4 * n ≤ a → u.byteAt { sp := .spad, a := a } = s.byteAt { sp := .spad, a := a })

/-- R253, R98: a piece of a copy between two places of the same core's scratchpad or of its carve that do not meet leaves at the
destination the bytes that stand at the source, and no other byte differs. -/
def Sys2Proof.Claims.CopyPieces : Prop :=
  ∀ (e : EngEnt) (s : State) (src dst : Word) (n : Nat), Canon s → 0 < n → n ≤ 64 →
    let rs := scalarReq src n
    let rd := scalarReq dst n
    src.toNat / 2 ^ 60 ≤ 1 → dst.toNat / 2 ^ 60 ≤ 1 →
    s.checkStatic engRD rs = none → s.checkStatic engWR rd = none → s.part.scrub = 0 →
    (∀ p ∈ s.direct rs, s.poisoned p = false) → (∀ p ∈ s.direct rs, p ∉ s.direct rd) →
    ∃ e1 u, movePiece e src dst n s = .more e1 u ∧ e1 = { e with prog := e.prog + n } ∧
      (∀ k < n, ∃ a b, (s.direct rs)[k]? = some a ∧ (s.direct rd)[k]? = some b ∧ u.byteAt b = s.byteAt a) ∧
      ∀ p ∉ s.direct rd, u.byteAt p = s.byteAt p

/-- R317: PLACED, SKIP, DUP and BADROW are counted where the element or row is met; a row of the block at or past ROWS has no element; a row whose end stands below its start is malformed, is counted, and has
none either; in an empty row likewise. Column c0 + j of a row's element gives lane j, a later element replacing an earlier one. -/
def Sys2Proof.Claims.GatheredRow : Prop :=
  (∀ (csr : Vector Word 6) (r c0 : Nat) (s : State), (vget csr 3).toNat / 256 % 2 ^ 24 ≤ r → gatherRow csr r c0 s = .ok {} s) ∧
  (∀ (csr : Vector Word 6) (r c0 lo hi : Nat) (p q : Bool) (s s1 s2 : State), r < (vget csr 3).toNat / 256 % 2 ^ 24 →
    csrRead (vget csr 0 + ofN (4 * r)) 4 s = .ok (lo, p) s1 → csrRead (vget csr 0 + ofN (4 * r + 4)) 4 s1 = .ok (hi, q) s2 →
    (hi < lo → gatherRow csr r c0 s = .ok { pois := p || q, bad := true } (s2.bumpCsr 3)) ∧
    (hi = lo → gatherRow csr r c0 s = .ok { pois := p || q } s2)) ∧
  (∀ (csr : Vector Word 6) (c0 n e c v : Nat) (p q : Bool) (g : GRow) (s s1 s2 : State),
    csrRead (vget csr 1 + ofN (4 * e)) 4 s = .ok (c, p) s1 →
    (¬(c0 ≤ c ∧ c < c0 + 128) → gatherElems csr c0 (n + 1) e g s =
      gatherElems csr c0 n (e + 1) { g with pois := g.pois || p } (s1.bumpCsr 1)) ∧
    (c0 ≤ c → c < c0 + 128 →
      csrRead (vget csr 2 + ofN (csrWidth csr * e)) (csrWidth csr) (if (g.vals.getD (c - c0) none).isSome then s1.bumpCsr 2 else s1) =
        .ok (v, q) s2 →
      gatherElems csr c0 (n + 1) e g s = gatherElems csr c0 n (e + 1)
        { g with vals := g.vals.set (c - c0) (some v), pois := (g.pois || p) || q } (s2.bumpCsr 0))) ∧
  (∀ (s : State) (k : Nat), k < 4 → ∀ j < 4, vget (s.bumpCsr k).ctx.csrc j = vget s.ctx.csrc j + (if j = k then 1 else 0))

/-- R322, R321: a literal token copies its next t + 1 bytes; a match token repeats bytes from before the end, one at a time, so that it
may overlap what it writes; a tile is transposed element by element, and transposed twice is itself. -/
def Sys2Proof.Claims.StreamOperations : Prop :=
  (∀ (k : Nat) (t : Byte) (rest out : List Byte), t.toNat < 128 → t.toNat + 1 ≤ rest.length →
    decodeTokens (k + 1) (t :: rest) out = decodeTokens k (rest.drop (t.toNat + 1)) (out ++ rest.take (t.toNat + 1))) ∧
  (∀ (k : Nat) (t b : Byte) (rest out : List Byte), 128 ≤ t.toNat →
    let off := t.toNat % 4 * 256 + b.toNat + 1
    let n := t.toNat / 4 % 32 + 3
    (out.length < off → decodeTokens (k + 1) (t :: b :: rest) out = none) ∧
    (off ≤ out.length → decodeTokens (k + 1) (t :: b :: rest) out = decodeTokens k rest (copyMatch off n out) ∧
      (copyMatch off n out).length = out.length + n ∧ (copyMatch off n out).take out.length = out ∧
      ∀ j, out.length ≤ j → j < out.length + n → (copyMatch off n out)[j]? = (copyMatch off n out)[j - off]?)) ∧
  (∀ (w : Nat) (t : List Byte), t.length = 4096 * w →
    (transposeTile w t).length = t.length ∧ transposeTile w (transposeTile w t) = t ∧
    ∀ i < 64, ∀ j < 64, ((transposeTile w t).drop (w * (64 * i + j))).take w = (t.drop (w * (64 * j + i))).take w)

/-- R146: a fence stays while a queue that it names holds an unfinished entry accepted before it, and then ends. -/
def Sys2Proof.Claims.FenceHolds : Prop :=
  ∀ (e : EngEnt) (s : State) (mask : BitVec 8) (sock : BitVec 6), e.body = .fence mask sock →
    ((∃ q < 8, mask.getLsbD q = true ∧ ∃ x ∈ s.equeue (queueId q sock), x.num < e.num) → fenceRun e s = .more e s) ∧
    ((∀ q < 8, mask.getLsbD q = true → ∀ x ∈ s.unfinished q sock, e.num ≤ x.num) → fenceRun e s = .done e 0 0 s)

/-- R328: what arrives is added to what this member holds, element by element, exactly, and rounded once to FP32, to nearest even;
FP32 on the wire changes no value; the segments of a chained operation cover the elements once. A value that a member spreads goes to
every other member, in pieces of at most 256 bytes that are together what it sends; a piece leaves through an up port of its member's
package, and where there is none the entry ends with code 0x06 (R329, R435, R453). -/
def Sys2Proof.Claims.CollectiveSteps : Prop :=
  (∀ (ys : List Ext) (xs : List (BitVec 32)), ys.length = xs.length →
    (addReceived ys xs).1.length = xs.length ∧ ∀ k < xs.length, ∀ y x, ys[k]? = some y → xs[k]? = some x →
      (addReceived ys xs).1[k]? = some (BitVec.ofNat 32 (deliver fp32 0 0 false (Ext.sum false [y, fp32.dec x.toNat])).1)) ∧
  (∀ (r : XRec) (xs : List (BitVec 32)), (vget r 2).toNat / 2 ^ 40 % 32 = 0 → wireOf r xs = { bytes := (xs.map toBytes).flatten, elems := xs, flags := 0 }) ∧
  (∀ (r : XRec) (n k : Nat), 0 < n → (vget r 2).toNat / 2 ^ 32 % 16 < 3 → k < (vget r 2).toNat % 2 ^ 32 →
    ∃ g < n, (segOf r n g).1 ≤ k ∧ k < (segOf r n g).1 + (segOf r n g).2 ∧
      ∀ g' < n, (segOf r n g').1 ≤ k → k < (segOf r n g').1 + (segOf r n g').2 → g' = g) ∧
  (∀ (r : XRec) (t : List Byte) (xs : List (BitVec 32)) (f : BitVec 7),
    (spreadPart r t xs f).out = some (wireOf r xs).elems ∧
    ∀ k, (∃ bs, (k, bs) ∈ (spreadPart r t xs f).sends) ↔ k < grpN t ∧ k ≠ grpSelf t) ∧
  (∀ (t : List Byte) (k : Nat) (bs : List Byte), bs ≠ [] →
    ((piecesFor t [(k, bs)]).map (·.2)).flatten = bs ∧
    ∀ p ∈ piecesFor t [(k, bs)], p.1.toNat = grpMember t k % 2 ^ 12 ∧ 0 < p.2.length ∧ p.2.length ≤ 256) ∧
  (∀ (e : EngEnt) (tag : BitVec 32) (p : BitVec 12 × List Byte) (s : State), s.netRoom s.ctx.sender 256 = true →
    (s.reachable p.1 = false → collSend e tag p s = .done e 6 0 s) ∧
    (s.reachable p.1 = true → ∃ k t, collSend e tag p s = .more { e with outq := e.outq.tail, pkts := e.pkts ++ [k] } t ∧
      (∃ j ∈ sget [] s.pkg.route p.1.toNat, (s.ports.get j.toFin).state = 2 ∧
        (t.ports.get j.toFin).txq.length = (s.ports.get j.toFin).txq.length + 1 + (p.2.length + 31) / 32) ∧
      t.ctx = s.ctx ∧ ∀ z, t.byteAt z = s.byteAt z))

/-- R329: when an abort arrives for a tag, each collective entry with that tag leaves its queue, whatever its context's state, and its
ticket finishes with code 0x09; where no entry has the tag nothing changes. -/
def Sys2Proof.Claims.CollectiveAborts : Prop :=
  (∀ (tag : BitVec 32) (s : State),
    (∀ c ∈ s.allCores, ∀ e ∈ c.colq, ∀ r, e.body = .coll r → (vget r 4).toNat % 2 ^ 32 ≠ tag.toNat) →
    exec (.collectiveAbortReceived tag) s = .next s) ∧
  (∀ (tag : BitVec 32) (s : State) (e : EngEnt) (r : XRec), s.core.colq = [e] → (∀ c ∈ s.cores, c.colq = []) → e.own = s.ctx.id →
    e.body = .coll r → (vget r 4).toNat % 2 ^ 32 = tag.toNat → e.pois = none → s.ctx.col.last.toNat < e.tk.toNat + 64 →
    ∃ u, exec (.collectiveAbortReceived tag) s = .next u ∧ u.core.colq = [] ∧ u.ctx.s = s.ctx.s ∧
      u.ctx.col.recent.head?.map (fun x => (x.tk, x.code)) = some (e.tk, 9))

/-! ## Parcels, faults, fetching, units around a context (spec/07 R194 to R202, spec/02 R37 to R63, spec/04 R117, R140) -/

/-- R202: an unassigned opcode raises ILLOP with cause 0x1 and BIT 0xFF, whatever its predicate holds; R199 gives FMT and WORD. -/
def Sys2Proof.Claims.UnassignedOpcodes : Prop :=
  ∀ (wide : Bool) (w : Word) (s : State), s.sq.skip = false → s.parcel = none →
    exec (.unassignedOpcode wide w) s = .next (s.raise (illop 1 (if wide then 1 else 0) 0 0xFF w))

/-- R195, R198, R199: cx of an entry outside the kernel's range raises ILLOP cause 0xB, of an entry that is itself a parcel cause
0x4, of a W32 entry whose upper half is not 0 cause 0x5; every other entry runs as if it stood at the parcel's address, its token
bits joined with the parcel's. -/
def Sys2Proof.Claims.DictionaryParcels : Prop :=
  ∀ (f : C16) (s : State), s.sq.skip = false →
    let n := f.n.toNat
    let e := s.dictEntry f.n
    let inside := s.ctx.bnd.dfirst ≤ n ∧ n < s.ctx.bnd.dfirst + s.ctx.bnd.dcount
    let joined := e ||| BitVec.ofNat 64 f.tok.toNat
    (¬inside → exec (.cx f) s = .next (s.raise (illop 0xB 2 n 0xFF ((encC16 f).zeroExtend 64)))) ∧
    (inside → e.toNat / 16 % 4 = 3 → exec (.cx f) s = .next (s.raise (illop 4 2 n 0xFF e))) ∧
    (inside → e.toNat / 16 % 4 < 2 → 2 ^ 32 ≤ e.toNat → exec (.cx f) s = .next (s.raise (illop 5 2 n 32 e))) ∧
    (inside → e.toNat / 16 % 4 = 2 ∨ e.toNat / 16 % 4 < 2 ∧ e.toNat < 2 ^ 32 →
      exec (.cx f) s = exec (decodeWord joined).1 { s with parcel := some f.n } ∧ ∃ u, exec (.cx f) s = .next u)

/-- R198, R202, R38, R199: the decode checks come in order: an opcode that the core lacks, a sequencer that may not issue it, a field
that must be 0, a refused value, a specifier that the operand does not take, a group that runs past its file, a tile. -/
def Sys2Proof.Claims.CheckOrder : Prop :=
  ∀ (i : Instr) (s : State), let sh := shape i; let c := checks i
    (onCore s.cls sh = false → decodeTrap s sh c (dynBad s i) = some (illopOf s sh 1 0xFF)) ∧
    (onCore s.cls sh = true → sh.mayIssue s.turn = false → decodeTrap s sh c (dynBad s i) = some (illopOf s sh 6 0xFF)) ∧
    (onCore s.cls sh = true → sh.mayIssue s.turn = true →
      (∀ b, firstBad c.z = some b → decodeTrap s sh c (dynBad s i) = some (illopOf s sh 2 b)) ∧
      (firstBad c.z = none → ∀ b, (firstBad c.e).or (dynBad s i) = some b →
        decodeTrap s sh c (dynBad s i) = some (illopOf s sh 7 b)) ∧
      (firstBad c.z = none → firstBad c.e = none → dynBad s i = none →
        (∀ b, c.o.findSome? Opnd.refused = some b → decodeTrap s sh c (dynBad s i) = some (illopOf s sh 3 b)) ∧
        (c.o.findSome? Opnd.refused = none →
          (∀ b, c.o.findSome? Opnd.beyond = some b → decodeTrap s sh c (dynBad s i) = some (illopOf s sh 8 b)) ∧
          (c.o.findSome? Opnd.beyond = none → (∀ b, c.o.findSome? Opnd.tile = some b → s.cls ≠ 1 → s.cls ≠ 2 →
              decodeTrap s sh c (dynBad s i) = some (illopOf s sh 9 b)) ∧
            (c.o.findSome? Opnd.tile = none ∨ s.cls = 1 ∨ s.cls = 2 → decodeTrap s sh c (dynBad s i) = none)))))

/-- R10, R41, R55, R11, R394: a precise kind leaves the faulting instruction without effect: its sequencer stops with the program
counter at it, the context is FAULTED, tokens, queues and registers are as before; and when the exception queue has room (by the
EQHEAD that the device holds, or the one that it then reads, R385) the record holds the kind, the context, the sequencer and the
address, tells whether poison raised it, is stamped, and awaits an answer. -/
def Sys2Proof.Claims.TrapEntry : Prop :=
  ∀ (t : Trap) (s : State) (x : SubQ), s.findQ s.domOf (s.queueOf s.ctx) = some x → x.late = [] →
    let b : State := { s.setSq (faultSeq s.sq) with fresh := s.fresh + 1 }
    b.eqRoom s.domOf x = true →
    let u := s.raise t
    u.ctx.cst = .faulted ∧ u.sq.run = .faulted ∧ u.sq.pc = s.sq.pc ∧ u.ctx.tok = s.ctx.tok ∧ u.ctx.s = s.ctx.s ∧ u.ctx.v = s.ctx.v ∧
    u.ctx.p = s.ctx.p ∧ u.ctx.o = s.ctx.o ∧ u.ctx.q = s.ctx.q ∧ u.ctx.vq = s.ctx.vq ∧ u.ctx.bo = s.ctx.bo ∧ u.ctx.fpflg = s.ctx.fpflg ∧
    u.core = s.core ∧ u.arbseq = s.arbseq + 1 ∧ u.pending = s.pending ++ [(s.arbseq, .ctx s.ctx.id s.turn t.kind)] ∧
    (∃ r : BitVec 512, u.doms = ((b.eqLook s.domOf x).2.putRec s.domOf x r).2.doms ∧
      (r.extractLsb' 0 8 : BitVec 8) = t.kind ∧ r.getLsbD 8 = true ∧
      (r.getLsbD 10 = true ↔ t.kind = 0x0A ∨ t.kind = 5 ∧ t.info.toNat % 256 = 4) ∧ (r.extractLsb' 16 4 : BitVec 4) = s.ctx.bnd.dom ∧
      (r.extractLsb' 24 2 : BitVec 2) = BitVec.ofNat 2 (seqCode s.turn) ∧ (r.extractLsb' 64 32 : BitVec 32) = s.ctx.bnd.job ∧
      (r.extractLsb' 128 64 : Word) = s.sq.pc.zeroExtend 64 ∧ (r.extractLsb' 192 64 : Word) = t.addr ∧
      (r.extractLsb' 384 128 : BitVec 128) = t.info)

/-- R37, R63, R41: an instruction whose links lack a token that it waits for waits at its address, with nothing changed but the wait; it
is counted as waiting on the predecessor's or the successor's tokens. A parcel's token bits are those of its entry and its own
together (R195). -/
def Sys2Proof.Claims.TokenWaits : Prop :=
  ∀ (i : Instr) (s : State), encodable i = true → (∀ f, i ≠ .cx f) → s.sq.skip = false →
    decodeTrap s (shape i) (checks i) (dynBad s i) = none →
    (∃ l ∈ waitLinks s.turn (shape i).tok, (s.ctx.tok.get l).toNat < tokCount (shape i)) →
    ∃ u w, exec i s = .next u ∧ (w = .tokPred ∨ w = .tokSucc) ∧ u.sq = { s.sq with wait := w, timed := false } ∧
      u.ctx.tok = s.ctx.tok ∧ u.ctx.s = s.ctx.s ∧ u.ctx.v = s.ctx.v ∧ u.ctx.p = s.ctx.p ∧ u.ctx.q = s.ctx.q ∧
      OnlyCtx { s with fresh := s.fresh + 1 } u

/-- The forms that act on the active lanes of their predicate: the vector forms of the W32 map, the vector loads, stores and updates,
the vector and conversion forms of the W64 map but srseed, vext and vins, the sort forms that take lanes, and defer (R47, R270 to
R299, R226). Every other form acts in a scalar slot. -/
def Sys2Proof.Claims.laneForm : Shape → Bool
  | .w32 op _ => decide (0x40 ≤ op.toNat)
  | .xr op _ => op == 0x29 || (decide (0x80 ≤ op.toNat ∧ op.toNat ≤ 0xA5) && !([0x93, 0x9A, 0x9B] : List (BitVec 8)).contains op) ||
      ([0xB1, 0xB2, 0xB8] : List (BitVec 8)).contains op
  | .xm op _ => decide (0x42 ≤ op.toNat ∧ op.toNat ≤ 0x47) || op == 0x66 || op == 0x67
  | _ => false

/-- R48, R47: an instruction whose scalar slot is inactive, or whose lanes are all inactive, does nothing but take and give its tokens
and pass on: the program counter moves past it, and no register, queue, flag or byte changes. A push that has come to its
reservation is no longer inactive (R237), and a parcel runs as its entry (R195). -/
def Sys2Proof.Claims.InactiveSlots : Prop :=
  ∀ (i : Instr) (s : State) (tok : Vector (BitVec 4) 8), encodable i = true → (∀ f, i ≠ .cx f) → s.sq.pushing = none →
    Issues i s tok → (if laneForm (shape i) then lanesAt i (begun i s tok) = 0 else slotAt i (begun i s tok) = false) →
    let u := done i s (begun i s tok)
    exec i s = .next u ∧ u.ctx.s = s.ctx.s ∧ u.ctx.v = s.ctx.v ∧ u.ctx.o = s.ctx.o ∧ u.ctx.p = s.ctx.p ∧ u.ctx.q = s.ctx.q ∧
      u.ctx.vq = s.ctx.vq ∧ u.ctx.bo = s.ctx.bo ∧ u.ctx.fpflg = s.ctx.fpflg ∧ u.ctx.task = s.ctx.task ∧ u.ctx.table = s.ctx.table ∧
      OnlyCtx s u ∧
      (s.sq.held = [] → signalLinks s.turn (shape i).tok = [] → s.sq.atB = false → s.sq.atE = false →
        u.sq.pc = s.sq.pc + BitVec.ofNat 52 (s.len (shape i).len) ∧ u.ctx.tok = tok)

/-- R39: a held signal is made when its link has room for it, and waits otherwise. -/
def Sys2Proof.Claims.HeldSignals : Prop :=
  ∀ (q : SeqId) (l : Fin 8) (n : Nat) (s : State), (s.ctx.seqs.get q).held = [(l, n)] → (s.ctx.seqs.get q).atB = false →
    (s.ctx.seqs.get q).atE = false → 0 < n → n ≤ 15 →
    ((s.ctx.tok.get l).toNat + n ≤ 15 → ∃ u, exec (.resultComplete q) s = .next u ∧ (u.ctx.seqs.get q).held = [] ∧
      MovedUp [l] n s.ctx.tok u.ctx.tok ∧ u.ctx.s = s.ctx.s ∧ u.ctx.q = s.ctx.q ∧ OnlyCtx s u) ∧
    (15 < (s.ctx.tok.get l).toNat + n → exec (.resultComplete q) s = .next s)

/-- R333, R334, R122, R105: a fetch that lacks a line requests it at the address that its walk finds, once; a walk that fails raises
IFETCH with the fetch address; an arriving fill puts the 64 bytes that memory holds into the cache, if they are not poisoned. -/
def Sys2Proof.Claims.InstructionFetch : Prop :=
  (∀ (q : SeqId) (s : State), let b := { s with turn := q }
    (∀ w, b.fetchWord = .ok w → exec (.demandFetch q) s = .next b) ∧
    (∀ a, b.fetchWord = .error a → b.lineKnown (lineOf a) = true → exec (.demandFetch q) s = .next b) ∧
    (∀ a, b.fetchWord = .error a → b.lineKnown (lineOf a) = false →
      (∀ pa t, b.walkLine (lineOf a) = .ok (pa, t) → ∃ u, exec (.demandFetch q) s = .next u ∧
        u.core.fills = t.core.fills ++ [{ dom := t.domOf, line := lineOf a, pa := BitVec.ofNat 52 pa }] ∧ u.ctx = t.ctx) ∧
      ∀ c t, b.walkLine (lineOf a) = .error (c, t) →
        exec (.demandFetch q) s = .next (t.raise { kind := 5, addr := a.zeroExtend 64, info := BitVec.ofNat 128 (c % 256) }))) ∧
  (∀ (l : BitVec 46) (s : State),
    ((∀ x ∈ s.core.fills, x.line ≠ l) → exec (.fillArrival l) s = .next s) ∧
    ∀ x, s.core.fills.find? (fun x => x.line == l) = some x → (∀ c ∈ s.allCores, c.uol = []) →
      s.poisoned { sp := .phys, a := x.pa.toNat } = false →
      ∃ u y, exec (.fillArrival l) s = .next u ∧ u.core.iline x.dom x.line = some y ∧ u.core.fills = s.core.fills.erase x ∧
        (∀ k < 64, (y.data.extractLsb' (8 * k) 8 : Byte) = s.byteAt { sp := .phys, a := x.pa.toNat + k }) ∧ u.ctx = s.ctx ∧
        ∀ p, u.byteAt p = s.byteAt p)

/-- R105: a set of the instruction cache holds at most four lines, none of them twice, and a line that enters is held. -/
def Sys2Proof.Claims.CacheWays : Prop :=
  ∀ (c : Core) (x : ILine), (∀ n, (c.icache.filter fun y => lineSet y.line == n).length ≤ 4) →
    (c.icache.map fun y => (y.dom, y.line)).Nodup →
    ((c.iput x).icache.map fun y => (y.dom, y.line)).Nodup ∧
    (c.iput x).iline x.dom x.line = some x ∧
    (∀ n, ((c.iput x).icache.filter fun y => lineSet y.line == n).length ≤ 4) ∧
    (∀ n, n ≠ lineSet x.line → ((c.iput x).icache.filter fun y => lineSet y.line == n) = c.icache.filter fun y => lineSet y.line == n)

/-- R386, R385, R429: the page request held longest is posted when the ring has room, by the EQHEAD that the device holds or the one
that it then reads: the tail moves by one, and the others stay held; without room it stays held. A write that the host ends with an
error leaves its bytes as they were. -/
def Sys2Proof.Claims.PageRequests : Prop :=
  ∀ (d : BitVec 4) (s : State),
    ((s.dom d).pageq = none → exec (.pageRequestPosted d) s = .next s) ∧
    ∀ p, (s.dom d).pageq = some p →
      let looked := if (p.eqtail - p.eqhead).toNat < 2 ^ p.n then (p.eqhead, s) else s.readIdx d p.ctl 0x14
      let head := looked.1
      let at_ := fun k => s.hostAt d (p.ring.toNat + 16 * (p.eqtail.toNat % 2 ^ p.n) + k) 1
      (p.waiting = [] → exec (.pageRequestPosted d) s = .next s) ∧
      (p.waiting ≠ [] → 2 ^ p.n ≤ (p.eqtail - head).toNat → ∃ u, exec (.pageRequestPosted d) s = .next u ∧
        (u.dom d).pageq = some { p with eqhead := head } ∧ u.arbseq = s.arbseq ∧ u.hostmem = s.hostmem) ∧
      ∀ va rest, p.waiting = va :: rest → (p.eqtail - head).toNat < 2 ^ p.n → Canon s →
        p.ring.toNat + 16 * 2 ^ p.n ≤ p.ctl.toNat → p.ctl.toNat + 64 ≤ 2 ^ 60 →
        ∃ u, exec (.pageRequestPosted d) s = .next u ∧
          (u.dom d).pageq = some { p with eqhead := head, eqtail := p.eqtail + 1, waiting := rest } ∧
          u.getIdx d p.ctl 0x10 = (if Config.freeBool (looked.2.fresh + 1) then s.getIdx d p.ctl 0x10 else p.eqtail + 1) ∧
          u.arbseq = s.arbseq + 1 ∧
          ∀ k < 8, ∀ q ∈ at_ k, u.byteAt q = if Config.freeBool looked.2.fresh then s.byteAt q else BitVec.ofNat 8 (va.toNat / 256 ^ k)

/-- R117, R120: the waiter woken first walks again: when its page is there the sequencers that wait for it go on; otherwise it
parks again; one that waits no more, and an engine entry that stands in no queue, is dropped; an engine entry's walk is made again
too. The walks of the overflow list are all made again, one after the other, each as that of a waiter woken first. -/
def Sys2Proof.Claims.WaitersWalk : Prop :=
  (∀ s : State, s.woken = [] → exec .waiterRewalk s = .next s) ∧
  (∀ (s : State) (w : Waiter) (rest : List Waiter) (c : CtxId) (q : SeqId) (t : State) (e : TlbEnt),
    s.woken = w :: rest → w.peer = none → w.ctx = some (c, q) → c = s.ctx.id →
    (∃ x ∈ allSeqs, (s.ctx.seqs.get x).wait = .page w.va) →
    ({ s with woken := rest } : State).translate w.dom w.va w (some (q, (s.ctx.seqs.get q).pc)) = .ok (e, t) →
    ∃ u, exec .waiterRewalk s = .next u ∧ (∀ x, (u.ctx.seqs.get x).wait =
      if (t.ctx.seqs.get x).wait = .page w.va then .none else (t.ctx.seqs.get x).wait) ∧ u.ctx.s = t.ctx.s) ∧
  (∀ (s : State) (w : Waiter) (rest : List Waiter) (c : CtxId) (q : SeqId) (t : State),
    s.woken = w :: rest → w.peer = none → w.ctx = some (c, q) → c = s.ctx.id →
    (∃ x ∈ allSeqs, (s.ctx.seqs.get x).wait = .page w.va) →
    ({ s with woken := rest } : State).translate w.dom w.va w (some (q, (s.ctx.seqs.get q).pc)) = .error t →
    exec .waiterRewalk s = .next t) ∧
  (∀ (s : State) (w : Waiter) (rest : List Waiter), s.woken = w :: rest → w.peer = none →
    (w.ctx = none ∧ w.eng = none ∨ ∃ q, w.ctx = some (s.ctx.id, q) ∧ ∀ x ∈ allSeqs, (s.ctx.seqs.get x).wait ≠ .page w.va) →
    exec .waiterRewalk s = .next { s with woken := rest }) ∧
  (∀ (s : State) (w : Waiter) (rest : List Waiter) (k : Nat) (own : CtxId), s.woken = w :: rest → w.peer = none → w.ctx = none →
    w.eng = some (k, own) →
    (s.entryStands k = false → exec .waiterRewalk s = .next { s with woken := rest }) ∧
    (s.entryStands k = true → own = s.ctx.id → ∀ t,
      (({ s with woken := rest } : State).translate w.dom w.va w none = .error t ∨
        ∃ e, ({ s with woken := rest } : State).translate w.dom w.va w none = .ok (e, t)) → exec .waiterRewalk s = .next t)) ∧
  (∀ s : State, s.overflow = [] → exec .overflowRewalk s = .next s) ∧
  (∀ s : State, exec .overflowRewalk s = s.overflow.foldl (fun r w => match r with
    | .next u => exec .waiterRewalk { u with woken := w :: u.woken }
    | x => x) (.next { s with overflow := [] })) ∧
  (∀ (s : State) (w : Waiter) (c : CtxId) (q : SeqId) (t : State) (e : TlbEnt),
    s.overflow = [w] → w.peer = none → w.ctx = some (c, q) → c = s.ctx.id →
    (∃ x ∈ allSeqs, (s.ctx.seqs.get x).wait = .page w.va) →
    ({ s with overflow := [] } : State).translate w.dom w.va w (some (q, (s.ctx.seqs.get q).pc)) = .ok (e, t) →
    ∃ u, exec .overflowRewalk s = .next u ∧ (∀ x, (u.ctx.seqs.get x).wait =
      if (t.ctx.seqs.get x).wait = .page w.va then .none else (t.ctx.seqs.get x).wait) ∧ u.ctx.s = t.ctx.s)

/-- R63: when the counter of a context whose sequencers are all blocked inside it, not all of them halted, has reached its limit, the
context is FAULTED and no sequencer, register, token or queue changes; TOKDL is raised on SC, and awaits an answer. At any other time
nothing happens. -/
def Sys2Proof.Claims.DeadlockFaults : Prop :=
  ∀ s : State,
    let dead := (s.ctx.cst = .run ∨ s.ctx.cst = .sleep) ∧ (∀ q, ((s.ctx.seqs.get q).blockedOn s.ctx.tok).isSome = true) ∧
      ¬(∀ q, (s.ctx.seqs.get q).blockedOn s.ctx.tok = some 0)
    (dead ∧ s.ctx.dlk.toNat = 2 ^ 20 - 1 → ∃ u, exec .deadlockCounterExpiry s = .next u ∧
      u.ctx = { s.ctx with cst := .faulted, dlk := 0 } ∧ u.core = s.core ∧
      ∀ x, s.findQ s.domOf (s.queueOf s.ctx) = some x → x.late = [] → s.eqRoom s.domOf x = true →
        u.pending = s.pending ++ [(s.arbseq, .ctx s.ctx.id .sc 0x07)] ∧ u.arbseq = s.arbseq + 1) ∧
    (¬(dead ∧ s.ctx.dlk.toNat = 2 ^ 20 - 1) → exec .deadlockCounterExpiry s = .next s)

/-- R263: at the deadline of a timed address wait its sequencer, and no other, may try once more. -/
def Sys2Proof.Claims.WaitDeadlines : Prop :=
  ∀ (q : SeqId) (s : State),
    ((s.ctx.seqs.get q).late s.gts = false → exec (.waitwtDeadline q) s = .next s) ∧
    ((s.ctx.seqs.get q).late s.gts = true → ∃ u, exec (.waitwtDeadline q) s = .next u ∧
      u.ctx.seqs.get q = { s.ctx.seqs.get q with timed := true } ∧ (∀ x, x ≠ q → u.ctx.seqs.get x = s.ctx.seqs.get x) ∧
      u.ctx.s = s.ctx.s ∧ OnlyCtx s u)

/-- R140, R90, R454: the answer to a write, an atomic or a wake write that has left the package reaches one of those that are on their
way, whichever: it is no longer on its way, and its bytes leave the PEND of its context, wherever that stands. A refusal is reported by
the record that the write carries, PKTBAD of cause 0x0C with the pointer; an engine's entry whose write is refused will end with
code 2 (R253). Without one on its way nothing changes. -/
def Sys2Proof.Claims.PeerAnswers : Prop :=
  (∀ s : State, s.somePeer = none → exec .peerAckReceived s = .next s ∧ exec .peerRefusalReceived s = .next s) ∧
  (∀ (s : State) (p : PeerOut), p ∈ s.peers → p.answered = false →
    (∀ k : Fin 128, ∀ y ∈ (s.ports.get k).txq, y.pkt ≠ p.pkt) → s.somePeer ≠ none) ∧
  (∀ (s t : State) (p : PeerOut), s.somePeer = some (p, t) → (s.peers.map (·.pkt)).Nodup → s.switches p.dom p.job = false →
    let fewer := fun (c : Ctx) => (c.id, c.pend.toNat - if c.id = p.own then p.bytes else 0)
    p ∈ s.peers ∧ t = { s with fresh := t.fresh } ∧
    (∃ u, exec .peerAckReceived s = .next u ∧ u.peers = s.peers.erase p ∧ (u.ctxs.map fun c => (c.id, c.pend.toNat)) = s.ctxs.map fewer ∧
      u.ctx.s = s.ctx.s ∧ u.core = s.core ∧ u.doms = s.doms ∧ ∀ z, u.byteAt z = s.byteAt z) ∧
    (∃ u, exec .peerRefusalReceived s = .next u ∧ u.peers = s.peers.erase p ∧
      (u.ctxs.map fun c => (c.id, c.pend.toNat)) = s.ctxs.map fewer ∧ u.ctx.s = s.ctx.s ∧
      u.doms = (t.report p.dom p.queue p.rcd).doms ∧
      ∀ n tk, p.engine = some (n, tk) → u.core.copyq = s.core.copyq.map fun e =>
        if e.own = p.own ∧ e.tk = tk ∧ e.body.family = some (familyOf n) then { e with fin := some 2 } else e)) ∧
  (∀ (c : Ctx) (ptr : Word), let r := refusalRec c ptr none
    (r.extractLsb' 0 8 : BitVec 8) = 0x83 ∧ (r.extractLsb' 16 4 : BitVec 4) = c.bnd.dom ∧ (r.extractLsb' 192 64 : Word) = ptr ∧
    (r.extractLsb' 384 16 : BitVec 16) = 0xFF0C)

/-- R89, R436, R256, with no gang switch of its job under way: an access of another package that its home does not admit (no such live entry, an old generation, no export taken
up with its right and reach, beyond LIMIT) changes nothing; one that it admits, and whose walk finds its places, reads them or
writes its bytes there and nowhere else, or acts on them there, with a result that is free (log entry 22). A wake for a job that has no member here or beyond WAKEN changes nothing; a wake within writes its word; a share at the home counts a reference and a drop takes one. -/
def Sys2Proof.Claims.OtherPackages : Prop :=
  (∀ (r : PeerReq) (s : State),
    let last := r.off.toNat + (r.len.toNat - 1)
    (∀ g ∈ s.gangs, g.job ≠ r.job) →
    (∀ e, (s.dom r.dom).regOf r.name = some e → e.live = false ∨ e.gen ≠ r.gen ∨ e.limit.toNat < last ∨
      ∀ x ∈ (s.dom r.dom).exps, x.used = false ∨ x.name ≠ r.name ∨ x.gen ≠ r.gen ∨ x.limit.toNat < last ∨
        subRights (peerNeed r.op) x.rights = false) →
    exec (.peerAccessAtHome r) s = .next s) ∧
  (∀ (r : PeerReq) (s : State) (e : RegEnt) (x : ExportRec) (ps : List Place),
    let last := r.off.toNat + (r.len.toNat - 1)
    (∀ g ∈ s.gangs, g.job ≠ r.job) → (s.dom r.dom).regOf r.name = some e → e.live = true → e.gen = r.gen → last ≤ e.limit.toNat → r.len ≠ 0 →
    x ∈ (s.dom r.dom).exps → x.used = true → x.name = r.name → x.gen = r.gen → last ≤ x.limit.toNat →
    subRights (peerNeed r.op) x.rights = true →
    s.mergeAll.peerWalk r (frames (e.vbase.toNat + r.off.toNat) r.len.toNat) = .ok (some ps) → ps.Nodup →
    r.data.length = ps.length → (∀ p ∈ ps, p.sp = .phys) → Canon s →
    (r.op = 0 → ∃ u, exec (.peerAccessAtHome r) s = .next u ∧ ∀ p, u.byteAt p = s.mergeAll.byteAt p) ∧
    (r.op = 1 → ∃ u, exec (.peerAccessAtHome r) s = .next u ∧
      (∀ k < ps.length, ∃ p b, ps[k]? = some p ∧ r.data[k]? = some b ∧ u.byteAt p = b) ∧
      ∀ p ∉ ps, u.byteAt p = s.mergeAll.byteAt p) ∧
    (2 ≤ r.op.toNat → ∃ u, exec (.peerAccessAtHome r) s = .next u ∧ ∀ p ∉ ps, u.byteAt p = s.mergeAll.byteAt p)) ∧
  (∀ (job : BitVec 32) (idx : BitVec 45) (v : Word) (s : State), (∀ g ∈ s.gangs, g.job ≠ job) →
    (s.memberOf job = none → exec (.fabricWakeArrival job idx v) s = .next s) ∧
    ∀ d, s.memberOf job = some d →
      ((s.dom d).waken ≤ idx.toNat → exec (.fabricWakeArrival job idx v) s = .next s) ∧
      (idx.toNat < (s.dom d).waken → Canon s → ∃ u, exec (.fabricWakeArrival job idx v) s = .next u ∧
        (∀ j p, (s.carveAt d (8 * idx.toNat) 8)[j]? = some p → u.byteAt p = v.extractLsb' (8 * j) 8) ∧
        ∀ p ∉ s.carveAt d (8 * idx.toNat) 8, u.byteAt p = s.byteAt p)) ∧
  (∀ (r : CapReq) (s : State) (e : RegEnt), (s.dom r.dom).reg = [e] → e.name = r.name → e.gen = r.gen → e.live = true →
    e.refcnt.toNat < 2 ^ 32 - 1 → 0 < e.refcnt.toNat →
    (r.ask = .share → ∃ u, exec (.capabilityRequestAtHome r) s = .next u ∧ (u.dom r.dom).reg = [{ e with refcnt := e.refcnt + 1 }]) ∧
    (r.ask = .drop → ∃ u, exec (.capabilityRequestAtHome r) s = .next u ∧ (u.dom r.dom).reg = [dropped e])) ∧
  (∀ (r : CapReq) (s : State) (x : ExportRec), (s.dom r.dom).exps = [x] → (s.dom r.dom).reg = [] → ∀ k ri l, r.ask = .imp k ri l →
    exec (.capabilityRequestAtHome r) s = .next s)

/-- R394, R385: with room in the exception queue, by the EQHEAD that the device holds or then reads, the record held longest is
arbitrated and queued, and the others stay held; without room it stays held, and with none held nothing changes. -/
def Sys2Proof.Claims.HeldRecords : Prop :=
  ∀ (d : BitVec 4) (q : BitVec 6) (s : State),
    (s.findQ d q = none → exec (.heldRecordQueued d q) s = .next s) ∧
    ∀ x, s.findQ d q = some x →
      (x.late = [] → exec (.heldRecordQueued d q) s = .next s) ∧
      (x.late ≠ [] → s.eqRoom d x = false → ∃ u, exec (.heldRecordQueued d q) s = .next u ∧ u.pending = s.pending ∧
        u.arbseq = s.arbseq ∧ ∃ y, u.findQ d q = some y ∧ y.late = x.late ∧ y.eqtail = x.eqtail) ∧
      ∀ r c k m rest, x.late = (r, .ctx c k m) :: rest → s.eqRoom d x = true → ∃ u, exec (.heldRecordQueued d q) s = .next u ∧
        u.pending = s.pending ++ [(s.arbseq, .ctx c k m)] ∧ u.arbseq = s.arbseq + 1 ∧
        ∃ y, u.findQ d q = some y ∧ y.late = rest ∧ y.eqtail = x.eqtail + 1

/-- R57, R58, R70, R232, R237, R415: a harvest region whose sequencers have all reached its end, whose pushes and peer bytes fit and
whose bank is held with no restart marked, commits, and is closed. Unless another open region lists ST, every buffered byte then
stands at its place, and the buffer is empty; unless another lists SC, every buffered record is published, in order, at the tail of its
edge, its ends are made, and none is buffered any more. While one of these is wanting, or in an owner, nothing happens. A byte of
the carve is said to stand where no push and no end of a task may come over it. -/
def Sys2Proof.Claims.HarvestCommits : Prop :=
  ∀ (n : BitVec 12) (s : State),
    let fits := s.part.lease = .held ∧ s.part.restart = false ∧ s.pushesFit = true ∧ s.ctx.pendFits = true ∧
      (s.ctx.sbufPeer = 0 ∨ s.netRoom s.ctx.sender (256 * 64 * 32) = true)
    (s.ctx.id.harv = false ∨ (∀ r ∈ s.ctx.rgns, r.num ≠ n) → exec (.harvestCommit n) s = .next s) ∧
    ∀ r, s.ctx.rgns.find? (fun r => r.num == n) = some r → s.ctx.id.harv = true →
      ((∃ q ∈ listedSeqs r.mask, (s.ctx.seqs.get q).atE = false ∨ (s.ctx.seqs.get q).rgn ≠ some n) →
        exec (.harvestCommit n) s = .next s) ∧
      (¬fits → exec (.harvestCommit n) s = .next s) ∧
      ((∀ q ∈ listedSeqs r.mask, (s.ctx.seqs.get q).atE = true ∧ (s.ctx.seqs.get q).rgn = some n) → fits → Canon s →
        let d := s.domOf
        let last := fun (q : SeqId) => r.mask.getLsbD (seqCode q) = true ∨
          ∀ x ∈ s.ctx.rgns, x.num ≠ n → x.mask.getLsbD (seqCode q) = false
        ∃ u, exec (.harvestCommit n) s = .next u ∧ (∀ x ∈ u.ctx.rgns, x.num ≠ n) ∧
          (∀ q ∈ listedSeqs r.mask, (u.ctx.seqs.get q).atE = false ∧ (u.ctx.seqs.get q).rgn = none) ∧
          (last .st → u.ctx.sbuf = [] ∧ ((s.ctx.sbuf.map fun e => (e.sp, e.block)).Nodup →
            ∀ e ∈ s.ctx.sbuf, e.sp ≠ .host → e.sp ≠ .peer → (e.sp = .carve → s.ctx.pushes = [] ∧ s.ctx.ends = []) →
              ∀ k < 64, e.mask.getLsbD k = true → u.byteAt (e.place k) = e.data.extractLsb' (8 * k) 8)) ∧
          (last .sc → u.ctx.pushes = [] ∧ u.ctx.ends = [] ∧ ∀ id x, s.edge d id = some x →
            let mine := s.ctx.pushes.filter fun p => p.edge == id
            ∃ y, u.edge d id = some y ∧ (y.slots.countP (· == .published)) = (x.slots.countP (· == .published)) + mine.length ∧
              (∃ pre, y.slots = pre ++ List.replicate mine.length .published) ∧
              (mine = s.ctx.pushes → (s.dom d).steps.Nodup → x.ring.toNat % 64 = 0 →
                x.ring.toNat + 64 * x.depth ≤ (s.dom d).carveLen →
                ∀ j p, mine[j]? = some p → u.slotRec d y (y.slots.length - mine.length + j) = p.bits)))

/-! ## Scheduling and leases (spec/16 R395 to R398, spec/18 R413 to R417), domains and registers (R418 to R430) -/

/-- What a context keeps while it is not on its core (R61). -/
structure Sys2Proof.Claims.Kept (c k : Ctx) : Prop where
  regs : k.s = c.s ∧ k.v = c.v ∧ k.p = c.p ∧ k.o = c.o
  queues : k.q = c.q ∧ k.vq = c.vq ∧ k.bo = c.bo ∧ k.defq = c.defq ∧ k.dmask = c.dmask
  control : k.tok = c.tok ∧ k.fpctl = c.fpctl ∧ k.fpflg = c.fpflg ∧ k.engflg = c.engflg ∧ k.cesr = c.cesr ∧ k.srs = c.srs
  caps : k.table = c.table ∧ k.task = c.task ∧ k.pend = c.pend
  engines : k.cpy = c.cpy ∧ k.mat = c.mat ∧ k.spa = c.spa ∧ k.xf = c.xf ∧ k.col = c.col ∧ k.nest = c.nest ∧ k.csr = c.csr ∧
    k.csrc = c.csrc ∧ k.srt = c.srt
  pcs : ∀ q, (k.seqs.get q).pc = (c.seqs.get q).pc ∧ (k.seqs.get q).lc = (c.seqs.get q).lc ∧
    (k.seqs.get q).run = (c.seqs.get q).run ∧ (k.seqs.get q).latch = (c.seqs.get q).latch

/-- R61, R396, R55: a context that dispatch chooses takes a core without a resident: it is in focus with all that it kept, its record
is resident, and one that was PARKED is in the state it left. A core with a resident, or a context that is not chosen, changes
nothing. -/
def Sys2Proof.Claims.Restores : Prop :=
  ∀ (id : CtxId) (s : State),
    (s.bindOf id = none → exec (.contextRestore id) s = .next s) ∧
    ∀ b, s.bindOf id = some b →
      (∀ r, s.residentOf b.row = some r → exec (.contextRestore id) s = .next s) ∧
      (s.residentOf b.row = none → (∀ x, s.choose b.row = some x → x.pos ≠ b.pos) → exec (.contextRestore id) s = .next s) ∧
      (s.residentOf b.row = none → (∃ x, s.choose b.row = some x ∧ x.pos = b.pos) → (s.focus id).ctx.id = id →
        ∃ u, exec (.contextRestore id) s = .next u ∧ u.ctx.id = id ∧ Kept (s.focus id).ctx u.ctx ∧
          u.ctx.cst = (if (s.focus id).ctx.cst = .parked then (s.focus id).ctx.was else (s.focus id).ctx.cst) ∧
          ∀ r ∈ u.binds, r.ctxId = id → r.res = true)

/-- R59, R61, R302, R414: a context that gives up its core keeps all it holds, is PARKED if it ran or slept, has no entry left in the
matrix and gather queues, and the lease of its partition's bank is held no more. -/
def Sys2Proof.Claims.GivesUpCore : Prop :=
  ∀ s : State, Kept s.ctx s.unseat.ctx ∧
    (s.ctx.cst = .run ∨ s.ctx.cst = .sleep → s.unseat.ctx.cst = .parked ∧ s.unseat.ctx.was = s.ctx.cst) ∧
    (∀ e ∈ s.unseat.core.matq ++ s.unseat.core.gathq, e.own ≠ s.ctx.id) ∧
    s.unseat.core.matq = s.core.matq.filter (fun e => !(e.own == s.ctx.id)) ∧
    (s.ctx.id.harv = false → s.unseat.part.lease ≠ .held ∧ s.unseat.part.lease ≠ .revoking) ∧
    s.unseat.core.spad = s.core.spad ∧ s.unseat.core.tiles = s.core.tiles ∧ s.unseat.doms = s.doms ∧ s.unseat.mem = s.mem

/-- R59, R396, R398: the resident context that is outranked gives up its core after its clocks of residency and the chosen one takes
it; one that is not, and a row without a resident, stay as they are. -/
def Sys2Proof.Claims.PreEmptions : Prop :=
  ∀ s : State, let row := rowOf s.ctx.id.loc
    (s.residentOf row = none → exec .preEmption s = .next s) ∧
    ∀ b, s.residentOf row = some b →
      (s.outranked b = false → exec .preEmption s = .next s) ∧
      (s.outranked b = true → ∃ n ≤ 4096, exec .preEmption s =
        .next ((({ s with fresh := s.fresh + 1 } : State).unseatAt b.ctxId n).fill b.row))

/-- R396, R397, R395: at the end of a quantum PASS of the resident record, 48 bits wide, rises by its stride, 2^20 / TICKETS; the context stays when it is
chosen again, and otherwise the chosen one takes the core. -/
def Sys2Proof.Claims.Quanta : Prop :=
  ∀ s : State, let row := rowOf s.ctx.id.loc
    (s.residentOf row = none → exec .quantumExpiry s = .next s) ∧
    ∀ b, s.residentOf row = some b →
      let t := s.modBind b.ctxId fun x => { x with pass := x.pass + BitVec.ofNat 48 (2 ^ 20 / x.tickets.toNat) }
      ((∀ x, t.choose b.row = some x → x.pos = b.pos) → exec .quantumExpiry s = .next t) ∧
      (∀ x, t.choose b.row = some x → x.pos ≠ b.pos → exec .quantumExpiry s = .next ((t.unseatAt b.ctxId 0).fill b.row))

/-- R396, R397: dispatch chooses an eligible record of the row, and under stride none with a lesser PASS, nor one with the same and a
lower position, is eligible there. -/
def Sys2Proof.Claims.StrideChoice : Prop :=
  ∀ (row : Nat) (s : State), (∀ b ∈ s.binds, b.pol ≠ 1) →
    (∀ x, s.choose row = some x → x ∈ s.binds ∧ x.row = row ∧ s.eligible x = true ∧
      ∀ y ∈ s.binds, y.row = row → s.eligible y = true → x.pass < y.pass ∨ x.pass = y.pass ∧ x.pos.toNat ≤ y.pos.toNat) ∧
    (s.choose row = none ↔ ∀ y ∈ s.binds, y.row = row → s.eligible y = false)

/-- R398: a launch whose deadline has come under the deadline policy is marked missed, once, and one DLMISS is stamped when its queue
has room; for any other nothing happens. -/
def Sys2Proof.Claims.DeadlineMisses : Prop :=
  ∀ (k : BitVec 32) (s : State),
    (s.allLaunches[k.toNat]? = none → exec (.deadlineMiss k) s = .next s) ∧
    ∀ d g l, s.allLaunches[k.toNat]? = some (d, g, l) →
      (s.missedNow d l = false → exec (.deadlineMiss k) s = .next s) ∧
      (s.missedNow d l = true → ∃ u, exec (.deadlineMiss k) s = .next u ∧
        (∀ y ∈ (u.dom d).graphs, y.id = g.id → l ∉ y.launches) ∧
        (∀ x, s.findQ d l.queue = some x → s.eqRoom d x = true → u.arbseq = s.arbseq + 1))

/-- R414, R415, R413: a parked lease is held once the owner of its partition sleeps or is done, is latency-critical and consents; a held
one is revoked when the owner demands its slot; in any other state neither happens. The context that the lease lets issue is PARKED
no more (R55). -/
def Sys2Proof.Claims.LeaseSteps : Prop :=
  ∀ (l : Loc) (s : State),
    ((s.partAt l).lease ≠ .parked → exec (.harvestHeld l) s = .next s) ∧
    (∀ h, s.harvestOf l = some h → s.mayHold l h = false → exec (.harvestHeld l) s = .next s) ∧
    (∀ h, s.harvestOf l = some h → (s.partAt l).lease = .parked → s.mayHold l h = true → (s.partAt l).restart = false →
      ∃ u, exec (.harvestHeld l) s = .next u ∧ u.partAt l = { s.partAt l with lease := .held, restart := false } ∧
        u.ctx = if s.ctx.id = h.id then s.ctx.unpark else s.ctx) ∧
    ((s.partAt l).lease ≠ .held → exec (.harvestRevocation l) s = .next s) ∧
    ((s.partAt l).lease = .held → ∃ u, exec (.harvestRevocation l) s = .next u ∧
      u.partAt l = { s.partAt l with lease := .revoking } ∧ u.ctx = s.ctx ∧ u.others = s.others)

/-- R413: a harvest node of no loaded graph is placed nowhere, and neither is anything while the firmware pair disagrees; a node of a
loaded graph whose image is a sound harvest kernel, that CTXMAX lets have one context more, is placed in a bank that fits it: its
context stands there PARKED at the start of its streams, and the bank's lease is PARKED (R55, R414). -/
def Sys2Proof.Claims.Placements : Prop :=
  (∀ (g : BitVec 32) (n : BitVec 16) (l : Loc) (s : State),
    (s.pkg.cmperr = true ∨ ∀ d x, x ∈ (s.dom d).graphs → x.id ≠ g) → exec (.harvestPlacement g n l) s = .next s) ∧
  (∀ (k : Kern) (b : Bind) (l : Loc) (s : State), (∃ c, s.coreAt l.sock l.core = some c) →
    ((s.placeHarvest k b l).partAt l).lease = .parked ∧ ((s.placeHarvest k b l).partAt l).restart = false ∧
    ∃ c ∈ (s.placeHarvest k b l).ctxs, c.id = { loc := l, pos := 0, harv := true } ∧ c.bnd = b ∧ c.cst = .parked ∧ c.was = .run) ∧
  (∀ (d : BitVec 4) (g : Graph) (n : BitVec 512) (k : Kern) (node : BitVec 16) (l : Loc) (s : State),
    let m := s.mergeAll
    let off : BitVec 32 := n.extractLsb' 128 32
    let b0 := k.bind d g.id g.job g.code off n
    let caps := m.tmplCaps d b0.tmpl
    let b := { b0 with tmpl := caps.1 }
    s.pkg.cmperr = false → s.gangs = [] → (s.dom d).graphs = [g] → (∀ c, c ≠ d → (s.dom c).graphs = []) →
    g.nodes.find? (fun n => (n.extractLsb' 0 16 : BitVec 16) == node) = some n →
    m.readKern d g.code.toNat off.toNat = .ok k → k.harv = true → k.fails off.toNat (n.toNat / 2 ^ 32 % 2 ^ 4) = [] →
    m.ctxRoom d g n = true → caps.2.bankFits d n b l = true →
    ∃ u, exec (.harvestPlacement g.id node l) s = .next u ∧ (u.partAt l).lease = .parked ∧ (u.partAt l).restart = false ∧
      ∃ c ∈ u.ctxs, c.id = { loc := l, pos := 0, harv := true } ∧ c.bnd = b ∧ c.cst = .parked ∧ c.was = .run)

/-- R418, R420, R109: a write of word 0 that sets EN enables the domain, with queue 0 as Q0CFG describes it and CFGERR 0, unless its
cores, carve, vectors, shares or queue 0 cannot stand, and then CFGERR is 1 and EN stays 0; other writes are not this event's. The
records of words of its tables that stand in no present memory (R19) go to that queue (log entry 42). -/
def Sys2Proof.Claims.DomainEnable : Prop :=
  ∀ (d : BitVec 4) (v : Word) (s : State),
    (v.getLsbD 4 = false ∨ (s.dom d).en = true → exec (.domcfgEnable d v) s = .next s) ∧
    (v.getLsbD 4 = true → (s.dom d).en = false → ∃ u, exec (.domcfgEnable d v) s = .next u ∧
      let t := s.writeWord0 d v
      let m := t.mergeAll
      let x := t.dom d
      let bad := m.overlaps d (m.coreMasks x) (m.carveList x) || x.nvec == 0 || m.sharesBad d x || m.q0Bad d x
      (bad = true → (u.dom d).en = false ∧ ((u.dom d).cfg.get 0).getLsbD 9 = true) ∧
      (bad = false → (u.dom d).en = true ∧ ((u.dom d).cfg.get 0).getLsbD 9 = false ∧ (∃ q, (u.dom d).queues = [q] ∧ q.num = 0) ∧
        (m.tablesMissed x = [] → (u.dom d).queues = [x.queue0]) ∧ (u.dom d).cores = m.coreMasks x))

/-- R423, R425: a reset of a domain sets RBUSY and leaves it without buffers, exports, queues and graphs, with zeros in its carve,
without switched jobs and without writes of its own on their way; its end clears RBUSY and, in an enabled domain, queue 0 is there again; a function-level reset of its VF is such a
reset, one of the PF changes none of this. -/
def Sys2Proof.Claims.DomainResets : Prop :=
  ∀ (d : BitVec 4) (s : State),
    let gone := fun (u : State) => (u.dom d).rbusy = true ∧ (u.dom d).reg = [] ∧ (u.dom d).exps = [] ∧ (u.dom d).queues = [] ∧
      (u.dom d).pageq = none ∧ (u.dom d).graphs = [] ∧ (∀ g ∈ u.gangs, g.dom ≠ d) ∧ (∀ p ∈ u.peers, p.dom ≠ d) ∧
      (∀ k ∈ (u.dom d).steps, ∀ a, a / 2 ^ 25 = k.toNat → u.byteAt { sp := .carve, a := a } = 0) ∧
      ∀ k b j, (k, b) ∈ u.jcbs → b = some j → j.dom ≠ d
    (∀ v : Word, v.getLsbD 7 = true → ∃ u, exec (.domcfgRst d v) s = .next u ∧ gone u) ∧
    (∀ v : Word, v.getLsbD 7 = false → exec (.domcfgRst d v) s = .next s) ∧
    (∃ u, exec (.vfFlr d) s = .next u ∧ gone u) ∧ exec .pfFlr s = .next s ∧
    ((s.dom d).rbusy = false → exec (.domainResetEnd d) s = .next s) ∧
    ((s.dom d).rbusy = true → ∃ u, exec (.domainResetEnd d) s = .next u ∧ (u.dom d).rbusy = false ∧ (u.dom d).en = (s.dom d).en ∧
      (u.dom d).queues = if (s.dom d).en then [(s.dom d).queue0] else [])

/-- R418, R427, R428, R441, R4: a register write of words 1 to 7 of DOMCFG, of HOSTCFG or of Q0CFG of a domain that is not enabled
changes the bits of its fields, and of an enabled one nothing; an offset that is not a multiple of 8, or holds no register, changes
nothing. Both the PF's registers and the VF's BAR0 read a domain's DOMCFG (R431). -/
def Sys2Proof.Claims.RegisterWrites : Prop :=
  ∀ (off : BitVec 24) (v : Word) (s : State), let o := off.toNat
    (o % 8 ≠ 0 ∨ o < 0x1000 ∨ 0x1400 ≤ o ∧ o < 0x2000 ∨ 0x2200 ≤ o ∧ o < 0x3000 ∨ 0x3400 ≤ o →
      exec (.registerWrite off v) s = .next s) ∧
    (∀ (d : BitVec 4) (n : Nat), (o = 0x1000 + 64 * d.toNat + 8 * n ∧ 0 < n ∧ n < 8 ∨ o = 0x2000 + 32 * d.toNat + 8 * n ∧ n < 4 ∨
        o = 0x3000 + 64 * d.toNat + 8 * n ∧ n < 8) →
      ((s.dom d).en = true → exec (.registerWrite off v) s = .next s) ∧
      ((s.dom d).en = false → ∃ u, exec (.registerWrite off v) s = .next u ∧ (∀ e, e ≠ d → u.dom e = s.dom e) ∧ u.ctx = s.ctx ∧
        (o < 0x2000 → vget (u.dom d).cfg n = (v &&& cfgMask n) ||| (vget (s.dom d).cfg n &&& ~~~(cfgMask n))) ∧
        (0x2000 ≤ o → o < 0x3000 → vget (u.dom d).host n = (v &&& hostMask n) ||| (vget (s.dom d).host n &&& ~~~(hostMask n))) ∧
        (0x3000 ≤ o → vget (u.dom d).q0 n = (v &&& q0Mask n) ||| (vget (s.dom d).q0 n &&& ~~~(q0Mask n))))) ∧
    (∀ d : BitVec 4, ∀ n < 8, s.vfReg d (8 * n) = s.pfReg (0x1000 + 64 * d.toNat + 8 * n) ∧
      s.vfReg d (8 * n) = vget (s.dom d).cfg n)

/-- R430: a host access of no byte, or to a domain that is not enabled, does nothing; a write over resident pages of host order and
plain layout writes its bytes where they are, and a read is completed with them; one that passes the address space is reported to
queue 0 and writes nothing, and a read is then completed as an Unsupported Request. -/
def Sys2Proof.Claims.HostAperture : Prop :=
  ∀ (d : BitVec 4) (off : BitVec 36) (len : BitVec 13) (wr : Option (List Byte)) (s : State),
    let va := ((s.dom d).host.get 2).toNat % 2 ^ 52 + off.toNat
    (len = 0 ∨ (s.dom d).en = false → exec (.apertureAccess d off len wr) s = .next s) ∧
    (len ≠ 0 → (s.dom d).en = true → 2 ^ 52 < va + len.toNat → ∃ u, exec (.apertureAccess d off len wr) s = .next u ∧
      u.mem = s.mergeAll.mem ∧ u.ctx.s = s.ctx.s ∧
      u.pkg.resps = if wr = none then s.pkg.resps ++ [.unsupported] else s.pkg.resps) ∧
    (∀ ps, len ≠ 0 → (s.dom d).en = true → va + len.toNat ≤ 2 ^ 52 → wr = none →
      s.mergeAll.aperturePlaces d (frames va len.toNat) = some ps →
      exec (.apertureAccess d off len wr) s = .next { s.mergeAll with
        pkg := { s.mergeAll.pkg with resps := s.mergeAll.pkg.resps ++ [.bytes (ps.map s.mergeAll.byteAt)] } }) ∧
    (∀ bs ps, len ≠ 0 → (s.dom d).en = true → va + len.toNat ≤ 2 ^ 52 → wr = some bs → bs.length = len.toNat →
      s.mergeAll.aperturePlaces d (frames va len.toNat) = some ps → ps.length = len.toNat → ps.Nodup → Canon s →
      ∃ u, exec (.apertureAccess d off len wr) s = .next u ∧ (∀ k < ps.length, ∃ p b, ps[k]? = some p ∧ bs[k]? = some b ∧ u.byteAt p = b) ∧
        ∀ p ∉ ps, u.byteAt p = s.mergeAll.byteAt p)

/-! ## Packets of the host (spec/17 R385 to R399) -/

/-- The packet is the one that the worker of its queue takes next, and its opcode is `op` (R383, R387, R399). -/
structure Sys2Proof.Claims.Taken (k : Pkt) (x : SubQ) (op : Nat) (s : State) : Prop where
  runs : s.running = true
  next : s.nextQueue k.dom (workerOf k.queue) = some x
  queue : x.num = k.queue
  bits : s.headPkt k.dom x = k.bits
  op : k.bits.toNat % 256 = op
/-- The packet's reserved header bits are 0, and so are the operand bits that its row leaves out (R387, R388). -/
def Sys2Proof.Claims.CleanPkt (k : Pkt) (zero : List (Nat × Nat)) : Prop :=
  k.bits.toNat / 2 ^ 10 % 2 ^ 22 = 0 ∧ ∀ z ∈ zero, k.bits.toNat / 2 ^ z.1 % 2 ^ z.2 = 0
/-- The state once the host has answered the reading of the packet, and its queue is charged for it (R397, R429). -/
def Sys2Proof.Claims.asked (k : Pkt) (x : SubQ) (s : State) : State := (s.hostAnswer k.dom).2.chargeQueue k.dom x
/-- The state after a packet of queue x is taken at s and comes to an end; a ring that the host does not let be read holds the queue
with a QERR record of cause 3 instead (R392, R429). -/
def Sys2Proof.Claims.taken (k : Pkt) (x : SubQ) (e : PktEnd) (s : State) : State :=
  if (s.hostAnswer k.dom).1 then (s.hostAnswer k.dom).2.qerrIndex k.dom x.num 3 else (asked k x s).endPkt k.dom x k.bits e
/-- The state after a packet that is taken at s, and leads to t, completes with a status and a result. -/
def Sys2Proof.Claims.finished (k : Pkt) (x : SubQ) (status : Nat) (result : Word) (s t : State) : State :=
  taken k x (.done status result t) s
/-- The state after a packet that is taken at s is refused. -/
def Sys2Proof.Claims.refused (k : Pkt) (x : SubQ) (r : Refuse) (s : State) : State := taken k x (.refuse r) s

/-- The rows that take packets, with their opcodes and the operand bits that they leave out. -/
noncomputable def Sys2Proof.Claims.packetRows : List ((Pkt → Instr) × Nat × List (Nat × Nat)) :=
  [(.gload, 1, [(224, 288)]), (.gunload, 2, [(96, 416)]), (.launch, 3, [(268, 3), (272, 240)]), (.jcbnew, 4, [(112, 16), (224, 288)]),
   (.jcbfree, 5, [(76, 436)]), (.bufnew, 6, [(198, 314)]), (.expwd, 8, [(128, 384)]), (.pteset, 9, [(192, 320)]),
   (.ctrrd, 10, [(78, 50), (192, 320)])]

/-- R387, R388, R392, R399: a packet that is not the one the worker takes, or that comes while the firmware does not run, is left
where it is; one with a reserved bit set is refused with cause 0x01, one with an opcode that no row has with cause 0x02. -/
def Sys2Proof.Claims.PacketsTaken : Prop :=
  ∀ p ∈ packetRows, ∀ (k : Pkt) (s : State),
    ((∀ x, s.nextQueue k.dom (workerOf k.queue) = some x → s.running = false ∨ x.num ≠ k.queue ∨ s.headPkt k.dom x ≠ k.bits) →
      exec (p.1 k) s = .next s) ∧
    (∀ x op, Taken k x op s → op = 0 ∨ 0x0E < op → exec (p.1 k) s = .next (refused k x (.cause 2) s)) ∧
    (∀ x op, Taken k x op s → 0 < op → op ≤ 0x0E → op ≠ p.2.1 → exec (p.1 k) s = .next s) ∧
    (∀ x, Taken k x p.2.1 s → ¬CleanPkt k p.2.2 → exec (p.1 k) s = .next (refused k x (.cause 1) s))

/-- R387, R393: a packet that completes leaves its queue past it: SQHEAD rises by one, there and in the control block, and unless it
asked for none and succeeded a status entry with its TAG, OP, STATUS and RESULT is stamped and written at the status ring's tail. A
write that the host refuses is lost (R429). -/
def Sys2Proof.Claims.PacketsComplete : Prop :=
  ∀ (d : BitVec 4) (x : SubQ) (b : BitVec 512) (status : Nat) (result : Word) (s : State), s.findQ d x.num = some x → Canon s →
    s.stRoom d x = true → x.stwait = [] → status < 256 → s.queueReadable d x = true →
    x.stat.toNat + 32 * 2 ^ x.n ≤ x.ctl.toNat →
    let silent := b.getLsbD 9 = true ∧ status = 0
    let u := s.completePkt d x.num b status result
    (Config.freeBool (u.fresh - 1) = false → u.getIdx d x.ctl 0x04 = x.sqhead + 1) ∧ (∃ y, u.findQ d x.num = some y ∧ y.sqhead = x.sqhead + 1 ∧ y.taken = false ∧
      y.sttail = if silent then x.sttail else x.sttail + 1) ∧
    (¬silent → u.arbseq = s.arbseq + 1 ∧
      let at_ := fun (o n : Nat) => leNat (u.hostBytes d (x.stat.toNat + 32 * (x.sttail.toNat % 2 ^ x.n) + o) n)
      (Config.freeBool (s.stLook d x).2.fresh = false → at_ 0 4 = b.toNat / 2 ^ 32 % 2 ^ 32 ∧ at_ 4 1 = b.toNat % 256 ∧ at_ 5 1 = status ∧ at_ 8 8 = result.toNat ∧
      at_ 16 8 = s.arbseq.toNat ∧ at_ 24 8 = s.gts.toNat))

/-- R385, R392, R431: a doorbell of a queue that there is none of, or while the firmware does not run, does nothing; of a queue whose
parts lie in the host window it reads SQTAIL, when that is no more than the ring ahead; one that cannot be read, or stands further
ahead, holds the queue, and a queue that is held reads it when it is released (R394, R429). -/
def Sys2Proof.Claims.Doorbells : Prop :=
  ∀ (d : BitVec 4) (q : BitVec 6) (s : State),
    (s.running = false ∨ s.findQ d q = none → exec (.doorbell d q) s = .next s) ∧
    ∀ x, s.running = true → s.findQ d q = some x → x.stwait = [] →
      (x.held d = false → s.queueReadable d x = true →
        ∃ u y, exec (.doorbell d q) s = .next u ∧ u.findQ d q = some y ∧ y.sqhead = x.sqhead ∧
          (if Config.freeBool s.fresh = true ∨ 2 ^ x.n < (s.getIdx d x.ctl 0 - x.sqhead).toNat then
              y.held d = true ∧ y.sqtail = x.sqtail
            else y.sqtail = s.getIdx d x.ctl 0 ∧ u.mem = s.mem ∧ u.ctx = s.ctx)) ∧
      (x.held d = true → ∃ u y, exec (.doorbell d q) s = .next u ∧ u.findQ d q = some y ∧ y.bell = true ∧ y.sqtail = x.sqtail ∧
        u.ctx = s.ctx)

/-- R386, R388: QNEW on queue 0 with sound operands creates the queue with its counts at 0; one on another queue is refused with cause
0x02. The causes of a queue that exists or a misaligned offset are the model's (log entry 24). -/
def Sys2Proof.Claims.QueueCreation : Prop :=
  ∀ (k : Pkt) (x : SubQ) (s : State), Taken k x 0x0D s →
    let w := fun (i n : Nat) => (k.bits.extractLsb' i n : BitVec n)
    let q : BitVec 6 := w 64 6
    (x.num ≠ 0 → exec (.qnew k) s = .next (refused k x (.cause 2) s)) ∧
    (x.num = 0 → CleanPkt k [(71, 1), (80, 48), (400, 112)] → k.bits.getLsbD 70 = false → (w 72 4).toNat ≤ 12 → (w 76 4).toNat ≤ 12 →
      w 384 16 ≠ 0 →
      (∀ y, s.findQ k.dom q = some y → exec (.qnew k) s = .next (refused k x (.cause 6) s)) ∧
      (s.findQ k.dom q = none → (w 128 64).toNat % 64 = 0 → (w 192 64).toNat % 32 = 0 → (w 256 64).toNat % 64 = 0 →
        (w 320 64).toNat % 64 = 0 →
        ∃ t, exec (.qnew k) s = .next (finished k x 0 0 s t) ∧ t.findQ k.dom q =
          some (newQueue q ((w 72 4).toNat + 4) ((w 76 4).toNat + 4) (w 128 64) (w 192 64) (w 256 64) (w 320 64) (w 384 16))))

/-- R388: QEND on queue 0 ends a queue, at once when none of its packets is taken, else when they have completed; a packet whose status
entry still waits for room has not (R387). -/
def Sys2Proof.Claims.QueueEnds : Prop :=
  ∀ (k : Pkt) (x : SubQ) (s : State), Taken k x 0x0E s → CleanPkt k [(70, 442)] →
    let q : BitVec 6 := k.bits.extractLsb' 64 6
    (x.num ≠ 0 → exec (.qend k) s = .next (refused k x (.cause 2) s)) ∧
    (x.num = 0 → ∀ y, s.findQ k.dom q = some y → q ≠ 0 → y.taken = false → y.stwait = [] →
      ∃ t, exec (.qend k) s = .next (finished k x 0 0 s t) ∧ t.findQ k.dom q = none) ∧
    (x.num = 0 → ∀ y, s.findQ k.dom q = some y → q ≠ 0 → y.taken = true ∨ y.stwait ≠ [] →
      ∃ t z, exec (.qend k) s = .next (finished k x 0 0 s t) ∧ t.findQ k.dom q = some z ∧ z.ending = true)

/-- R388: GLOAD of bytes that cannot be read, or of a code object beyond 2^52 (the model's cause, log entry 25), is refused with cause 0x05, of a graph that R64 to R67 turn away with cause 0x07; a refusal
by a node's bind is the packet's; otherwise RESULT is the graph's number and the domain holds the graph. -/
def Sys2Proof.Claims.GraphLoads : Prop :=
  ∀ (k : Pkt) (x : SubQ) (s : State), Taken k x 1 s → CleanPkt k [(224, 288)] →
    let m := (asked k x s).mergeAll
    let bytes := if k.bits.toNat / 2 ^ 128 % 2 ^ 64 < 2 ^ 52 then
      m.vaBytes k.dom (k.bits.toNat / 2 ^ 64 % 2 ^ 64) (k.bits.toNat / 2 ^ 192 % 2 ^ 32) else none
    (bytes = none → exec (.gload k) s = .next (refused k x (.cause 5) s)) ∧
    ∀ bs, bytes = some bs → let g? := m.parseGraph k.dom x.num (k.bits.extractLsb' 128 52) bs
      (g? = none → exec (.gload k) s = .next (refused k x (.cause 7) s)) ∧
      ∀ g, g? = some g → let b := bindNodes k.dom x g g.nodes (m.modDom k.dom fun y => { y with graphs := y.graphs ++ [g] })
        (∀ r, b = .error r → exec (.gload k) s = .next (refused k x r s)) ∧
        ∀ t, b = .ok t → exec (.gload k) s =
          .next (finished k x 0 (g.id.zeroExtend 64) s (g.nodes.foldl (fun s n => s.placeNode k.dom x.num g n) t))

/-- R64, R65: a graph that is loaded has 1 to 1,024 nodes and 1 to 4,096 edges, under the queue, number and job its header gives, and
each edge starts empty. -/
def Sys2Proof.Claims.GraphHeaders : Prop :=
  ∀ (s : State) (d : BitVec 4) (q : BitVec 6) (code : BitVec 52) (bs : List Byte) (g : Graph), s.parseGraph d q code bs = some g →
    64 ≤ bs.length ∧ 1 ≤ g.nodes.length ∧ g.nodes.length ≤ 1024 ∧ 1 ≤ g.edges.length ∧ g.edges.length ≤ 4096 ∧ g.queue = q ∧
    g.code = code ∧ (∀ y ∈ (s.dom d).graphs, y.id ≠ g.id) ∧ (∀ e ∈ g.edges, e.slots = [] ∧ e.head = 0 ∧ 1 ≤ e.log2d ∧ e.log2d ≤ 16) ∧
    s.edgeCount + g.edges.length ≤ 16384

/-- R388: GUNLOAD of a graph that is not loaded is refused with cause 0x03; a loaded one is a graph of its domain no longer, and no
context of it stands saved. -/
def Sys2Proof.Claims.GraphUnloads : Prop :=
  ∀ (k : Pkt) (x : SubQ) (s : State), Taken k x 2 s → CleanPkt k [(96, 416)] →
    let g : BitVec 32 := k.bits.extractLsb' 64 32
    ((∀ y ∈ (s.dom k.dom).graphs, y.id ≠ g) → exec (.gunload k) s = .next (refused k x (.cause 3) s)) ∧
    ((∃ y ∈ (s.dom k.dom).graphs, y.id = g) → ∃ t, exec (.gunload k) s = .next (finished k x 0 0 s t) ∧
      (∀ y ∈ (t.dom k.dom).graphs, y.id ≠ g) ∧ ∀ y ∈ t.gangs, ∀ c ∈ y.ctxs, ¬(c.bnd.dom = k.dom ∧ c.bnd.graph = g))

/-- R391, R71: a launch of a graph that is not loaded is refused with cause 0x03; of an edge that the graph lacks, that has a source node
or is shallower than its records with cause 0x04; of records misaligned or beyond the host window with cause 0x05. A sound one is
appended when its edge has room, and when it has none it waits with its queue taken, its deadline known (R398); records that the host does not let be read are
refused with cause 0x05 (R429). -/
def Sys2Proof.Claims.Launches : Prop :=
  ∀ (k : Pkt) (x : SubQ) (s : State), Taken k x 3 s → CleanPkt k [(268, 3), (272, 240)] →
    let c := asked k x s
    let h := c.hostAnswer k.dom
    let n := if k.bits.toNat / 2 ^ 112 % 2 ^ 16 = 0 then 65536 else k.bits.toNat / 2 ^ 112 % 2 ^ 16
    let ptr := k.bits.toNat / 2 ^ 128 % 2 ^ 64
    let gr : BitVec 32 := k.bits.extractLsb' 64 32
    let ed : BitVec 16 := k.bits.extractLsb' 96 16
    (s.graph k.dom gr = none → exec (.launch k) s = .next (refused k x (.cause 3) s)) ∧
    (∀ g, s.graph k.dom gr = some g → g.edges.find? (fun e => e.num == ed) = none →
      exec (.launch k) s = .next (refused k x (.cause 4) s)) ∧
    (∀ g e, s.graph k.dom gr = some g → g.edges.find? (fun e => e.num == ed) = some e →
      (e.src ≠ 0xFFFF ∨ 2 ^ e.log2d < n → exec (.launch k) s = .next (refused k x (.cause 4) s)) ∧
      (e.src = 0xFFFF → n ≤ 2 ^ e.log2d → ptr % 64 ≠ 0 ∨ (s.dom k.dom).hwlen < ptr + 64 * n →
        exec (.launch k) s = .next (refused k x (.cause 5) s))) ∧
    (c.launchBad k.dom k.bits false = none →
      let lost : PktEnd := .refuseIn (.cause 5) h.2
      (c.launchRoom k.dom k.bits = true →
        exec (.launch k) s = .next (taken k x (if h.1 then lost else .done 0 0 (h.2.appendLaunch k.dom x k.bits)) s)) ∧
      (c.launchRoom k.dom k.bits = false →
        let w := h.2.modGraph k.dom gr fun g => { g with launches := g.launches ++ [launchOf x k.bits none] }
        exec (.launch k) s = .next (taken k x (if h.1 then lost else .wait w) s) ∧
        let u := c.endPkt k.dom x k.bits (.wait w)
        (∀ g, (u.graph k.dom g).map (·.edges) = (s.graph k.dom g).map (·.edges)) ∧
        ∀ y, u.findQ k.dom x.num = some y → y.taken = true))

/-- R71, R391: the launch that waits at the head of its queue, its checks passed, is appended once its edge has room, and at no other
time. -/
def Sys2Proof.Claims.WaitingLaunches : Prop :=
  ∀ (d : BitVec 4) (q : BitVec 6) (s : State),
    (s.findQ d q = none → exec (.launchAppend d q) s = .next s) ∧
    ∀ x, s.findQ d q = some x → let b := s.headPkt d x
      (x.taken = false ∨ b.toNat % 256 ≠ 3 ∨ s.launchRoom d b = false → exec (.launchAppend d q) s = .next s) ∧
      (s.running = true → x.taken = true → b.toNat % 256 = 3 → s.launchRoom d b = true →
        exec (.launchAppend d q) s = .next (s.endPkt d x b (.done 0 0 (s.appendLaunch d x b))))

/-- R78, R388: JCBNEW takes the lowest free block, whose number is RESULT, with COUNT 0; one created to expect nothing is complete at
once. JCBFREE frees a block of the domain, and no task holds it from then on; the causes of their refusals are the model's (log
entry 25). -/
def Sys2Proof.Claims.Blocks : Prop :=
  (∀ (k : Pkt) (x : SubQ) (s : State) (b : Nat), Taken k x 4 s → CleanPkt k [(112, 16), (224, 288)] →
    b < 4096 → s.jcb (BitVec.ofNat 12 b) = none → (∀ a < b, s.jcb (BitVec.ofNat 12 a) ≠ none) →
    ∃ t j, exec (.jcbnew k) s = .next (finished k x 0 (ofN b) s t) ∧ t.jcb (BitVec.ofNat 12 b) = some j ∧
      j.expect = k.bits.extractLsb' 64 48 ∧ j.count = 0 ∧ j.wake = k.bits.extractLsb' 128 64 ∧ j.job = k.bits.extractLsb' 192 32 ∧
      j.dom = k.dom ∧ j.queue = x.num ∧ (j.done = true ↔ j.expect = 0)) ∧
  (∀ (k : Pkt) (x : SubQ) (s : State), Taken k x 4 s → CleanPkt k [(112, 16), (224, 288)] →
    (∀ b < 4096, s.jcb (BitVec.ofNat 12 b) ≠ none) → exec (.jcbnew k) s = .next (refused k x (.cause 6) s)) ∧
  (∀ (k : Pkt) (x : SubQ) (s : State), Taken k x 5 s → CleanPkt k [(76, 436)] → let b : BitVec 12 := k.bits.extractLsb' 64 12
    (∀ j, s.jcb b = some j → j.dom = k.dom → Canon s → ∃ t, exec (.jcbfree k) s = .next (finished k x 0 0 s t) ∧ t.jcb b = none ∧
      (∀ c ∈ t.ctxs, (∀ w, c.task = some w → w.jcb ≠ some b) ∧ .auto b ∉ c.ends ∧
        ∀ r ∈ c.rgns, ∀ w, r.chk.task = some w → w.jcb ≠ some b) ∧ t.ctx.s = s.ctx.s) ∧
    (s.jcb b = none → exec (.jcbfree k) s = .next (refused k x (.cause 6) s)))

/-- R79, R389: BUFNEW of a sound buffer in a memory instance that is there gives the lowest free index a live entry with one reference,
the runtime's, and answers its name and generation; of an unsound one it is refused with cause 0x06. -/
def Sys2Proof.Claims.BufferCreation : Prop :=
  ∀ (k : Pkt) (x : SubQ) (s : State), Taken k x 6 s → CleanPkt k [(198, 314)] →
    let limit := k.bits.toNat / 2 ^ 64 % 2 ^ 64
    let vbase := k.bits.toNat / 2 ^ 128 % 2 ^ 64
    let home : BitVec 6 := k.bits.extractLsb' 192 6
    (vbase % 65536 ≠ 0 ∨ 2 ^ 52 ≤ limit ∨ 2 ^ 52 ≤ vbase + limit ∨ s.present home = false ∨ classOf home ≠ 5 →
      exec (.bufnew k) s = .next (refused k x (.cause 6) s)) ∧
    (∀ i, vbase % 65536 = 0 → limit < 2 ^ 52 → vbase + limit < 2 ^ 52 → s.present home = true → classOf home = 5 →
      (s.dom k.dom).freeIndex home = some i → ∃ t e, e.live = true ∧ e.refcnt = 1 ∧ e.rtref = true ∧ e.limit.toNat = limit ∧
        e.vbase.toNat = vbase ∧ e.name.toNat = home.toNat + 64 * i ∧ (t.dom k.dom).regOf e.name = some e ∧
        (∀ old, (s.dom k.dom).regOf e.name = some old → e.gen = old.gen) ∧
        exec (.bufnew k) s = .next (finished k x 0 (ofN (e.name.toNat + 2 ^ 32 * e.gen.toNat)) s t))

/-- R81, R82, R388: BUFREL of a domain's only buffer drops the runtime's reference, or, to revoke, frees it with its generation raised
and marks every loaded copy of it stale, and every one that the restart of a region would put back (R58); which of the two a packet asks for is its row's. -/
def Sys2Proof.Claims.BufferRelease : Prop :=
  ∀ (k : Pkt) (x : SubQ) (s : State) (e : RegEnt), Taken k x 7 s → CleanPkt k [(97, 415)] → (s.dom k.dom).reg = [e] →
    e.name = k.bits.extractLsb' 64 32 → e.live = true →
    (k.bits.getLsbD 96 = true → exec (.bufrelDrop k) s = .next s) ∧ (k.bits.getLsbD 96 = false → exec (.bufrelRevoke k) s = .next s) ∧
    (k.bits.getLsbD 96 = false → e.rtref = true → ∃ t, exec (.bufrelDrop k) s = .next (finished k x 0 0 s t) ∧
      (t.dom k.dom).reg = [dropped { e with rtref := false }] ∧ t.ctx = s.ctx) ∧
    (k.bits.getLsbD 96 = true → ∃ t, exec (.bufrelRevoke k) s = .next (finished k x 0 0 s t) ∧
      (∃ f, (t.dom k.dom).reg = [f] ∧ f.live = false ∧ f.name = e.name ∧ (e.gen.toNat < 65535 → f.gen = e.gen + 1) ∧
        (e.gen.toNat = 65535 → f.retired = true)) ∧
      ∀ c ∈ t.ctxs, c.bnd.dom = k.dom → ∀ l ∈ c.table :: c.rgns.map (·.chk.table), ∀ n y, (n, some y) ∈ l →
        capImp y.cap = false → capName y.cap = e.name → capStale y.cap = true)

/-- R256, R388: EXPWD takes away an export that nobody has taken up, with its reference. -/
def Sys2Proof.Claims.ExportWithdrawal : Prop :=
  ∀ (k : Pkt) (x : SubQ) (s : State), Taken k x 8 s → CleanPkt k [(128, 384)] → let key : Word := k.bits.extractLsb' 64 64
    (∀ e f, (s.dom k.dom).exps = [e] → e.key = key → e.used = false → (s.dom k.dom).reg = [f] → f.name = e.name → f.gen = e.gen →
      f.live = true → ∃ t, exec (.expwd k) s = .next (finished k x 0 0 s t) ∧ (t.dom k.dom).exps = [] ∧
        (t.dom k.dom).reg = [dropped f]) ∧
    ((∀ e ∈ (s.dom k.dom).exps, e.key ≠ key ∨ e.used = true) → exec (.expwd k) s = .next (refused k x (.cause 6) s))

/-- R114, R388: PTESET writes the eight bytes of an entry, and neither level of TLB holds a translation whose leaf entry it is; an
address that is no aligned place in memory is refused (cause 0x05, log entry 25). -/
def Sys2Proof.Claims.EntryWrites : Prop :=
  ∀ (k : Pkt) (x : SubQ) (s : State), Taken k x 9 s → CleanPkt k [(192, 320)] → let a := k.bits.toNat / 2 ^ 64 % 2 ^ 64
    (a % 8 ≠ 0 ∨ s.physOk a 8 = false → exec (.pteset k) s = .next (refused k x (.cause 5) s)) ∧
    (a % 8 = 0 → s.physOk a 8 = true → Canon s → ∃ t, exec (.pteset k) s = .next (finished k x 0 0 s t) ∧
      (∀ c ∈ t.allCores, ∀ e ∈ c.tlb, e.leaf.toNat ≠ a) ∧ (∀ m ∈ t.tlb2, ∀ e ∈ m.2, e.leaf.toNat ≠ a) ∧
      (∀ j < 8, t.byteAt { sp := .phys, a := a + j } = k.bits.extractLsb' (128 + 8 * j) 8) ∧
      ((∀ c ∈ s.allCores, c.tlb = [] ∧ c.uol = []) → ∀ p : Place, (p.sp = .phys → p.a < a ∨ a + 8 ≤ p.a) → t.byteAt p = s.byteAt p))

/-- R363, R364, R388: CTRRD writes the sixteen counters of a context's validation block to the host window and clears them; a write
that the host refuses is lost (R429). -/
def Sys2Proof.Claims.CounterReads : Prop :=
  ∀ (k : Pkt) (x : SubQ) (s : State) (b : BindRec), Taken k x 10 s → CleanPkt k [(78, 50), (192, 320)] → Canon s →
    let l : Loc := { sock := k.bits.extractLsb' 64 6, core := k.bits.extractLsb' 70 4, part := k.bits.extractLsb' 74 3 }
    let dst := k.bits.toNat / 2 ^ 128 % 2 ^ 64
    (dst % 64 ≠ 0 ∨ (s.dom k.dom).hwlen < dst + 64 → exec (.ctrrd k) s = .next (refused k x (.cause 5) s)) ∧
    (dst % 64 = 0 → dst + 64 ≤ (s.dom k.dom).hwlen → k.bits.getLsbD 77 = false → s.residentOf (rowOf l) = some b →
      b.ctxId = s.ctx.id → s.ctx.bnd.dom = k.dom →
      ∃ t, exec (.ctrrd k) s = .next (finished k x 0 0 s t) ∧ (∀ n < 16, vget t.ctx.vblk n = 0) ∧ t.ctx.s = s.ctx.s ∧
        (Config.freeBool (asked k x s).fresh = false →
          ∀ n < 16, leNat (t.hostBytes k.dom (dst + 4 * n) 4) = (vget s.ctx.vblk n).toNat))

/-- The rows of an answer by its action (R394). -/
noncomputable def Sys2Proof.Claims.answerRows : List ((Pkt → Instr) × Nat) := [(.answerResume, 0), (.answerSkip, 1), (.answerAbort, 2)]

/-- R394: an answer to a record that is not pending in its domain completes with STATUS 0x03 and changes nothing else. One to a fault of
the context in focus lets its sequencer run again, past the instruction when it skips (but for a fetch fault), the record pending
no more; one that aborts sends the context to IDLE, or ends the queue that was held. -/
def Sys2Proof.Claims.Answers : Prop :=
  ∀ p ∈ answerRows, ∀ (k : Pkt) (x : SubQ) (s : State), Taken k x 0x0B s → CleanPkt k [(130, 382)] →
    let n : Word := k.bits.extractLsb' 64 64
    let act := k.bits.toNat / 2 ^ 128 % 4
    (act ≠ p.2 → act ≠ 3 → exec (p.1 k) s = .next s) ∧
    (act = p.2 → (∀ y ∈ s.pending, y.1 ≠ n) → exec (p.1 k) s = .next (finished k x 3 0 s (asked k x s))) ∧
    (act = p.2 → p.2 ≠ 2 → ∀ q kind, s.pending = [(n, .ctx s.ctx.id q kind)] → s.isBound s.ctx = true → s.ctx.bnd.dom = k.dom →
      kind ≠ 0x81 → kind ≠ 0x07 → s.ctx.cst = .faulted → s.resident s.ctx.id = true →
      (s.ctx.id.harv = false ∨ (s.partAt s.ctx.id.loc).lease = .held) →
      (∀ r, r ≠ q → (s.ctx.seqs.get r).run ≠ .faulted) →
      ∃ t, exec (p.1 k) s = .next (finished k x 0 0 s t) ∧ t.pending = [] ∧ t.ctx.cst = .run ∧ (t.ctx.seqs.get q).run = .running ∧
        (t.ctx.seqs.get q).pc = (s.ctx.seqs.get q).pc ∧ (t.ctx.seqs.get q).skip = (p.2 == 1 && kind != 0x05) ∧ t.ctx.s = s.ctx.s) ∧
    (act = p.2 → p.2 = 2 → ∀ q, s.pending = [(n, .packet k.dom q)] → q ≠ x.num → ∀ y, s.findQ k.dom q = some y →
      ∃ t, exec (p.1 k) s = .next (finished k x 0 0 s t) ∧ t.findQ k.dom q = none) ∧
    (act = p.2 → p.2 = 2 → ∀ q kind, s.pending = [(n, .ctx s.ctx.id q kind)] → s.isBound s.ctx = true → s.ctx.bnd.dom = k.dom →
      s.gangs = [] → (∀ c ∈ s.others, c.id ≠ s.ctx.id) →
      ∃ t, exec (p.1 k) s = .next (finished k x 0 0 s t) ∧ (∀ w, (n, w) ∉ t.pending) ∧
        ∀ c ∈ t.ctxs, c.id = s.ctx.id → c.cst = .idle)

/-! ## The gang switch (spec/18 R401 to R412, R424) -/

/-- The GANGSW packet is the one that the worker takes, it is clean, asks for an action, and its proof area and group are good
(R402 checks 1 and 2). -/
structure Sys2Proof.Claims.TakenGang (k : Pkt) (x : SubQ) (which : Nat) (ms : List (BitVec 12)) (s : State) : Prop where
  taken : Taken k x 0x0C s
  clean : CleanPkt k [(67, 29), (304, 16), (384, 128)]
  action : k.bits.toNat / 2 ^ 64 % 4 = which
  force : k.bits.getLsbD 66 = true → which = 1
  proof : (k.bits.toNat / 2 ^ 192 % 2 ^ 64) % 2 ^ 25 = 0 ∧ k.bits.toNat / 2 ^ 192 % 2 ^ 64 + 2 ^ 25 ≤ (s.dom k.dom).carveLen
  group : s.gangGroup k.dom (k.bits.toNat / 2 ^ 320 % 2 ^ 64) = some ms
/-- The job that a GANGSW packet names. -/
def Sys2Proof.Claims.jobOf (k : Pkt) : BitVec 32 := k.bits.extractLsb' 96 32
/-- The rows of GANGSW by ACTION. -/
noncomputable def Sys2Proof.Claims.gangRows : List ((Pkt → Instr) × Nat) := [(.gangswOut, 0), (.gangswIn, 1), (.gangswSize, 2)]

/-- R402: a GANGSW packet of another action is not this row's; one with a reserved bit, with ACTION 3, or with FORCE on an action that
takes none is refused with cause 0x01, one whose proof area is misaligned or passes the carve with cause 0x05. -/
def Sys2Proof.Claims.GangPacketChecks : Prop :=
  ∀ p ∈ gangRows, ∀ (k : Pkt) (x : SubQ) (s : State), let a := k.bits.toNat / 2 ^ 64 % 4
    (a ≠ p.2 → a ≠ 3 → exec (p.1 k) s = .next s) ∧
    (Taken k x 0x0C s → a = p.2 ∨ a = 3 →
      (¬CleanPkt k [(67, 29), (304, 16), (384, 128)] ∨ a = 3 ∨ (k.bits.getLsbD 66 = true ∧ a ≠ 1) →
        exec (p.1 k) s = .next (refused k x (.cause 1) s)) ∧
      (CleanPkt k [(67, 29), (304, 16), (384, 128)] → a = p.2 → a ≠ 3 → (k.bits.getLsbD 66 = true → a = 1) →
        let pr := k.bits.toNat / 2 ^ 192 % 2 ^ 64
        pr % 2 ^ 25 ≠ 0 ∨ (s.dom k.dom).carveLen < pr + 2 ^ 25 → exec (p.1 k) s = .next (refused k x (.cause 5) s)))

/-- R402, R403: SIZE answers the bytes that an OUT would need now, and OUT opens the proof area and arms the switch, or stops the job at
once when the cutoff has passed; both are refused with cause 0x06 for a job without a bound context or with a switch under way, and
OUT also without a live spill buffer that holds those bytes. -/
def Sys2Proof.Claims.GangStarts : Prop :=
  (∀ (k : Pkt) (x : SubQ) (s : State) (ms : List (BitVec 12)), TakenGang k x 2 ms s →
    (s.gangFree k.dom (jobOf k) = false → exec (.gangswSize k) s = .next (refused k x (.cause 6) s)) ∧
    (s.gangFree k.dom (jobOf k) = true →
      exec (.gangswSize k) s = .next (finished k x 0 (ofN (s.spillNeed k.dom (jobOf k))) s (asked k x s)))) ∧
  (∀ (k : Pkt) (x : SubQ) (s : State) (ms : List (BitVec 12)), TakenGang k x 0 ms s →
    (s.gangFree k.dom (jobOf k) = false ∨ s.spillBuf k.dom k.bits (s.spillNeed k.dom (jobOf k)) = none →
      exec (.gangswOut k) s = .next (refused k x (.cause 6) s)) ∧
    (∀ e, s.gangFree k.dom (jobOf k) = true → s.spillBuf k.dom k.bits (s.spillNeed k.dom (jobOf k)) = some e →
      s.gts.toNat < (k.bits.extractLsb' 128 64 : Word).toNat → (∀ g ∈ s.gangs, g.dom = k.dom → g.job ≠ jobOf k) → Canon s →
      ∃ t g, exec (.gangswOut k) s = .next (taken k x (.wait t) s) ∧ t.findGang k.dom (jobOf k) = some g ∧ g.gst = .armed ∧
        g.members = ms ∧ g.cutoff = k.bits.extractLsb' 128 64 ∧
        t.hdr k.dom g.proof 0 2 = 1 ∧ t.hdr k.dom g.proof 2 1 = 1 ∧ t.hdr k.dom g.proof 4 4 = (jobOf k).toNat ∧
        t.hdr k.dom g.proof 8 8 = g.cutoff.toNat ∧ t.ctx.s = s.ctx.s) ∧
    ∀ (t : State) (y : SubQ), ((asked k x s).endPkt k.dom x k.bits (.wait t)).findQ k.dom x.num = some y → y.taken = true)

/-- The one switch of a job of this number, on a package whose firmware pair agrees (R384, R403). -/
def Sys2Proof.Claims.Switch (job : BitVec 32) (g : Gang) (s : State) : Prop :=
  s.pkg.cmperr = false ∧ s.gangs.filter (fun h => h.job == job) = [g]
/-- No event of this job has a switch to act on (R384, R403). -/
def Sys2Proof.Claims.NoSwitch (job : BitVec 32) (s : State) : Prop := s.pkg.cmperr = true ∨ ∀ g ∈ s.gangs, g.job ≠ job

/-- R404 step 1, R405: the job of the switch stands still in t, as it stood in s: the switch sweeps; no record of a context of the job is
resident, and dispatch gives none a core; no harvest context of the job runs, or holds its lease; every context keeps all that it
holds (R59, R61); and the job's entries have left the copy, collective and transform queues. -/
structure Sys2Proof.Claims.StandsStill (g : Gang) (s t : State) : Prop where
  sweeps : t.findGang g.dom g.job = some { g with gst := .sweep }
  holds : t.gangHolds g.dom g.job = true
  noCore : ∀ b ∈ t.binds, b.dom = g.dom → b.job = g.job → t.eligible b = false
  owners : ∀ c ∈ s.gangCtxs g.dom g.job, c.id.harv = false → (∀ b ∈ s.binds, b.ctxId = c.id → b.dom = g.dom ∧ b.job = g.job) →
    t.resident c.id = false ∧ ∀ b ∈ t.binds, b.ctxId = c.id → b.res = false
  harvests : ∀ c ∈ s.gangCtxs g.dom g.job, c.id.harv = true → (t.partAt c.id.loc).lease ≠ .held ∧
    ∀ k ∈ t.ctxs, k.id = c.id → k.cst ≠ .run ∧ k.cst ≠ .sleep
  kept : ∀ c ∈ s.gangCtxs g.dom g.job, (∀ k ∈ s.ctxs, k.id = c.id → k = c) → ∃ k ∈ t.ctxs, k.id = c.id ∧ k.bnd = c.bnd ∧ Kept c k
  queues : ∀ c ∈ s.gangCtxs g.dom g.job, (∀ k ∈ t.allCores, ∀ e ∈ k.copyq ++ k.colq, e.own ≠ c.id) ∧
    ∀ q ∈ t.xfq, ∀ e ∈ q.2, e.own ≠ c.id

/-- R403, R404, R405, R409: nothing happens before the cutoff or for a job without a switch; at the cutoff the job's contexts stand
still, in each domain that switches a job of that number: the switch sweeps, and no bind record of the job is resident; a sweep that
ends past its bound says so first. A save that waits for a page goes on when it is woken. -/
def Sys2Proof.Claims.GangStops : Prop :=
  ∀ (job : BitVec 32) (s : State),
    (NoSwitch job s → exec (.cutoffReached job) s = .next s) ∧
    (∀ g, Switch job g s →
      (g.gst = .armed → s.gts.toNat < g.cutoff.toNat → exec (.cutoffReached job) s = .next s) ∧
      ((g.gst = .out ∨ g.gst = .restore ∨ g.gst = .reinj ∨ g.gst = .barrier ∨ g.gst = .run) →
        exec (.cutoffReached job) s = .next s) ∧
      (g.gst = .armed → g.cutoff.toNat ≤ s.gts.toNat → exec (.cutoffReached job) s = .next (s.stopGang g) ∧
        StandsStill g s (s.stopGang g)) ∧
      (g.stops = true → s.gangHolds g.dom g.job = true) ∧
      (g.gst = .sweep → g.overdue s.gts = false → ∀ h, (s.sweepGang g).findGang g.dom job = some h →
        exec (.cutoffReached job) s = .next ((s.sweepGang g).saveGang h)) ∧
      (g.gst = .sweep → g.overdue s.gts = true → let t := s.sweepLate g s.sweepAt.1.toNat s.sweepAt.2.toNat
        ∀ h k, t.findGang g.dom job = some h → (t.sweepGang h).findGang g.dom job = some k →
          exec (.cutoffReached job) s = .next ((t.sweepGang h).saveGang k)) ∧
      (g.gst = .save → s.switchParked g.dom = false → exec (.cutoffReached job) s = .next (s.saveGang g)) ∧
      (g.gst = .save → s.switchParked g.dom = true → exec (.cutoffReached job) s = .next s)) ∧
    (∀ g h k, s.pkg.cmperr = false → s.gangs.filter (fun h => h.job == job) = [g, h] → g.dom ≠ h.dom →
      g.gst = .armed → g.cutoff.toNat ≤ s.gts.toNat → let t := s.stopGang g
      t.findGang h.dom job = some k → k.gst = .armed → k.cutoff.toNat ≤ t.gts.toNat →
        exec (.cutoffReached job) s = .next (t.stopGang k))

/-- The proof area of a switch is one step of the domain's carve, as its OUT was checked for (R402, R406). -/
def Sys2Proof.Claims.AreaFits (g : Gang) (s : State) : Prop :=
  g.proof % 2 ^ 25 = 0 ∧ g.proof + 2 ^ 25 ≤ (s.dom g.dom).carveLen

/-- R404, R406, R407: the sweep takes the job's packets of its domain, and only those, from where they stand, writes their records to the
packet section, which holds no more than 15 MiB, and opens the late bin for 10,000 ns; the others stay. -/
def Sys2Proof.Claims.GangSweeps : Prop :=
  ∀ (g : Gang) (s : State), s.findGang g.dom g.job = some g → AreaFits g s → Canon s →
    let t := s.sweepGang g
    t.net = s.net.filter (fun p => !g.owns p) ∧ t.hdr g.dom g.proof 0x18 8 = (s.gts + 10000).toNat ∧
    t.hdr g.dom g.proof 0x10 8 = s.gts.toNat ∧
    ∃ h, t.findGang g.dom g.job = some h ∧ h.gst = .save ∧ h.sweepEnd = s.gts ∧
      t.hdr g.dom g.proof 0x20 4 = h.swept.length % 2 ^ 32 ∧
      ((netRecs (·.fab) h.swept).flatten.length ≤ 15 * 2 ^ 20 →
        t.carveBytes g.dom (g.proof + 0x100000) (netRecs (·.fab) h.swept).flatten.length = (netRecs (·.fab) h.swept).flatten) ∧
      ((netRecs (·.fab) (s.net.filter g.owns ++ s.txPackets g.dom g.job)).flatten.length ≤ 15 * 2 ^ 20 →
        (netRecs (·.fab) h.swept).flatten.length ≤ 15 * 2 ^ 20) ∧
      (∀ p ∈ h.swept, p.job = g.job ∧ p.dom = g.dom) ∧ (∀ p ∈ s.net, p.job = g.job → p.dom = g.dom → p ∈ h.swept) ∧
      (∀ p ∈ s.txPackets g.dom g.job, p ∈ h.swept) ∧ t.txPackets g.dom g.job = []

/-- R404 steps 4 to 6, R403, R405: the save takes every context of the job with all that it holds, the memories, descriptors and semaphores of its
cores, and its bind records, and leaves nothing of the job on the package but the edges of its graphs, as they stand: no context and
no record; PSTATE is 2, and the spill buffer's length and checksum stand in the proof area. While a page of the spill buffer is not
there, nothing is saved. -/
def Sys2Proof.Claims.GangSaves : Prop :=
  ∀ (g : Gang) (s : State), s.findGang g.dom g.job = some g → AreaFits g s → Canon s →
    let d := g.dom
    let e := ((s.dom d).regOf g.spill).map fun e => (e.vbase.toNat, min (s.spillNeed d g.job) (e.limit.toNat + 1))
    let walk := fun (m : State) => m.spillWalk d (if (e.getD (0, 0)).2 = 0 then [] else frames (e.getD (0, 0)).1 (e.getD (0, 0)).2)
    (∀ u, walk s.mergeAll = .error u → s.saveGang g = u) ∧
    ∀ ps, walk s.mergeAll = .ok ps → let t := s.saveGang g
      t.hdr d g.proof 2 1 = 2 ∧ t.hdr d g.proof 0x38 8 = (e.getD (0, 0)).2 ∧
      (∀ i, (t.edge d i).map (fun y => (y.ring, y.head, y.popped, y.slots.length)) =
        (s.edge d i).map fun y => (y.ring, y.head, y.popped, y.slots.length)) ∧
      (∀ c ∈ s.gangCtxs d g.job, t.findCtx c.id = some { id := c.id } ∧
        (c.id.harv = false → ∀ b ∈ t.binds, b.ctxId ≠ c.id)) ∧
      ∃ h, t.findGang d g.job = some h ∧ h.gst = .out ∧ h.closed = g.closed ∧ h.swept = g.swept ∧ h.lates = g.lates ∧
        (∀ c ∈ s.gangCtxs d g.job, ∃ k ∈ h.ctxs, k.id = { c.id with away := k.id.away } ∧ k.bnd = c.bnd ∧ Kept c k ∧ k.rgns = c.rgns ∧
          k.rbase = c.rbase ∧ k.rsize = c.rsize ∧ k.sbuf = c.sbuf ∧ k.pushes = c.pushes ∧ k.ents = c.ents ∧ k.vblk = c.vblk) ∧
        (∀ c ∈ s.gangCtxs d g.job, ∀ k ∈ s.allCores, k.isAt c.id.loc.sock c.id.loc.core = true → ∃ o ∈ h.cores,
          o.sock = k.sock ∧ o.num = k.num ∧ o.spad = k.spad ∧ o.tiles = k.tiles ∧ o.scale = k.scale ∧ o.cbd = k.cbd ∧ o.sem = k.sem ∧
          o.spfmt = k.spfmt ∧ o.dict0 = k.dict0 ∧ o.dict1 = k.dict1) ∧
        ∀ b ∈ s.binds, b.dom = d → b.job = g.job → b ∈ h.binds

/-- R409: a sweep that goes on 50,000 ns after the cutoff is reported as SWEEPTO, once, and bit 0 of FAULT says so; before that, after
that, or out of a sweep, nothing is. -/
def Sys2Proof.Claims.SweepTimeouts : Prop :=
  ∀ (job : BitVec 32) (stage place : BitVec 8) (s : State), let fits := stage = 2 ∧ place.toNat < 64 ∨ stage = 3 ∧ place.toNat < 128
    (NoSwitch job s ∨ ¬fits → exec (.sweepto job stage place) s = .next s) ∧
    ∀ g, Switch job g s →
      (g.gst ≠ .sweep ∨ s.gts.toNat ≤ g.cutoff.toNat + 50000 ∨ g.sweepto = true → exec (.sweepto job stage place) s = .next s) ∧
      (g.gst = .sweep → g.cutoff.toNat + 50000 < s.gts.toNat → g.sweepto = false → fits → AreaFits g s → Canon s →
        ∃ u h, exec (.sweepto job stage place) s = .next u ∧ u.findGang g.dom job = some h ∧ h.sweepto = true ∧ h.gst = .sweep ∧
          u.hdr g.dom g.proof 3 1 = s.hdr g.dom g.proof 3 1 ||| 1 ∧
          ∀ x, s.findQ g.dom g.queue = some x → s.eqRoom g.dom x = true → u.arbseq = s.arbseq + 1)

/-- A packet as it stands at the fabric port that it has reached: of a job of this package's domain, with no number of this package's
own; what it asks stands, but that it answers no write here, which is an event of its own. -/
def Sys2Proof.Claims.arrived (s : State) (p : NetPkt) : NetPkt :=
  { p with fab := true, tx := false, place := fioOf p.port, pkt := 0
           dom := s.jobDom p.job (match p.ask with
             | .access r => some r.dom
             | _ => none)
           ask := match p.ask with
             | .answer _ _ => .nothing
             | a => a }

/-- R149, R403, R404, R406, R407, R408: a packet of a job that is saved goes to the late bin until LATECLOSE, in order of arrival, and is
lost after it; during the sweep it stands where it is, or is late where the sweep has read its port out already or the packet section has
no room for it (the model's choice, log entry 26); of a job without a switch, or once READY has been sent, what it asks is performed,
behind the earlier packets of its flow; what is no packet of 1 to 9 flits does nothing. -/
def Sys2Proof.Claims.LatePackets : Prop :=
  ∀ (p : NetPkt) (s : State), let a := arrived s p
    let whole := 1 ≤ p.nflit.toNat ∧ p.nflit.toNat ≤ 9 ∧ p.flits.length = 32 * p.nflit.toNat
    (¬whole → exec (.latePacketArrival p) s = .next s) ∧
    (p.ask = .nothing → s.performAsk a = s) ∧
    (whole → s.findGang a.dom a.job = none → exec (.latePacketArrival p) s = .next (s.performAsk a)) ∧
    ∀ g, whole → s.findGang a.dom a.job = some g →
      (g.bars = false → g.rejoins = false ∨ (∀ q ∈ s.earlier g, sameFlow a q = false) →
        exec (.latePacketArrival p) s = .next (s.performAsk a)) ∧
      (g.rejoins = true → (∃ q ∈ s.earlier g, sameFlow a q = true) →
        exec (.latePacketArrival p) s = .next { s with net := s.net ++ [a] }) ∧
      (g.gst = .sweep → let n := max g.passed (Config.portsSwept s.tick % 129); let h := { g with passed := n }
        let full := p.port.toNat < n ∨ 15 * 2 ^ 20 < s.jobHeld g.dom g.job + recLen a
        (full → exec (.latePacketArrival p) s = .next ((s.setGang h).capturePkt h a)) ∧
        (¬full → exec (.latePacketArrival p) s = .next { s.setGang h with net := s.net ++ [a] })) ∧
      (g.gst = .save ∨ g.gst = .out → s.gts.toNat < g.lateclose.toNat →
        ((netRecs (fun _ => true) g.lates).flatten.length + (netRec a true g.lates.length).length ≤ 2 ^ 24) →
        g.lates.length + 1 < 2 ^ 32 → AreaFits g s → Canon s →
        ∃ u h, exec (.latePacketArrival p) s = .next u ∧ u.findGang g.dom p.job = some h ∧ h.lates = g.lates ++ [a] ∧
          u.hdr g.dom g.proof 0x24 4 = g.lates.length + 1 ∧ u.net = s.net) ∧
      (g.gst = .restore ∧ g.failed = true ∨ (g.gst = .save ∨ g.gst = .out) ∧ g.lateclose.toNat ≤ s.gts.toNat →
        exec (.latePacketArrival p) s = .next (s.losePkt g a 3))

/-- R407: a record is 16 bytes and its flits, which NFLIT counts; its fields stand where the table puts them. -/
def Sys2Proof.Claims.PacketRecords : Prop :=
  ∀ (p : NetPkt) (fab : Bool) (ord : Nat), let r := netRec p fab ord
    r.length = 16 + 32 * p.nflit.toNat ∧
    leNat (r.take 8) % 2 ^ 6 = p.src.toNat ∧ leNat (r.take 8) / 2 ^ 6 % 2 ^ 6 = p.dst.toNat ∧ leNat (r.take 8) / 2 ^ 12 % 8 = p.vc.toNat ∧
    leNat (r.take 8) / 2 ^ 15 % 2 ^ 8 = p.seq.toNat ∧ leNat (r.take 8) / 2 ^ 23 % 2 ^ 4 = p.nflit.toNat ∧
    leNat (r.take 8) / 2 ^ 27 % 2 = fab.toNat ∧ leNat (r.take 8) / 2 ^ 28 % 2 ^ 7 = p.port.toNat ∧
    leNat (r.take 8) / 2 ^ 35 % 2 ^ 6 = (if fab then fioOf p.port else p.place).toNat ∧
    leNat (r.take 8) / 2 ^ 41 = (if fab then p.peer.toNat else 0) ∧ leNat ((r.drop 8).take 8) = ord % 2 ^ 64

/-- R16: the way of a packet begins at the local port of its source and ends at its destination, along the row first and then along
the column, each time the shorter way round the ring of eight and the ascending one where both are four hops. -/
def Sys2Proof.Claims.PlateRoutes : Prop :=
  ∀ a b : BitVec 6, let w := routeOf a b
    let up := fun (i j : Nat) => (j + 8 - i) % 8
    let hops := fun (i j : Nat) => min (up i j) (8 - up i j) % 8
    let row := hops (a.toNat % 8) (b.toNat % 8)
    w.head? = some (a, portLocal) ∧ w.getLast?.map (·.1) = some b ∧ w.length = 1 + row + hops (a.toNat / 8) (b.toNat / 8) ∧
    (∀ x ∈ w.tail.take row, x.1.toNat / 8 = a.toNat / 8 ∧
      x.2 = if up (a.toNat % 8) (b.toNat % 8) ≤ 4 then portEast else portWest) ∧
    (∀ x ∈ w.drop (1 + row), x.1.toNat % 8 = b.toNat % 8 ∧
      x.2 = if up (a.toNat / 8) (b.toNat / 8) ≤ 4 then portSouth else portNorth)

/-- R402, R410: IN waits at the head of its queue until the late bin of the job's OUT has closed; without such a job here, or without
its spill buffer, it is refused with cause 0x06. -/
def Sys2Proof.Claims.GangIn : Prop :=
  ∀ (k : Pkt) (x : SubQ) (s : State) (ms : List (BitVec 12)), TakenGang k x 1 ms s →
    let n := s.hdr k.dom (k.bits.toNat / 2 ^ 192 % 2 ^ 64) 0x38 8
    let there := s.gangs.find? fun g => g.dom == k.dom && g.job == jobOf k && (g.gst == .out || g.gst == .save)
    (s.spillBuf k.dom k.bits n = none ∨ there = none → exec (.gangswIn k) s = .next (refused k x (.cause 6) s)) ∧
    (∀ e g, s.spillBuf k.dom k.bits n = some e → there = some g → g.closed = false →
      exec (.gangswIn k) s = .next (taken k x (.wait (asked k x s)) s))

/-- R402, R403, R410, R411: an IN whose late bin has closed, whose proof area and spill buffer are as OUT left them and whose map is this
package's puts an owner context that was saved back where it stood, with all it kept; PSTATE is 3 and this package is READY, and says
so to the others of the group; a group that is READY with it has its packets stand again. -/
def Sys2Proof.Claims.GangRestores : Prop :=
  ∀ (k : Pkt) (x : SubQ) (s : State) (ms : List (BitVec 12)) (e : RegEnt) (g : Gang) (c : Ctx) (b : BindRec) (ps : List Place),
    TakenGang k x 1 ms s →
    let d := k.dom
    let pr := k.bits.toNat / 2 ^ 192 % 2 ^ 64
    let n := s.hdr d pr 0x38 8
    let m := (asked k x s).mergeAll
    s.spillBuf d k.bits n = some e → s.gangs = [g] → g.dom = d → g.job = jobOf k → g.gst = .out → g.closed = true → g.failed = false →
    s.pending = [] → (∀ d, ∀ y ∈ (s.dom d).queues, y.late = []) →
    s.hdr d pr 0 2 = 1 → s.hdr d pr 2 1 = 2 → m.hdr d pr 3 1 = 0 → s.pcrc d pr = s.hdr d pr 0x40 4 → s.gangCtxs d g.job = [] →
    m.spillWalk d (if n = 0 then [] else frames e.vbase.toNat n) = .ok ps → (crc32c (ps.map m.byteAt)).toNat = m.hdr d pr 0x44 4 →
    m.carveBytes d (pr + 0x100) 256 = s.pkg.popBytes → s.lostCore g = false → Canon s →
    g.ctxs = [c] → c.id.harv = false → g.binds = [b] → b.ctxId = { c.id with away := 0 } →
    (∀ y ∈ s.binds, ¬(y.row = b.row ∧ y.pos = b.pos)) → g.cores = [] →
    let back := reinjOrder g.swept g.lates
    ∃ t h, exec (.gangswIn k) s = .next (taken k x (.wait t) s) ∧ t.findGang d g.job = some h ∧ h.members = ms ∧
      h.ready = g.ready ++ [s.pkg.pkgno] ∧ t.hdr d pr 2 1 = 3 ∧
      t.fabout = s.fabout ++ (ms.filter fun p => p != s.pkg.pkgno).map (fun p => { dst := p, dom := d, job := g.job, body := .ready }) ∧
      (∃ y ∈ t.ctxs, y.id = b.ctxId ∧ y.bnd = c.bnd ∧ Kept c y) ∧ (∃ y ∈ t.binds, y.ctxId = b.ctxId ∧ y.res = false) ∧
      ((∀ p ∈ ms, p ∈ h.ready) → h.gst = .reinj ∧ t.net = (back.filter fun p => !p.tx) ++ s.net) ∧
      ((∃ p ∈ ms, p ∉ h.ready) → h.gst = .restore ∧ t.net = s.net)

/-- R403, R406: the late bin closes when gts() reaches LATECLOSE, and not before; a PCRC is then written, whether the job is saved already
or its save waits. -/
def Sys2Proof.Claims.LateBins : Prop :=
  ∀ (job : BitVec 32) (s : State),
    (NoSwitch job s → exec (.latecloseReached job) s = .next s) ∧
    ∀ g, Switch job g s →
      (s.gts.toNat < g.lateclose.toNat ∨ (g.gst ≠ .save ∧ g.gst ≠ .out) → exec (.latecloseReached job) s = .next s) ∧
      (g.lateclose.toNat ≤ s.gts.toNat → g.gst = .save ∨ g.gst = .out → (s.dom g.dom).queues = [] →
        (g.closed = true → exec (.latecloseReached job) s = .next s) ∧
        (g.closed = false → let h := { g with closed := true }
          exec (.latecloseReached job) s = .next ((s.setGang h).seal h) ∧ ((s.setGang h).seal h).findGang g.dom job = some h))

/-- R403, R410: the barrier of the switch g, which stood in s, has ended in u: PSTATE is 4, the job stands still no more, and the IN
completes: its queue goes past it. -/
structure Sys2Proof.Claims.BarrierEnds (g : Gang) (s u : State) : Prop where
  state : AreaFits g s → Canon s → u.hdr g.dom g.proof 2 1 = 4
  free : u.gangHolds g.dom g.job = false
  done : ∀ x, s.findQ g.dom g.inq = some x → x.ending = false →
    ∃ y, u.findQ g.dom g.inq = some y ∧ y.sqhead = x.sqhead + 1 ∧ y.taken = false
  elsewhere : u.net = s.net ∧ u.peers = s.peers ∧ u.fabout = s.fabout

/-- R403, R410, R412, R149: once READY has come from every package of the group, this one's included, the records stand again where they
were taken, all swept ones before all late ones, each flow in ascending order; they are performed in that order, and once nothing of
the job is left on its way DRAINED is sent; once that has come from every package, the barrier ends. Before that, a message is noted,
once for each other package. A member that has failed sends no DRAINED. -/
def Sys2Proof.Claims.GangMessages : Prop :=
  ∀ (job : BitVec 32) (pkg : BitVec 12) (s : State),
    (NoSwitch job s → exec (.readyReceived job pkg) s = .next s ∧ exec (.drainedReceived job pkg) s = .next s ∧
      exec (.reinjectionDrained job) s = .next s) ∧
    ∀ g, Switch job g s →
      (g.gst = .run ∨ pkg ∈ g.ready ∨ pkg = s.pkg.pkgno → exec (.readyReceived job pkg) s = .next s) ∧
      (g.gst = .run ∨ pkg ∈ g.drained ∨ pkg = s.pkg.pkgno → exec (.drainedReceived job pkg) s = .next s) ∧
      (g.gst ≠ .reinj ∨ s.askParked g.dom job = true → exec (.reinjectionDrained job) s = .next s) ∧
      (g.gst ≠ .run → pkg ∉ g.ready → pkg ≠ s.pkg.pkgno → let h := { g with ready := g.ready ++ [pkg] }
        ((∃ m ∈ g.members, m ∉ h.ready) → exec (.readyReceived job pkg) s = .next (s.setGang h)) ∧
        (g.gst = .restore → (∀ m ∈ g.members, m ∈ h.ready) → s.pkg.pkgno ∈ h.ready → let ps := reinjOrder g.swept g.lates
          exec (.readyReceived job pkg) s = .next ((ps.filter (·.tx)).foldl State.reSend
            { s.setGang { h with gst := .reinj } with net := (ps.filter fun p => !p.tx) ++ s.net }))) ∧
      (g.gst ≠ .run → pkg ∉ g.drained → pkg ≠ s.pkg.pkgno → let h := { g with drained := g.drained ++ [pkg] }
        ((g.gst ≠ .barrier ∨ ∃ m ∈ g.members, m ∉ h.drained) → exec (.drainedReceived job pkg) s = .next (s.setGang h)) ∧
        (g.gst = .barrier → (∀ m ∈ g.members, m ∈ h.drained) →
          ∃ u, exec (.drainedReceived job pkg) s = .next u ∧ BarrierEnds g s u)) ∧
      (g.gst = .reinj → s.askParked g.dom job = false →
        let t := State.performNet g.dom job (s.net.filter g.owns) { s with net := s.net.filter fun p => !g.owns p }
        let way := t.askParked g.dom job = true ∨ (∃ p ∈ t.net, g.owns p = true) ∨ t.txClear g.dom job = false ∨ t.sentOpen g = true ∨
          g.failed = true
        (way → exec (.reinjectionDrained job) s = .next t) ∧
        (¬way → let h := { g with gst := .barrier, drained := g.drained ++ [t.pkg.pkgno] }
          let v := t.tellGroup g .drained
          v.fabout = t.fabout ++ (g.members.filter fun p => p != t.pkg.pkgno).map
            (fun p => { dst := p, dom := g.dom, job := g.job, body := .drained }) ∧
          ((∃ m ∈ g.members, m ∉ h.drained) → exec (.reinjectionDrained job) s = .next (v.setGang h)) ∧
          ((∀ m ∈ g.members, m ∈ h.drained) → ((∀ p ∈ s.net, g.owns p = true → p.ask = .nothing)) →
            ∃ u, exec (.reinjectionDrained job) s = .next u ∧ BarrierEnds g v u)) ∧
        ((∀ p ∈ s.net, g.owns p = true → p.ask = .nothing) → t = { s with net := s.net.filter fun p => !g.owns p }))

/-- R403, R89, R149, R436: what another package asks for a job that a switch has taken out of the package, or that is being re-injected,
becomes a packet of that job for the switch to take or keep, and so does the answer to a write of such a job; any other is performed. -/
def Sys2Proof.Claims.AsksCaptured : Prop :=
  (∀ (job : BitVec 32) (idx : BitVec 45) (v : Word) (s : State), let d := s.jobDom job none
    (s.switches d job = false → exec (.fabricWakeArrival job idx v) s = .next (s.fabricWake job idx v)) ∧
    (s.switches d job = true → ∃ (p : NetPkt) (t : State), exec (.fabricWakeArrival job idx v) s = .next (t.arrive p) ∧
      p.dom = d ∧ p.job = job ∧ p.ask = .wake idx v ∧ netWhole p = true ∧ t = { s with fresh := t.fresh })) ∧
  (∀ (r : PeerReq) (s : State), let d := s.jobDom r.job (some r.dom)
    (s.switches d r.job = false → exec (.peerAccessAtHome r) s = .next (s.peerAccess r)) ∧
    (s.switches d r.job = true → ∃ (p : NetPkt) (t : State), exec (.peerAccessAtHome r) s = .next (t.arrive p) ∧
      p.dom = d ∧ p.job = r.job ∧ p.ask = .access r ∧ p.peer = r.pkg ∧ netWhole p = true ∧ t = { s with fresh := t.fresh })) ∧
  (∀ (s u : State) (o : PeerOut), s.somePeer = some (o, u) → u.switches o.dom o.job = true →
    ∀ e ∈ [(Instr.peerAckReceived, false), (Instr.peerRefusalReceived, true)],
      ∃ (p : NetPkt) (t : State), exec e.1 s = .next (t.arrive p) ∧ p.dom = o.dom ∧ p.job = o.job ∧ p.peer = o.peer ∧
        p.dst = o.own.loc.sock ∧ p.ask = .answer o.pkt e.2 ∧ netWhole p = true ∧
        t = { s with fresh := t.fresh, peers := s.peers.map fun x => if x.pkt = o.pkt then { x with answered := true } else x }) ∧
  (∀ (d : BitVec 4) (job : BitVec 32) (s : State), s.switches d job = true ↔
    ∃ g, s.findGang d job = some g ∧ (g.gst = .sweep ∨ g.gst = .save ∨ g.gst = .out ∨ g.gst = .restore ∨ g.gst = .reinj))

/-- R410, R149: re-injection keeps every record, all swept ones before all late ones, and each flow in ascending order of its sequence
numbers, counted modulo 256 from the flow's first record. -/
def Sys2Proof.Claims.ReinjectionKeeps : Prop :=
  ∀ swept late : List NetPkt,
    let rising := fun (l : List NetPkt) => l.Pairwise fun p q => sameFlow p q = true →
      ∀ f, (swept ++ late).find? (sameFlow p) = some f → (p.seq - f.seq).toInt ≤ (q.seq - f.seq).toInt
    ∃ a b, reinjOrder swept late = a ++ b ∧ a.Perm swept ∧ b.Perm late ∧ rising a ∧ rising b

/-- R424, R443, R444: a bound context that fails stands FAULTED with every sequencer stopped, its registers as they were, is logged and
counted as an uncorrectable error of its socket, and its
record awaits an answer when its queue has room; one that is not bound does not fail. A report of another package's failure reaches
the queue that loaded the job's graph, or nothing where the job has no graph here. -/
def Sys2Proof.Claims.ContextFailures : Prop :=
  (∀ (s : State), s.isBound s.ctx = false → exec (.contextFailure s.ctx.id) s = .next s) ∧
  (∀ (s : State) (x : SubQ), s.isBound s.ctx = true → s.findQ s.ctx.bnd.dom (s.queueOf s.ctx) = some x →
    s.eqRoom s.ctx.bnd.dom x = true → x.late = [] → (∀ c ∈ s.allCores, c.colq = []) →
    ∃ u, exec (.contextFailure s.ctx.id) s = .next u ∧ u.ctx.cst = .faulted ∧ (∀ q, (u.ctx.seqs.get q).run = .faulted) ∧
      u.ctx.s = s.ctx.s ∧ u.ctx.v = s.ctx.v ∧ u.arbseq = s.arbseq + 2 ∧
      (let h := s.pkg.health.get s.ctx.id.loc.sock.toFin
        let k := u.pkg.health.get s.ctx.id.loc.sock.toFin
        k.lastue = s.arbseq ∧ (h.uecnt ≠ 0xFFFFFFFF → k.uecnt = h.uecnt + 1)) ∧
      u.pending = s.pending ++ [(s.arbseq + 1, .ctx s.ctx.id .ld 0x81)] ∧ u.core.spad = s.core.spad) ∧
  (∀ (job : BitVec 32) (cause : BitVec 8) (pkg : BitVec 12) (place : BitVec 16) (orig : Word) (s : State),
    (s.memberOf job = none → exec (.gangfReceived job cause pkg place orig) s = .next s) ∧
    ∀ d g x, s.memberOf job = some d → (s.dom d).graphs.find? (fun g => g.job == job) = some g → s.findQ d g.queue = some x →
      s.eqRoom d x = true → (∀ c ∈ s.allCores, c.colq = []) →
      ∃ u, exec (.gangfReceived job cause pkg place orig) s = .next u ∧ u.arbseq = s.arbseq + 1 ∧ u.ctx.cst = s.ctx.cst ∧
        u.pending = s.pending)

/-! ## Host links, ports, routes and time (spec/19 R425, R433 to R437) -/

/-- R425, R441: a change of a present HIO's link stands in its half of HLSTAT, bits 9:0; the other link's half stays. -/
def Sys2Proof.Claims.HostLinks : Prop :=
  ∀ (link : BitVec 1) (v : BitVec 16) (s : State), let k : BitVec 6 := if link = 0 then 3 else 60
    (s.present k = false → exec (.hostLinkStateChange link v) s = .next s) ∧
    (s.present k = true → ∃ h : BitVec 32, exec (.hostLinkStateChange link v) s = .next { s with pkg := { s.pkg with hlstat := h } } ∧
      (h.extractLsb' (16 * link.toNat) 16 : BitVec 16) = BitVec.setWidth 16 (v.extractLsb' 0 10) ∧
      (h.extractLsb' (16 - 16 * link.toNat) 16 : BitVec 16) = s.pkg.hlstat.extractLsb' (16 - 16 * link.toNat) 16)

/-- R434, R90: the state u after s in which port p, which was x, discards what it held or had not seen acknowledged: the writes whose
packets these are are refused, and stand no more among those that wait for an answer; the others do; packets that a gang switch knows
there are gone. Control messages that it had not seen acknowledged are to be sent again (the model's choice, log entry 59). -/
structure Sys2Proof.Claims.Discards (p : BitVec 7) (x : Port) (s u : State) : Prop where
  refused : ∀ o ∈ u.peers, o ∈ s.peers ∧ o.pkt ∉ x.pkts
  others : ∀ o ∈ s.peers, o.pkt ∉ x.pkts → o ∈ u.peers
  net : u.net = s.net.filter fun n => !(n.fab && n.port == p)
  messages : u.fabout = x.unacked.filterMap (·.msg) ++ s.fabout
  registers : u.ctx.s = s.ctx.s ∧ u.ctx.v = s.ctx.v

/-- R434: the retrain bit puts a port of a present FIO that is not absent into training; what it still held is discarded as when it goes
down (the model's choice, log entry 59), and where it held nothing nothing else changes; a port in training comes up.
How many slots its receiver has is not given, and free. -/
def Sys2Proof.Claims.PortTraining : Prop :=
  ∀ (p : BitVec 7) (v : Word) (s : State), let x := s.ports.get p.toFin
    (v.getLsbD 2 = true → s.portThere p = true → x.state ≠ 0 → (∀ c ∈ s.allCores, c.colq = []) →
      ∃ u, exec (.fportRetrain p v) s = .next u ∧ u.ports = s.ports.set p.toNat { state := 1 } p.isLt ∧ Discards p x s u) ∧
    (v.getLsbD 2 = true → s.portThere p = true → x.state ≠ 0 → (∀ c ∈ s.allCores, c.colq = []) → x.txq = [] → x.unacked = [] →
      (∀ n ∈ s.net, n.fab = false ∨ n.port ≠ p) →
      exec (.fportRetrain p v) s = .next { s with ports := s.ports.set p.toNat { state := 1 } p.isLt }) ∧
    (v.getLsbD 2 = false ∨ s.portThere p = false ∨ x.state = 0 → exec (.fportRetrain p v) s = .next s) ∧
    (x.state = 1 → s.portThere p = true → ∃ c : Vector Nat 8,
      exec (.portTrained p) s = .next { s with fresh := s.fresh + 1, ports := s.ports.set p.toNat { state := 2, cred := c } p.isLt }) ∧
    (x.state ≠ 1 ∨ s.portThere p = false → exec (.portTrained p) s = .next s)

/-- R433: the port y is x once it has sent the flit f, which it keeps, with the plate flits and the message that it carries, until it is
acknowledged: f carries the next number, its type, the last flit received good and the right CRC. -/
structure Sys2Proof.Claims.Sent (x y : Port) (f : BitVec 2048) (slots : List LinkSlot) (msg : Option FabMsg) (type : Nat) (nak : Bool)
    (cred : BitVec 32) (gts : Word) : Prop where
  port : y = { x with
    txseq := x.txseq + 1, unacked := x.unacked ++ [{ bits := f, slots := slots, msg := msg }]
    since := if x.unacked = [] then gts else x.since }
  seq : (f.extractLsb' 0 12 : BitVec 12) = x.txseq
  type : (f.extractLsb' 12 4 : BitVec 4).toNat = type
  ack : (f.extractLsb' 16 12 : BitVec 12) = x.rxseq - 1
  nak : f.getLsbD 28 = nak
  cred : (f.extractLsb' 32 32 : BitVec 32) = cred
  crc : (f.extractLsb' 2016 32 : BitVec 32) = crc32c ((toBytes f).take 252)

/-- R433: an up port discards a flit whose CRC is wrong or whose FSEQ is not the expected one, and answers it with NAK; it takes a good
one: the flits that it acknowledges are kept no more, the slots that it gives back are counted, the plate flit of a data flit's slot
joins its virtual channel; it answers a data or control flit, while 256 flits are not outstanding; a NAK makes the kept flits travel
again. -/
def Sys2Proof.Claims.FlitsReceived : Prop :=
  ∀ (p : BitVec 7) (f : BitVec 2048) (s : State), let x := s.ports.get p.toFin
    let good := (crc32c ((toBytes f).take 252)).toNat = f.toNat / 2 ^ 2016 ∧ f.toNat % 2 ^ 12 = x.rxseq.toNat
    let type := f.toNat / 2 ^ 12 % 2 ^ 4
    let ack := f.toNat / 2 ^ 16 % 2 ^ 12
    let slot := fun (k : Nat) => f.getLsbD (64 + 8 * k)
    (x.state ≠ 2 → exec (.flitReceived p f) s = .next s) ∧
    (x.state = 2 → ¬good → ∃ y : Port,
      exec (.flitReceived p f) s = .next { s with ports := s.ports.set p.toNat y p.isLt } ∧
      (x.unacked.length < 256 → ∃ a, Sent x y a [] none 1 true 0 s.gts) ∧ (256 ≤ x.unacked.length → y = x)) ∧
    (x.state = 2 → good → ∃ b y : Port,
      exec (.flitReceived p f) s = .next (if f.getLsbD 28 then ({ s with ports := s.ports.set p.toNat y p.isLt } : State).replay p
        else { s with ports := s.ports.set p.toNat y p.isLt }) ∧
      b.rxseq = x.rxseq + 1 ∧ b.txseq = x.txseq ∧ b.txq = x.txq ∧ b.state = 2 ∧
      (∀ i : Fin 8, b.cred.get i = x.cred.get i + f.toNat / 2 ^ (32 + 4 * i.val) % 2 ^ 4) ∧
      ((∀ u ∈ x.unacked, u.bits.toNat % 2 ^ 12 ≠ ack) → b.unacked = x.unacked ∧ b.replays = x.replays) ∧
      (∀ before u after, x.unacked = before ++ u :: after → (∀ w ∈ before, w.bits.toNat % 2 ^ 12 ≠ ack) → u.bits.toNat % 2 ^ 12 = ack →
        b.unacked = after ∧ b.replays = 0) ∧
      (type ≠ 0 → b.rx = x.rx) ∧
      (type = 0 → slot 0 = true → (∀ k, 0 < k → k < 7 → slot k = false) → let vc : BitVec 3 := f.extractLsb' 66 3
        b.rx.get vc.toFin = (if f.getLsbD 65 then [] else x.rx.get vc.toFin) ++ [f.extractLsb' 128 256]) ∧
      (type = 1 → y = b) ∧
      (type ≠ 1 → (b.unacked.length < 256 → ∃ a, Sent b y a [] none 1 false (credOf f) s.gts) ∧ (256 ≤ b.unacked.length → y = b)))

/-- R433, R403, R404: an up port sends, while fewer than 256 flits are outstanding, a message of a gang switch for a package that it leads
to in a control flit, and otherwise the plate flit that waits first, when its receiver has a slot of its virtual channel, in slot 0 of a
data flit; with no such slot, or without one to send, it sends nothing. A packet of a job that a gang switch has stopped stays, and
another job's passes it. -/
def Sys2Proof.Claims.FlitsSent : Prop :=
  ∀ (p : BitVec 7) (s : State) (l : LinkSlot), let x := s.ports.get p.toFin
    let first := s.fabout.find? fun m => m.control && s.routedBy p m.dst
    let data := fun (rest : List LinkSlot) (y : Port) (f : BitVec 2048) =>
      Sent { x with txq := rest, cred := x.cred.set l.vc.toNat (x.cred.get l.vc.toFin - 1) l.vc.isLt } y f [l] none 0 false 0 s.gts ∧
      f.getLsbD 64 = true ∧ f.getLsbD 65 = l.first ∧ (f.extractLsb' 66 3 : BitVec 3) = l.vc ∧
      (f.extractLsb' 128 256 : BitVec 256) = l.data ∧ ∀ k, 0 < k → k < 7 → f.getLsbD (64 + 8 * k) = false
    (x.state ≠ 2 ∨ 256 ≤ x.unacked.length → s.transmit p = s) ∧
    (first = none → x.txq = [] ∨ (∀ y ∈ x.txq, s.linkHolds x y = true) → s.transmit p = s) ∧
    (∀ m, x.state = 2 → x.unacked.length < 256 → first = some m → ∃ y f,
      s.transmit p = { s with fresh := s.fresh + 1, fabout := s.fabout.erase m, ports := s.ports.set p.toNat y p.isLt } ∧
      Sent x y f [] (some m) 2 false 0 s.gts) ∧
    (∀ rest, first = none → x.txq = l :: rest → s.linkHolds x l = false → x.cred.get l.vc.toFin = 0 → s.transmit p = s) ∧
    (x.state = 2 → x.unacked.length < 256 → first = none → x.txq = [l] → s.linkHolds x l = false → x.cred.get l.vc.toFin ≠ 0 → ∃ y f,
      s.transmit p = { s with ports := s.ports.set p.toNat y p.isLt } ∧ data [] y f) ∧
    (∀ h, x.state = 2 → x.unacked.length < 256 → first = none → x.txq = [h, l] → s.linkHolds x h = true → s.linkHolds x l = false →
      x.cred.get l.vc.toFin ≠ 0 → ∃ y f, s.transmit p = { s with ports := s.ports.set p.toNat y p.isLt } ∧ data [h] y f)

/-- R445: the state u has, after s, one more entry in the error log, of this type, socket, core and place, stamped by the arbiter at s;
a full log loses its oldest entry. -/
def Sys2Proof.Claims.Logged (etype : Nat) (sock : BitVec 6) (core : BitVec 4) (place : Nat) (s u : State) : Prop :=
  ∃ e : BitVec 256, u.pkg.log = (if 1024 ≤ s.pkg.log.length then s.pkg.log.tail else s.pkg.log) ++ [e] ∧
    u.pkg.logovf = (s.pkg.logovf || decide (1024 ≤ s.pkg.log.length)) ∧ u.arbseq = s.arbseq + 1 ∧
    e.toNat % 2 ^ 8 = etype ∧ e.toNat / 2 ^ 8 % 2 ^ 6 = sock.toNat ∧ e.toNat / 2 ^ 14 % 2 ^ 4 = core.toNat ∧
    e.toNat / 2 ^ 64 % 2 ^ 64 = place ∧ e.toNat / 2 ^ 128 % 2 ^ 64 = s.arbseq.toNat ∧ e.toNat / 2 ^ 192 = s.gts.toNat

/-- R422, R440: the interrupts sent from s to u, each by its function and vector; the link is the one that R425 gives, or free. -/
def Sys2Proof.Claims.Interrupts (vs : List (Nat × Nat)) (s u : State) : Prop :=
  ∃ q, u.pkg.irqs = s.pkg.irqs ++ q ∧ q.map (fun i => (i.fn, i.vec)) = vs

/-- R434: an up port goes down when no acknowledgement has come for 100,000 ns while flits are outstanding, of whatever type, and when the
eighth replay has failed: that is reported in FPORT.STATE, by PF vector 1 and in the log; what it held or had not seen acknowledged is
discarded, and nothing that it did not hold is lost. -/
def Sys2Proof.Claims.PortsDown : Prop :=
  ∀ (p : BitVec 7) (s : State), let x := s.ports.get p.toFin
    (x.state ≠ 2 ∨ x.unacked = [] ∨ s.gts.toNat < x.since.toNat + 100000 → exec (.portDown p) s = .next s) ∧
    (x.state = 2 → x.unacked ≠ [] → x.since.toNat + 100000 ≤ s.gts.toNat → exec (.portDown p) s = .next (s.portFails p)) ∧
    (x.unacked ≠ [] → (8 ≤ x.replays → s.replay p = s.portFails p) ∧
      (x.replays < 8 → s.replay p = { s with ports := s.ports.set p.toNat { x with replays := x.replays + 1 } p.isLt })) ∧
    ((∀ c ∈ s.allCores, c.colq = []) → let u := s.portFails p
      u.ports = s.ports.set p.toNat { state := 3 } p.isLt ∧ Discards p x s u ∧ Interrupts [(0, 1)] s { u with pkg := { u.pkg with irqs := u.pkg.irqs.take (s.pkg.irqs.length + 1) } } ∧
      ((∀ o ∈ s.peers, o.pkt ∉ x.pkts) → Logged 6 (fioOf p) 0 p.toNat s u ∧ Interrupts [(0, 1)] s u ∧ u.peers = s.peers ∧ u.ctx = s.ctx))

/-- R435: a route holds at most 16 ports, and the other peers' routes stay. -/
def Sys2Proof.Claims.Routes : Prop :=
  ∀ (peer : BitVec 12) (ports : List (BitVec 7)) (s : State), swf [] s.pkg.route = true →
    ∃ m, exec (.routeTableWrite peer ports) s = .next { s with pkg := { s.pkg with route := m } } ∧
      sget [] m peer.toNat = ports.take 16 ∧ ∀ k, k ≠ peer.toNat → sget [] m k = sget [] s.pkg.route k

/-- R12, R148, R437: gts() never steps back, in any step but one that resets the package or takes its power away, and forward but by
the passing of time only by the set command before a context runs; an exchange writes LOCK and the offset
unless this package is the grand master, and its time is kept; when none has come for 10 ms, and not before, LOCK is cleared and nothing else
changes. A package that is not the grand master sends a timestamp flit on each up port toward it each millisecond. -/
def Sys2Proof.Claims.Timestamps : Prop :=
  (∀ s t : State, step s = .next t → (∀ o rest, s.inbox ≠ .packageReset o :: rest) → (∀ rest, s.inbox ≠ .powerLoss :: rest) →
    s.gts.toNat ≤ t.gts.toNat) ∧
  ∀ s : State,
    (∀ ns, s.pkg.ran = false → s.gts.toNat < ns.toNat → exec (.timestampSet ns) s = .next { s with gts := ns }) ∧
    (∀ ns, s.pkg.ran = true ∨ ns.toNat ≤ s.gts.toNat → exec (.timestampSet ns) s = .next s) ∧
    (∀ offs locked, s.pkg.tsstat.getLsbD 1 = true →
      exec (.timestampExchange offs locked) s = .next { s with pkg := { s.pkg with tsLast := s.gts } }) ∧
    (∀ offs locked, s.pkg.tsstat.getLsbD 1 = false → ∃ w : Word,
      exec (.timestampExchange offs locked) s = .next { s with pkg := { s.pkg with tsLast := s.gts, tsstat := w } } ∧ w.getLsbD 0 = locked ∧
        (w.extractLsb' 32 32 : BitVec 32) = offs ∧ ∀ i, 1 ≤ i → i < 32 → w.getLsbD i = s.pkg.tsstat.getLsbD i) ∧
    (s.gts.toNat < s.pkg.tsLast.toNat + 10000000 → exec .timestampLockLoss s = .next s) ∧
    (s.pkg.tsLast.toNat + 10000000 ≤ s.gts.toNat → (∃ w : Word,
      exec .timestampLockLoss s = .next { s with pkg := { s.pkg with tsstat := w } } ∧ w.getLsbD 0 = false ∧
        ∀ i, i ≠ 0 → w.getLsbD i = s.pkg.tsstat.getLsbD i) ∧ (s.pkg.tsstat.getLsbD 0 = true → Instr.timestampLockLoss ∈ s.due)) ∧
    (s.pkg.tsstat.getLsbD 1 = true ∨ s.gts.toNat < s.pkg.tsSent.toNat + 1000000 → s.sendStamps = s) ∧
    (s.pkg.tsstat.getLsbD 1 = false → s.pkg.tsSent.toNat + 1000000 ≤ s.gts.toNat → s.sendStamps.pkg = { s.pkg with tsSent := s.gts } ∧
      ∀ p : BitVec 7, s.upPorts (s.pkg.tsstat.extractLsb' 16 12) = [p] → (s.ports.get p.toFin).unacked.length < 256 →
        ∃ y f, s.sendStamps.ports = s.ports.set p.toNat y p.isLt ∧ Sent (s.ports.get p.toFin) y f [] none 2 false 0 s.gts) ∧
    (∀ gm no, ∃ w : Word, exec (.grandMasterChoice gm no) s = .next { s with pkg := { s.pkg with tsstat := w } } ∧
      w.getLsbD 1 = gm ∧ (w.extractLsb' 16 12 : BitVec 12) = no ∧ w.getLsbD 0 = s.pkg.tsstat.getLsbD 0 ∧
      (w.extractLsb' 32 32 : BitVec 32) = s.pkg.tsstat.extractLsb' 32 32)

/-! ## Boot (spec/19 R438 to R440) -/

/-- R440: BOOTSTAT of an attempt. -/
structure Sys2Proof.Claims.BootStat (stage code unit tries : Nat) (s : State) : Prop where
  stage : s.pkg.bootstat.toNat % 2 ^ 3 = stage
  code : s.pkg.bootstat.toNat / 2 ^ 8 % 2 ^ 8 = code
  unit : s.pkg.bootstat.toNat / 2 ^ 16 % 2 ^ 8 = unit
  tries : s.pkg.bootstat.toNat / 2 ^ 24 % 2 ^ 8 = tries
  minver : s.pkg.bootstat.toNat / 2 ^ 48 = s.pkg.minver.toNat % 2 ^ 16

/-- R440, R425: the interrupts that an attempt sends, from s to u: where it fails PF vector 0 on every host link that HLSTAT shows up, link 0
first, and then an in-band interrupt; otherwise none. -/
def Sys2Proof.Claims.BootInterrupts (before : List Irq) (u : State) : Prop :=
  let up := fun (lo : Nat) (l : BitVec 1) => if u.pkg.hlstat.getLsbD (lo + 8) = true then [((0, 0, l) : Nat × Nat × BitVec 1)] else []
  let sent := (u.pkg.irqs.drop before.length).map fun i => (i.fn, i.vec, i.link)
  u.pkg.irqs.take before.length = before ∧
  (u.pkg.bootstat.toNat / 2 ^ 8 % 2 ^ 8 ≠ 0 → ∃ l, sent = up 0 0 ++ up 16 1 ++ [(0, 255, l)]) ∧
  (u.pkg.bootstat.toNat / 2 ^ 8 % 2 ^ 8 = 0 → sent = [])

/-- R438 steps 3 to 6, R439: what an image brings about at an attempt. Step 6 trains the host links, whose state HLSTAT shows (R425). -/
def Sys2Proof.Claims.BootsImage (im : List Byte) (o : BootObs) (tries : Nat) (minver : BitVec 32) (u : State) : Prop :=
  let len := leNat ((im.drop 4).take 4)
  let head := leNat (im.take 2) = 1 ∧ leNat ((im.drop 2).take 2) = 0 ∧ 64 ≤ len ∧ len ≤ 2 ^ 24 ∧ 64 ≤ im.length ∧
    ∀ b ∈ (im.drop 12).take 52, b = 0
  let signed := imageSigned im = true
  let link := fun (lo : Nat) => (u.pkg.hlstat.extractLsb' lo 16 : BitVec 16)
  let version : BitVec 32 := ofBytes 32 ((im.drop 8).take 4)
  u.pkg.minver = minver ∧
  (64 ≤ im.length → ¬head → BootStat 3 3 0 tries u) ∧ (head → ¬signed → BootStat 4 4 0 tries u) ∧
  (head → signed → version.toNat < minver.toNat → BootStat 5 5 0 tries u) ∧
  (head → signed → minver.toNat ≤ version.toNat → (∀ k, o.unitFail = some k → BootStat 6 6 k.toNat tries u) ∧
    (o.unitFail = none → BootStat 7 0 0 tries u ∧ u.pkg.version = version ∧
      u.pkg.digest = ofBytes 256 (shake256 (im.take len))) ∧
    (u.present 3 = true → link 0 = BitVec.setWidth 16 (o.hlstat.extractLsb' 0 10 : BitVec 10)) ∧
    (u.present 60 = true → link 16 = BitVec.setWidth 16 (o.hlstat.extractLsb' 16 10 : BitVec 10)))

/-- R438, R440, R451, R20, R418: a package reset boots: each step that fails leaves its code in BOOTSTAT and sends an in-band interrupt, and
PF vector 0 on every host link that has been trained by then;
what fuses and persistent counters hold is kept, gts() counts from 0, no context is bound, and only the cores that COREMASK enables
work; the firmware that runs writes PKGNO in every domain's DOMCFG. -/
def Sys2Proof.Claims.PackageResets : Prop :=
  ∀ (o : BootObs) (s : State), ∃ u, exec (.packageReset o) s = .next u ∧ u.gts = 0 ∧ u.binds = [] ∧ u.mem = [] ∧ u.hostmem = s.hostmem ∧
    u.pkg.minver = s.pkg.minver ∧ u.pkg.xmss = s.pkg.xmss ∧ u.pkg.pkgid = s.pkg.pkgid ∧ u.pkg.pop = s.pkg.pop ∧
    (∀ k n c, u.coreAt k n = some c → c.live = true → (s.pkg.pop.get k.toFin).cores.getLsbD n.toNat = true) ∧
    (u.running = false → u.doms = State.reset.doms) ∧
    (u.running = true → u.doms = State.reset.doms.map fun x => x.setCfg 5 (BitVec.ofNat 64 (u.pkg.pkgno.toNat * 2 ^ 32))) ∧
    (o.selfTest = false → BootStat 1 1 0 0 u) ∧ (o.selfTest = true → o.flash = false → BootStat 2 2 0 0 u) ∧
    (o.selfTest = true → o.flash = true → BootsImage (Config.image s.fresh) o 0 s.pkg.minver u) ∧
    BootInterrupts [] u ∧ (o.selfTest = false ∨ o.flash = false → u.pkg.hlstat = 0) ∧
    (u.pkg.bootstat.toNat / 2 ^ 8 % 2 ^ 8 ≠ 0 → u.running = false) ∧
    (u.pkg.bootstat.toNat % 2 ^ 3 = 7 → u.running = true)

/-- R440: 1 written to RECOVGO after a failure repeats steps 3 to 6 on what the host has written into the first 16 MiB of PF BAR2, and
counts the attempt; another value, or a device that has booted,
or no failure, is ignored. -/
def Sys2Proof.Claims.Recovery : Prop :=
  ∀ (v : Word) (o : BootObs) (s : State), let b := s.pkg.bootstat.toNat
    (v ≠ 1 ∨ b / 2 ^ 8 % 2 ^ 8 = 0 ∨ b % 2 ^ 3 = 7 → exec (.recovgo v o) s = .next s) ∧
    (v = 1 → b / 2 ^ 8 % 2 ^ 8 ≠ 0 → b % 2 ^ 3 ≠ 7 → ∃ u, exec (.recovgo v o) s = .next u ∧
      BootInterrupts s.pkg.irqs u ∧
      ∃ im, BootsImage im o (min 255 (b / 2 ^ 24 % 2 ^ 8 + 1)) s.pkg.minver u ∧ ∀ k < im.length, im[k]? = some (Memory.get s.pkg.bar2 k) ∧
        (64 ≤ leNat (Memory.getN s.pkg.bar2 4 4) → leNat (Memory.getN s.pkg.bar2 4 4) + 2820 ≤ 2 ^ 24 →
          im.length = leNat (Memory.getN s.pkg.bar2 4 4) + 2820)) ∧
    (∀ (a : Nat) (c : Byte), Memory.wf s.pkg.bar2 = true → let t := s.bar2Wrote [(a, c)]
      Memory.get t.pkg.bar2 a = (if a < 2 ^ 24 then c else Memory.get s.pkg.bar2 a) ∧
      ∀ k, k ≠ a → Memory.get t.pkg.bar2 k = Memory.get s.pkg.bar2 k)

/-- R451: without power only the fuses and the persistent counters stay; R384: a mismatch of the pair stops the firmware, is shown in
CMPERR, and is sent to the host link and the sideband and logged. -/
def Sys2Proof.Claims.PowerAndMismatch : Prop :=
  ∀ s : State,
    (∃ u, exec .powerLoss s = .next u ∧ u.pkg.powered = false ∧ u.pkg.minver = s.pkg.minver ∧ u.pkg.xmss = s.pkg.xmss ∧ u.mem = [] ∧
      u.binds = [] ∧ u.pkg.log = [] ∧ u.doms = State.reset.doms) ∧
    (∃ u, exec .campionMismatch s = .next u ∧ u.pkg.cmperr = true ∧ u.running = false ∧
      Interrupts [(0, 0), (0, 255)] s u ∧ Logged 0x0B 27 0 0 s u ∧ u.ctx = s.ctx ∧ u.doms = s.doms ∧ u.binds = s.binds)

/-! ## Errors and failures (spec/04 R116, spec/20 R443 to R445) -/

/-- R116, R443, R445: an uncorrectable error poisons its line of memory, of a carve or of a scratchpad, or its tile row, and no other, and
is logged and counted in its socket; where nothing stands no error is found; a correctable one is counted. A count stands at its
greatest value. -/
def Sys2Proof.Claims.MemoryErrors : Prop :=
  ∀ s : State,
    (∀ pa : BitVec 52, s.physOk pa.toNat 1 = false → exec (.uncorrectableError (.phys pa)) s = .next s) ∧
    (∀ k w o, s.present k = false ∨ classOf k ≠ 5 → exec (.uncorrectableError (.carve k w o)) s = .next s) ∧
    (∀ k c o, s.coreAt k c = none ∨ spadBytes (classOf k) ≤ o.toNat → exec (.uncorrectableError (.spad k c o)) s = .next s) ∧
    (∀ k c t r, s.coreAt k c = none ∨ (classOf k ≠ 1 ∧ classOf k ≠ 2) → exec (.uncorrectableError (.tile k c t r)) s = .next s) ∧
    (∀ k w o, s.present k = true → classOf k = 5 → ∃ u, exec (.uncorrectableError (.carve k w o)) s = .next u ∧ Logged 1 k 0 0 s u ∧
      u.lpois = sput false s.lpois (((w.toNat * 64 + k.toNat) * 2 ^ 25 + o.toNat) / 64) true ∧ u.ctx = s.ctx ∧ u.mpois = s.mpois) ∧
    (∀ k c o, (∃ x, s.coreAt k c = some x) → o.toNat < spadBytes (classOf k) → ∃ u, exec (.uncorrectableError (.spad k c o)) s = .next u ∧
      Logged 1 k c 0 s u ∧ u.ctx = s.ctx ∧ u.mpois = s.mpois ∧
      u.allCores = s.allCores.map fun x => if x.isAt k c then { x with spois := sput false x.spois (o.toNat / 64) true } else x) ∧
    (∀ k c t r, (∃ x, s.coreAt k c = some x) → classOf k = 1 ∨ classOf k = 2 → ∃ u,
      exec (.uncorrectableError (.tile k c t r)) s = .next u ∧ Logged 1 k c 0 s u ∧ u.ctx = s.ctx ∧ u.mpois = s.mpois ∧
      u.allCores = s.allCores.map fun x => if x.isAt k c then { x with tpois := sput false x.tpois (rowKey t.toNat r.toNat) true } else x) ∧
    (∀ pa : BitVec 52, s.physOk pa.toNat 1 = true → let k : BitVec 6 := pa.extractLsb' 46 6
      ∃ u, exec (.uncorrectableError (.phys pa)) s = .next u ∧ Logged 1 k 0 pa.toNat s u ∧
        (∀ l, sget false u.mpois l = (decide (l = pa.toNat / 64) || sget false s.mpois l)) ∧
        (u.pkg.health.get k.toFin).uecnt.toNat = min (2 ^ 32 - 1) ((s.pkg.health.get k.toFin).uecnt.toNat + 1) ∧
        (u.pkg.health.get k.toFin).lastue = s.arbseq ∧ u.mem = s.mem ∧ u.ctx = s.ctx) ∧
    (∀ k : BitVec 6, (s.pkg.pop.get k.toFin).state ≠ 2 → exec (.correctableError k) s = .next s) ∧
    (∀ k : BitVec 6, (s.pkg.pop.get k.toFin).state = 2 → ∃ h, exec (.correctableError k) s = .next { s with pkg := { s.pkg with health := h } } ∧
      (h.get k.toFin).cecnt.toNat = min (2 ^ 32 - 1) ((s.pkg.health.get k.toFin).cecnt.toNat + 1) ∧
      ∀ j, j ≠ k.toFin → h.get j = s.pkg.health.get j)

/-- R444: a core fails: its LIVE bit clears, the failure is logged, and every context bound on it fails, in turn. One that is not live,
or whose chiplet is not present, does not fail again. -/
def Sys2Proof.Claims.CoreFailures : Prop :=
  ∀ (k : BitVec 6) (n : BitVec 4) (s : State),
    ((∀ c, s.coreAt k n = some c → c.live = false) ∨ s.present k = false → exec (.coreFailure k n) s = .next s) ∧
    ∀ c, s.coreAt k n = some c → c.live = true → s.present k = true → ∃ t, exec (.coreFailure k n) s = .next (((s.boundOn k n).map (·.id)).foldl State.failCtx t) ∧ Logged 3 k n 0 s t ∧
      (∀ x ∈ t.allCores, x.isAt k n = true → x.live = false) ∧ (t.pkg.health.get k.toFin).live.getLsbD n.toNat = false ∧
      t.ctx = s.ctx ∧ t.binds = s.binds ∧ t.pkg.pop = s.pkg.pop

/-- R443: a chiplet that fails as a whole counts as present no more, and its cores have failed; the population keeps it. R432: a
second-tier device that goes down clears its bit. -/
def Sys2Proof.Claims.ChipletFailures : Prop :=
  ∀ (k : BitVec 6) (s : State),
    (s.present k = false → exec (.chipletFailure k) s = .next s) ∧
    (s.present k = true → (∀ c ∈ s.ctxs, c.id.loc.sock = k → s.isBound c = false) →
      ∃ u, exec (.chipletFailure k) s = .next u ∧ u.present k = false ∧ Logged 4 k 0 0 s u ∧ u.pkg.pop = s.pkg.pop ∧
        (∀ n c, u.coreAt k n = some c → c.live = false) ∧ u.ctx = s.ctx) ∧
    (∀ dev : BitVec 2, s.present k = false ∨ classOf k ≠ 8 ∨ (s.pkg.health.get k.toFin).live.getLsbD dev.toNat = false →
      exec (.secondTierDeviceDown k dev) s = .next s) ∧
    (∀ dev : BitVec 2, s.present k = true → classOf k = 8 → (s.pkg.health.get k.toFin).live.getLsbD dev.toNat = true →
      ∃ u, exec (.secondTierDeviceDown k dev) s = .next u ∧ Logged 5 k 0 dev.toNat s u ∧
        (∀ i, i < 16 → (u.pkg.health.get k.toFin).live.getLsbD i =
          ((s.pkg.health.get k.toFin).live.getLsbD i && decide (i ≠ dev.toNat))) ∧ u.ctx = s.ctx)

/-! ## Power, temperature and the command port (spec/20 R442 to R452) -/

/-- R449: each millisecond above the cap takes one step off the arithmetic clock, down to 7; it comes back one step at a time once the
power has stayed below 97 % of the cap for a millisecond. An episode is logged once. -/
def Sys2Proof.Claims.PowerCap : Prop :=
  ∀ (pin : BitVec 16) (s : State), ∃ u, exec (.powerCapStep pin) s = .next u ∧ u.pkg.pin = pin ∧ u.ctx = s.ctx ∧ u.gts = s.gts ∧
    (s.pkg.pcap.toNat < pin.toNat → u.pkg.clk.toNat = (if 7 < s.pkg.clk.toNat then s.pkg.clk.toNat - 1 else s.pkg.clk.toNat) ∧
      u.pkg.capping = true ∧ (s.pkg.capping = true → u.arbseq = s.arbseq ∧ u.pkg.log = s.pkg.log) ∧
      (s.pkg.capping = false → Logged 9 27 0 0 s u)) ∧
    (pin.toNat ≤ s.pkg.pcap.toNat → u.pkg.log = s.pkg.log ∧
      (s.pkg.lowms = true → pin.toNat * 100 < s.pkg.pcap.toNat * 97 → s.pkg.clk.toNat < 16 → u.pkg.clk = s.pkg.clk + 1) ∧
      (s.pkg.lowms = false ∨ s.pkg.pcap.toNat * 97 ≤ pin.toNat * 100 ∨ 16 ≤ s.pkg.clk.toNat → u.pkg.clk = s.pkg.clk) ∧
      u.pkg.lowms = decide (pin.toNat * 100 < s.pkg.pcap.toNat * 97))

/-- R448, R450: TMAX is the highest temperature of a present socket; TWARN (95 degrees) and TCRIT (105 degrees) are each logged and sent
once when TMAX passes them, and TCRIT asserts the alert pin. -/
def Sys2Proof.Claims.Temperature : Prop :=
  ∀ (k : BitVec 6) (temp : BitVec 16) (s : State),
    ((s.pkg.pop.get k.toFin).state ≠ 2 → exec (.thermalCrossing k temp) s = .next s) ∧
    ((s.pkg.pop.get k.toFin).state = 2 → ∃ u, exec (.thermalCrossing k temp) s = .next u ∧ (u.pkg.health.get k.toFin).temp = temp ∧
      (∀ j, (s.pkg.pop.get j).state = 2 → (u.pkg.health.get j).temp.toInt ≤ u.pkg.tmax.toInt) ∧
      (∃ j, (s.pkg.pop.get j).state = 2 ∧ (u.pkg.health.get j).temp = u.pkg.tmax) ∧
      let warn := s.pkg.tmax.toInt < 760 ∧ 760 ≤ u.pkg.tmax.toInt
      let crit := s.pkg.tmax.toInt < 840 ∧ 840 ≤ u.pkg.tmax.toInt
      (¬warn → ¬crit → u.pkg.log = s.pkg.log ∧ u.pkg.irqs = s.pkg.irqs ∧ u.pkg.alert = s.pkg.alert) ∧
      (warn → ¬crit → Logged 7 u.pkg.tsock 0 0 s u ∧ Interrupts [(0, 2), (0, 255)] s u ∧ u.pkg.alert = s.pkg.alert) ∧
      (¬warn → crit → Logged 8 u.pkg.tsock 0 0 s u ∧ Interrupts [(0, 2), (0, 255)] s u ∧ u.pkg.alert = true) ∧
      (warn → crit → u.arbseq = s.arbseq + 2 ∧ Interrupts [(0, 2), (0, 255), (0, 2), (0, 255)] s u ∧ u.pkg.alert = true))

/-- R442: the command runs from s to t and its response is r. -/
def Sys2Proof.Claims.Responds (i : Instr) (s : State) (r : List Byte) (t : State) : Prop :=
  exec i s = .next { t with pkg := { t.pkg with resp := some r } }
/-- The commands of the port (R442). -/
noncomputable def Sys2Proof.Claims.commandsOf (k : BitVec 8) (w : BitVec 16) (nonce : BitVec 128) : List Instr :=
  [.hread k, .elog, .hflush k, .telem, .pcapset w, .idkey, .attest nonce, .minvup]

/-- R442: a command acts as if no response were unread, and its own stands in place of one that was; reading the response takes it and changes
nothing else; an operand out of range is answered by 0x01 alone, an unknown CMD by 0x05. -/
def Sys2Proof.Claims.CommandPort : Prop :=
  ∀ (k : BitVec 8) (w : BitVec 16) (nonce : BitVec 128) (s : State),
    (∀ i ∈ commandsOf k w nonce, exec i s = exec i { s with pkg := { s.pkg with resp := none } }) ∧
    exec .responseRead s = .next { s with pkg := { s.pkg with resp := none } } ∧
    (∀ (c : Byte) (rest : List Byte), c = 0 ∨ 8 < c.toNat →
      s.privateWrite (c :: rest) = { s with pkg := { s.pkg with resp := some [5] } }) ∧
    (∀ c ∈ [([1, k], Instr.hread k), ([2], .elog), ([3, k], .hflush k), ([4], .telem), (5 :: leBytes 2 w.toNat, .pcapset w), ([6], .idkey),
        (7 :: leBytes 16 nonce.toNat, .attest nonce), ([8], .minvup)], s.privateWrite c.1 = { s with inbox := s.inbox ++ [c.2] }) ∧
    (64 ≤ k.toNat → Responds (.hread k) s [1] s) ∧ (16 ≤ k.toNat → Responds (.hflush k) s [1] s) ∧
    (w.toNat < 4000 ∨ 10500 < w.toNat → Responds (.pcapset w) s [1] s) ∧
    (4000 ≤ w.toNat → w.toNat ≤ 10500 → Responds (.pcapset w) s [0] { s with pkg := { s.pkg with pcap := w } })

/-- R443: an entry of a socket that is not present holds its class and state alone; a present one's shows failure, the live units, the
counts, the temperature and the last error. -/
def Sys2Proof.Claims.HealthReads : Prop :=
  ∀ (k : BitVec 8) (s : State), k.toNat < 64 → let j := Fin.ofNat 64 k.toNat
    let p := s.pkg.pop.get j
    let h := s.pkg.health.get j
    ∃ e : BitVec 256, Responds (.hread k) s (0 :: toBytes e) s ∧ e.toNat % 2 ^ 4 = classOf (k.setWidth 6) ∧ e.toNat / 2 ^ 4 % 2 ^ 2 = p.state.toNat ∧
      (p.state ≠ 2 → e.toNat < 2 ^ 6) ∧
      (p.state = 2 → e.getLsbD 6 = h.failed ∧
        (e.extractLsb' 8 16 : BitVec 16) = (if classOf (k.setWidth 6) = 5 ∨ classOf (k.setWidth 6) = 6 ∨ classOf (k.setWidth 6) = 7 then 0
          else h.live) ∧ (e.extractLsb' 32 32 : BitVec 32) = h.cecnt ∧ (e.extractLsb' 64 32 : BitVec 32) = h.uecnt ∧
        (e.extractLsb' 96 16 : BitVec 16) = h.temp ∧ (e.extractLsb' 128 64 : Word) = h.lastue)

/-- R445, R447, R448: ELOG takes the oldest unread entry, OVF telling of a loss before it, or zeros; HFLUSH leaves no count in a TLB entry
of its domain; TELEM reads the power, the cap, the temperature and the two thresholds. -/
def Sys2Proof.Claims.LogsAndCounts : Prop :=
  ∀ s : State,
    (s.pkg.log = [] → Responds .elog s (List.replicate 33 0) s) ∧
    (∀ e rest, s.pkg.log = e :: rest → ∃ x : BitVec 256,
      Responds .elog s (0 :: toBytes x) { s with pkg := { s.pkg with log := rest, logovf := false } } ∧ x.getLsbD 23 = s.pkg.logovf ∧
        ∀ i, i < 256 → i ≠ 23 → x.getLsbD i = e.getLsbD i) ∧
    (∀ d : BitVec 8, d.toNat < 16 → ∃ u, Responds (.hflush d) s [0] u ∧
      (∀ c ∈ u.allCores, ∀ e ∈ c.tlb, e.dom.toNat = d.toNat → e.acc.toNat = 0 ∧ e.wr.toNat = 0) ∧
      ((∀ c ∈ s.allCores, ∀ e ∈ c.tlb, e.dom.toNat ≠ d.toNat) → u.mem = s.mem ∧ u.core = s.core)) ∧
    (∃ x : BitVec 128, Responds .telem s (0 :: toBytes x) s ∧ (x.extractLsb' 0 16 : BitVec 16) = s.pkg.pin ∧
      (x.extractLsb' 16 16 : BitVec 16) = s.pkg.pcap ∧ (x.extractLsb' 32 16 : BitVec 16) = s.pkg.tmax ∧
      (x.extractLsb' 48 6 : BitVec 6) = s.pkg.tsock ∧ (x.extractLsb' 64 16 : BitVec 16) = 760 ∧ (x.extractLsb' 80 16 : BitVec 16) = 840 ∧
      x.getLsbD 96 = s.pkg.capping)

/-- R451: IDKEY answers the 68 bytes of the device identity key; ATTEST counts the index before it signs the body with its one-time key, logs when 65,536 are left, and ends with 0x03 when none is. -/
def Sys2Proof.Claims.Attestation : Prop :=
  ∀ (nonce : BitVec 128) (s : State),
    (∃ r : List Byte, r.length = 68 ∧ r = idKey.pub ∧ Responds .idkey s (0 :: r) s) ∧
    (2 ^ 20 ≤ s.pkg.xmss.toNat → Responds (.attest nonce) s [3] s) ∧
    (s.pkg.xmss.toNat < 2 ^ 20 → ∃ body sig t, Responds (.attest nonce) s (0 :: body ++ sig) t ∧ body.length = 128 ∧ sig.length = 2820 ∧ sig = idKey.sign s.pkg.xmss.toNat body ∧
      body.take 8 = [1, 0, 0, 0] ++ toBytes s.pkg.xmss ∧ (body.drop 8).take 24 = toBytes s.pkg.pkgid ++ toBytes nonce ∧
      (body.drop 32).take 40 = toBytes s.pkg.digest ++ toBytes s.pkg.version ++ toBytes s.pkg.minver ∧
      t.pkg.xmss = s.pkg.xmss + 1 ∧ t.ctx = s.ctx ∧
      (s.pkg.xmss.toNat = 2 ^ 20 - 65537 → Logged 0x0A 27 0 0 s t) ∧ (s.pkg.xmss.toNat ≠ 2 ^ 20 - 65537 → t.pkg.log = s.pkg.log))

/-! ## Rules stated whole -/

/-- R452: MINVUP sets MINVER to the running image's VERSION when VERSION is greater, and otherwise changes nothing; its status is 0x00
either way; MINVER does not decrease. -/
def Sys2Proof.Claims.MinimumVersion : Prop :=
  ∀ s : State,
    (s.pkg.minver.toNat < s.pkg.version.toNat → ∃ w : Word,
      Responds .minvup s [0x00] { s with pkg := { s.pkg with minver := s.pkg.version, bootstat := w } }) ∧
    (s.pkg.version.toNat ≤ s.pkg.minver.toNat → Responds .minvup s [0x00] s) ∧
    ∃ u, exec .minvup s = .next u ∧ s.pkg.minver.toNat ≤ u.pkg.minver.toNat

/-- R265: gts, opcode 0x73 of layout XR, issues on every sequencer; in an active slot D is the global timestamp, at once and without
anything else but the program counter, the tokens and the latch. -/
def Sys2Proof.Claims.TimestampRead : Prop :=
  ∀ f : XR, shape (.gts f) = .xr 0x73 f ∧ (∀ q, (shape (.gts f)).mayIssue q = true) ∧
    ∀ (s : State) (tok : Vector (BitVec 4) 8) (t : State), Issues (.gts f) s tok → slotAt (.gts f) (begun (.gts f) s tok) = true →
      Gives (wS f.d s.gts) (begun (.gts f) s tok) () t →
      exec (.gts f) s = .next (done (.gts f) s t) ∧ ScalarFrame f.d [] s (done (.gts f) s t)

/-- R267: disc, opcode 0x7A of layout XR, issues on SC alone; in an active slot D is the 8 bytes of the discovery table at u(A) with bits
2:0 cleared, 0 at or beyond TBLLEN; it never traps, and nothing else changes but the program counter, the tokens and the latch. -/
def Sys2Proof.Claims.DiscoveryRead : Prop :=
  (∀ f : XR, shape (.disc f) = .xr 0x7A f ∧ (∀ q, (shape (.disc f)).mayIssue q = true ↔ q = .sc) ∧
    ∀ (s : State) (tok : Vector (BitVec 4) 8) (a : Word) (s1 t : State), Issues (.disc f) s tok →
      slotAt (.disc f) (begun (.disc f) s tok) = true → Gives (rS f.a) (begun (.disc f) s tok) a s1 →
      Gives (wS f.d (s.pkg.discovery (a.toNat / 8 * 8))) s1 () t →
      exec (.disc f) s = .next (done (.disc f) s t) ∧ ScalarFrame f.d [f.a] s (done (.disc f) s t)) ∧
  ∀ (p : Pkg) (a : Nat), p.tbllen ≤ a → p.discovery (a / 8 * 8) = 0

/-- R285: srseed, opcode 0x93 of layout XR, in an active slot seeds all 64 lane generators from A[31:0] as R171 states, whatever the lane
bits of the predicate hold: lane l's becomes A[31:0] + l × 0x6A09E667 modulo 2^32, or 0x5D2E9A63 where that is 0. It writes no
register and sets no flag. -/
def Sys2Proof.Claims.SeedForm : Prop :=
  ∀ f : XR, shape (.srseed f) = .xr 0x93 f ∧
    ∀ (s : State) (tok : Vector (BitVec 4) 8) (a : Word) (t : State), Issues (.srseed f) s tok →
      slotAt (.srseed f) (begun (.srseed f) s tok) = true → Gives (rS f.a) (begun (.srseed f) s tok) a t →
      ∃ u, exec (.srseed f) s = .next u ∧ OnlyCtx s u ∧ u.ctx.s = s.ctx.s ∧ u.ctx.v = s.ctx.v ∧ u.ctx.o = s.ctx.o ∧ u.ctx.p = s.ctx.p ∧
        (u.ctx.seqs.get s.turn).latch = s.sq.latch ∧ u.ctx.fpflg = s.ctx.fpflg ∧ u.ctx.engflg = s.ctx.engflg ∧
        ∀ l < 64, (vget u.ctx.srs l).toNat =
          (let x := (a.toNat + l * 0x6A09E667) % 2 ^ 32
           if x = 0 then 0x5D2E9A63 else x)

/-! ## Operands and results (spec/02 R42 to R48, spec/04 R91 to R94, spec/07 R191) -/

/-- R42, R43, R118: a queue from which a pop takes the value x becomes p: the head that no open region has popped leaves, or, popped in
region r, keeps its place with a mark. -/
def Sys2Proof.Claims.Popped {α : Type} (r : Option (BitVec 12)) (q : List (QEnt α)) (x : α) (p : List (QEnt α)) : Prop :=
  ∃ a e b, q = a ++ e :: b ∧ (∀ y ∈ a, y.mark ≠ none) ∧ e.mark = none ∧ x = e.val ∧
    p = a ++ (match r with
      | none => b
      | some n => { e with mark := some n } :: b)

/-- R94, R191: what a scalar operand reads, by its specifier; a queue without an entry holds the instruction. -/
def Sys2Proof.Claims.ScalarOperands : Prop :=
  ∀ (sp : BitVec 6) (s : State), let n := sp.toNat
    (n < 32 → Gives (rS sp) s (vget s.ctx.s n) s) ∧
    (32 ≤ n → n < 48 → Gives (rS sp) s ((vget s.ctx.o (n - 32)).setWidth 64) s) ∧
    (n = 48 → Gives (rS sp) s (s.sq.latch.setWidth 64) s) ∧ (48 < n → n < 56 → Gives (rS sp) s 0 s) ∧
    (56 ≤ n → let q := vget s.ctx.q (n - 56)
      ((∀ e ∈ q, e.mark ≠ none) → rS sp s = .error (.block .dqEmpty none)) ∧
      ((∃ e ∈ q, e.mark = none) → ∃ x p, Popped s.curRgn q x p ∧
        Gives (rS sp) s x { s with ctx := { s.ctx with q := vset s.ctx.q (n - 56) p } }))

/-- R42, R94, R191: what a scalar result writes, by its specifier: one register or operand-file register, zero-extended, or nothing,
and the latch with it; or a queue alone, which holds the instruction while it is full. -/
def Sys2Proof.Claims.ScalarResults : Prop :=
  ∀ (sp : BitVec 6) (x : Word) (s : State), let n := sp.toNat
    let latched (t : State) : Prop := t.sq = { s.sq with latch := x.setWidth 2048 } ∧ OnlyCtx s t
    (n < 32 → ∃ t, Gives (wS sp x) s () t ∧ vget t.ctx.s n = x ∧ (∀ k < 32, k ≠ n → vget t.ctx.s k = vget s.ctx.s k) ∧
      t.ctx.o = s.ctx.o ∧ latched t) ∧
    (32 ≤ n → n < 48 → ∃ t, Gives (wS sp x) s () t ∧ vget t.ctx.o (n - 32) = x.setWidth 2048 ∧
      (∀ k < 16, k ≠ n - 32 → vget t.ctx.o k = vget s.ctx.o k) ∧ t.ctx.s = s.ctx.s ∧ latched t) ∧
    (48 ≤ n → n < 56 → ∃ t, Gives (wS sp x) s () t ∧ t.ctx.s = s.ctx.s ∧ t.ctx.o = s.ctx.o ∧ t.ctx.q = s.ctx.q ∧ latched t) ∧
    (56 ≤ n → let q := vget s.ctx.q (n - 56)
      (8 ≤ q.length → wS sp x s = .error (.block .dqFull none)) ∧
      (q.length < 8 → Gives (wS sp x) s () { s with ctx := { s.ctx with q := vset s.ctx.q (n - 56) (q ++ [{ val := x }]) } }))

/-- R92, R94, R191: what a vector operand reads: v0 to v15 by their own number, v16 to v31 rotated by VRB. -/
def Sys2Proof.Claims.VectorOperands : Prop :=
  ∀ (sp : BitVec 6) (s : State), let n := sp.toNat
    (n < 16 → Gives (rV sp) s (vget s.ctx.v n) s) ∧
    (16 ≤ n → n < 32 → Gives (rV sp) s (vget s.ctx.v (16 + (n - 16 + s.sq.vrb.toNat) % 16)) s) ∧
    (32 ≤ n → n < 48 → Gives (rV sp) s (vget s.ctx.o (n - 32)) s) ∧
    (n = 48 → Gives (rV sp) s s.sq.latch s) ∧ (48 < n → n < 56 → Gives (rV sp) s 0 s) ∧
    (56 ≤ n → n < 60 → let q := vget s.ctx.vq (n - 56)
      ((∀ e ∈ q, e.mark ≠ none) → rV sp s = .error (.block .dqEmpty none)) ∧
      ((∃ e ∈ q, e.mark = none) → ∃ x p, Popped s.curRgn q x p ∧
        Gives (rV sp) s x { s with ctx := { s.ctx with vq := vset s.ctx.vq (n - 56) p } }))

/-- R48, R92, R94: a vector result changes the active lanes of one destination and keeps its others; the merged value reaches the latch; a
queue takes it with zeros in the other lanes. -/
def Sys2Proof.Claims.VectorResults : Prop :=
  ∀ (sp : BitVec 6) (m : Mask) (x : Vec) (s : State), let n := sp.toNat
    let merges (old new : Vec) : Prop := ∀ i < 64, lane new i = if m.getLsbD i then lane x i else lane old i
    (n < 32 → ∃ t, Gives (wV sp m x) s () t ∧ merges (s.vReg n) (t.vReg n) ∧ (∀ k < 32, k ≠ n → t.vReg k = s.vReg k) ∧
      t.sq = { s.sq with latch := t.vReg n } ∧ t.ctx.o = s.ctx.o ∧ OnlyCtx s t) ∧
    (32 ≤ n → n < 48 → ∃ t, Gives (wV sp m x) s () t ∧ merges (vget s.ctx.o (n - 32)) (vget t.ctx.o (n - 32)) ∧
      (∀ k < 16, k ≠ n - 32 → vget t.ctx.o k = vget s.ctx.o k) ∧ t.sq = { s.sq with latch := vget t.ctx.o (n - 32) } ∧
      t.ctx.v = s.ctx.v ∧ OnlyCtx s t) ∧
    (n = 48 → ∃ y, Gives (wV sp m x) s () (s.setSq { s.sq with latch := y }) ∧ merges s.sq.latch y) ∧
    (48 < n → n < 56 → ∃ y, Gives (wV sp m x) s () (s.setSq { s.sq with latch := y }) ∧ merges 0 y) ∧
    (56 ≤ n → n < 60 → let q := vget s.ctx.vq (n - 56)
      (4 ≤ q.length → wV sp m x s = .error (.block .dqFull none)) ∧
      (q.length < 4 → ∃ y, merges 0 y ∧ Gives (wV sp m x) s () { s with ctx := { s.ctx with vq := vset s.ctx.vq (n - 56) (q ++ [{ val := y }]) } }))

/-- R47, R92, R94, R191: p0 reads all ones, p1 to p7 by their own number, p8 to p15 rotated by PRB, zero as zeros; a write changes the
register that its name reads and no other, one to p0 or zero none, and the latch takes the value. -/
def Sys2Proof.Claims.PredicateOperands : Prop :=
  ∀ (sp : BitVec 6) (x : Mask) (s : State), let n := sp.toNat
    (n = 0 → Gives (rP sp) s (BitVec.allOnes 64) s) ∧ (1 ≤ n → n < 8 → Gives (rP sp) s (vget s.ctx.p n) s) ∧
    (8 ≤ n → n < 16 → Gives (rP sp) s (vget s.ctx.p (8 + (n - 8 + s.sq.prb.toNat) % 8)) s) ∧ (16 ≤ n → Gives (rP sp) s 0 s) ∧
    ∃ t, Gives (wP sp x) s () t ∧ t.sq = { s.sq with latch := x.setWidth 2048 } ∧ OnlyCtx s t ∧
      (∀ k < 16, t.pReg k = if k = n ∧ n ≠ 0 then x else s.pReg k) ∧ t.ctx.v = s.ctx.v ∧ t.ctx.s = s.ctx.s

/-- R92: the sixteen rotating vector names, and the eight rotating predicate names, name sixteen and eight different registers. -/
def Sys2Proof.Claims.RotationIsOneToOne : Prop :=
  (∀ (b : BitVec 4) (i j : Nat), i < 32 → j < 32 → vPhys b i = vPhys b j → i = j) ∧
  (∀ (b : BitVec 4) (i : Nat), i < 32 → vPhys b i < 32) ∧
  (∀ (b : BitVec 3) (i j : Nat), i < 16 → j < 16 → pPhys b i = pPhys b j → i = j) ∧
  ∀ (b : BitVec 3) (i : Nat), i < 16 → pPhys b i < 16

/-! ## Memory as data -/

/-- R2: a byte that is written reads back, and no other place of any storage reads otherwise. -/
def Sys2Proof.Claims.ByteWrites : Prop :=
  ∀ (s : State) (p : Place) (b : Byte), Canon s → p.sp ≠ .peer →
    (s.putByte p b).byteAt p = b ∧ ∀ r, r ≠ p → (s.putByte p b).byteAt r = s.byteAt r

/-- R2: words are little-endian: n bytes written from an address read back as the number they hold, lowest byte first. -/
def Sys2Proof.Claims.WordsReadBack : Prop :=
  ∀ (m : Memory) (a n v : Nat), Memory.wf m = true →
    leNat (Memory.getN (Memory.setN m a (leBytes n v)) a n) = v % 2 ^ (8 * n) ∧ Memory.wf (Memory.setN m a (leBytes n v)) = true ∧
    (∀ k, k < a ∨ a + n ≤ k → Memory.get (Memory.setN m a (leBytes n v)) k = Memory.get m k)

/-- R11, R13, R424: a record for a full exception queue is discarded and counted; the next one delivered carries OVERFLOW and the count,
and starts the count again. A GANGF record of another package keeps its ORIG. A write that the host refuses is lost (R429). -/
def Sys2Proof.Claims.LostRecords : Prop :=
  ∀ (d : BitVec 4) (x : SubQ) (r : BitVec 512) (s : State), s.findQ d x.num = some x →
    let t := (s.eqLook d x).2
    (s.eqRoom d x = false → s.report d x.num r = t.modQ d x.num fun y => { y with lost := if y.lost = 0xFFFF then 0xFFFF else y.lost + 1 }) ∧
    (s.eqRoom d x = true → Canon s → ∃ (w : BitVec 512) (u : State), u = s.report d x.num r ∧
      (s.queueReadable d x = true → x.ctl.toNat + 64 ≤ x.exq.toNat ∨ x.exq.toNat + 64 * 2 ^ x.m ≤ x.ctl.toNat →
        Config.freeBool t.fresh = false → u.hostBytes d (x.exq.toNat + 64 * (x.eqtail.toNat % 2 ^ x.m)) 64 = toBytes w) ∧
      (r.toNat % 2 ^ 8 = 0x81 → (r.extractLsb' 400 16 : BitVec 16).toNat ≠ s.pkg.pkgno.toNat →
        (w.extractLsb' 448 64 : Word) = r.extractLsb' 448 64) ∧
      (x.lost ≠ 0 → w.getLsbD 11 = true ∧ (w.extractLsb' 112 16 : BitVec 16) = x.lost) ∧
      (x.lost = 0 → w.getLsbD 11 = r.getLsbD 11 ∧ (w.extractLsb' 112 16 : BitVec 16) = r.extractLsb' 112 16) ∧
      (w.extractLsb' 256 64 : Word) = s.arbseq ∧ (w.extractLsb' 320 64 : Word) = s.gts ∧ u.arbseq = s.arbseq + 1 ∧
      ∀ y, u.findQ d x.num = some y → y.lost = 0 ∧ y.eqtail = x.eqtail + 1)

/-! ## Encoding (spec/07 R183 to R187, R200 to R202) -/

/-- R183: bits 5:4 of the first parcel decide the length; a stream with fewer bytes holds no instruction. -/
def Sys2Proof.Claims.DecodedLength : Prop :=
  (∀ w : Word, (decodeWord w).2 = (if w.toNat / 16 % 4 = 3 then 2 else if w.toNat / 16 % 4 = 2 then 8 else 4)) ∧
  (∀ w : Word, lenOf (decodeWord w).1 = (decodeWord w).2) ∧
  (∀ bs : List Byte, bs.length < 2 → decode bs = .error .short) ∧
  ∀ (b : Byte) (bs : List Byte), bs.length + 1 < (if b.toNat / 16 % 4 = 3 then 2 else if b.toNat / 16 % 4 = 2 then 8 else 4) →
    decode (b :: bs) = .error .short

/-- R185 to R187, R195, R200, R201: decode and encode agree. Every assigned instruction is read back from its own word with every field,
and from its own bytes, whatever follows them, when it is well formed; and every word that is an assigned instruction is the word
of what it decodes to. -/
def Sys2Proof.Claims.RoundTrip : Prop :=
  (∀ i, encodable i = true → decodeWord (encodeWord i) = (i, lenOf i)) ∧
  (∀ i rest, encodable i = true → WellFormed i = true → decode (encode i ++ rest) = .ok (i, rest)) ∧
  ∀ w : Word, encodable (decodeWord w).1 = true → (encodeWord (decodeWord w).1).toNat = w.toNat % 2 ^ (8 * (decodeWord w).2)

/-- R202: the unassigned opcodes of the W32 and W64 maps, as ranges. -/
def Sys2Proof.Claims.unassigned (wide : Bool) : List (Nat × Nat) :=
  if wide then [(0x00, 0x00), (0x0C, 0x0F), (0x1E, 0x1F), (0x3C, 0x3F), (0x5A, 0x5F), (0x74, 0x77), (0x7D, 0x7F), (0x8F, 0x8F), (0xA6, 0xAF),
    (0xBC, 0xBF), (0xE0, 0xFF)]
  else [(0x00, 0x00), (0x16, 0x17), (0x27, 0x27), (0x35, 0x3F), (0x59, 0x7F)]
/-- R198, R202: what the decoder refuses, and by which name: an opcode that the maps leave unassigned, and no other; a static check that
fails. -/
def Sys2Proof.Claims.DecoderRefuses : Prop :=
  (∀ w : Word, w.toNat / 16 % 4 = 2 → let op := w.toNat / 64 % 256
    ((decodeWord w).1 = .unassignedOpcode true w ↔ ∃ r ∈ unassigned true, r.1 ≤ op ∧ op ≤ r.2) ∧
    (encodable (decodeWord w).1 = false → (decodeWord w).1 = .unassignedOpcode true w)) ∧
  (∀ w : Word, w.toNat / 16 % 4 < 2 → let op := w.toNat / 64 % 64 + 64 * (w.toNat / 16 % 2)
    ((decodeWord w).1 = .unassignedOpcode false (w &&& 0xFFFFFFFF) ↔ ∃ r ∈ unassigned false, r.1 ≤ op ∧ op ≤ r.2) ∧
    (encodable (decodeWord w).1 = false → (decodeWord w).1 = .unassignedOpcode false (w &&& 0xFFFFFFFF))) ∧
  (∀ b w, checked (.unassignedOpcode b w) = .error .unassigned) ∧
  (∀ i c b, encodable i = true → staticCheck i = some (c, b) → checked i = .error (.ill c b)) ∧
  ∀ i, encodable i = true → staticCheck i = none → checked i = .ok i

/-- Words written out from the layouts of R185 to R187 and the maps of R200, R201 read as the instructions they stand for. -/
def Sys2Proof.Claims.DecodedWords : Prop :=
  decodeWord 0x000000008D046411 = (.vfadd { tok := 1, pred := 2, d := 17, a := 16, b := 35 }, 4) ∧
  decodeWord 0x0200026004281020 =
    (.ld { tok := 0, pred := 0, sense := 0, t := 5, a := 2, b := 0, wd := 3, am := 2, f := 0, m := 0, off := 64 }, 8) ∧
  decodeWord 0xFFFFFFD0800006A0 = (.bloop { tok := 0, pred := 0, sense := 0, a := 0, b := 0, lc := 1, z := 0, off := 0xFFFFFFD }, 8) ∧
  decodeWord 0x0000000180080060 = (.li { tok := 0, pred := 0, sense := 0, d := 1, a := 0, imm := 3, top := 0 }, 8)

/-! ## Reset and the step -/

/-- R400, R418, R437, R442 to R449: the machine right after reset. -/
structure Sys2Proof.Claims.AfterReset (s : State) : Prop where
  timestamp : s.gts = 0
  arbiter : s.arbseq = 1
  nothingBound : s.binds = []
  idle : ∀ c ∈ s.ctxs, c.cst = .idle
  stopped : ∀ c ∈ s.ctxs, ∀ q, (c.seqs.get q).run ≠ .running
  domains : ∀ d : BitVec 4, ((s.dom d).cfg.get 0).toNat = d.toNat + 2 ^ 10
  noQueue : ∀ d : BitVec 4, (s.dom d).queues = []
  cap : s.pkg.pcap.toNat = 10500
  clock : s.pkg.clk.toNat = 16
  command : s.pkg.resp = none
  log : s.pkg.log = []
/-- The machine right after reset is as the rules say. -/
def Sys2Proof.Claims.ResetState : Prop := AfterReset State.reset

/-- Right after reset every storage is in its canonical form, and no byte of any is listed. -/
def Sys2Proof.Claims.ResetCanon : Prop := Canon State.reset ∧ ∀ p : Place, State.reset.byteAt p = 0

/-- EVERY STEP KEEPS THE CANONICAL FORM: scratchpad, tiles, scale memory, DRAM, carves, host memory, the boot buffer, blocks, buffer tables and what a
gang switch has saved of them. -/
def Sys2Proof.Claims.StepKeepsCanon : Prop := ∀ s t : State, Canon s → step s = .next t → Canon t

/-- R35, R36, R55, R333: a step runs the instruction that stands at the program counter of the sequencer in turn, on a core that the
running context holds, when nothing else waits to be done; then the lease and the time between steps. One that issues, whatever it
then waits for, enters its line; one that waits for an operand or a token, and one tried again, do not. Before it come the events that have arrived, the signals that the sequencer holds, and the fetch of a
line that it lacks. A sequencer that cannot issue lets time pass. -/
def Sys2Proof.Claims.StepRunsDecoded : Prop :=
  ∀ s : State,
    (∀ w t, s.focusOk = true → s.inbox = [] → s.alive = true → s.sq.held = [] → s.ready = true → s.fetchWord = .ok w →
      exec (decodeWord w).1 s = .next t →
      (s.issuesIn t = true → step s = after (leaseStep s (exec (decodeWord w).1 s.enter))) ∧
      (s.issuesIn t = false → step s = after (leaseStep s (.next t)))) ∧
    (∀ w t, s.focusOk = true → s.inbox = [] → s.alive = true → s.sq.held = [] → s.ready = true → s.fetchWord = .ok w →
      (s.ctx.id.harv = true ∨ (s.part.lease ≠ .held ∧ s.part.lease ≠ .revoking)) → exec (decodeWord w).1 s = .next t →
      (s.issuesIn t = true → ∀ u, exec (decodeWord w).1 s.enter = .next u → step s = .next u.advance) ∧
      (s.issuesIn t = false → step s = .next t.advance)) ∧
    (∀ e rest, s.focusOk = true → s.inbox = e :: rest → step s = after (exec e { s with inbox := rest })) ∧
    (s.focusOk = true → s.inbox = [] → s.alive = true → s.sq.held ≠ [] → s.sq.atB = false → s.sq.atE = false →
      step s = after (exec (.resultComplete s.turn) s)) ∧
    (∀ a, s.focusOk = true → s.inbox = [] → s.alive = true → s.sq.held = [] → s.ready = true → s.fetchWord = .error a →
      step s = after (exec (.demandFetch s.turn) s)) ∧
    (s.focusOk = true → s.inbox = [] → s.alive = false ∨ (s.sq.held = [] ∧ s.ready = false) → step s = .next s.advance) ∧
    (s.focusOk = false → step s = .fault .focus) ∧
    (∀ t, after (.next t) = .next t.advance)
/-- The bytes at the program counter are what an instruction is read from: its address is even, and its parcels come from the lines of
the instruction cache that hold them, lowest first (R183, R333). -/
def Sys2Proof.Claims.FetchedBytes : Prop :=
  ∀ (s : State) (x : ILine), let pc := s.sq.pc
    s.core.iline s.domOf (lineOf pc) = some x → pc.toNat % 64 ≤ 56 → pc.toNat % 2 = 0 →
      let w : Word := x.data.extractLsb' (8 * (pc.toNat % 64)) 64
      s.fetchWord = .ok (w &&& BitVec.ofNat 64 (2 ^ (8 * lenOfParcel (w.extractLsb' 4 2)) - 1))

/-- No instruction and no event faults or is refused: each answers a next state from every state. -/
def Sys2Proof.Claims.EveryInstructionAnswers : Prop := ∀ (i : Instr) (s : State), ∃ t, exec i s = .next t

/-- Words written out from the encoding tables decode to their instructions. -/
def Obligations.WordsRead : Prop :=
  Claims.DecodedWords ∧ Claims.DecodedLength

/-- Decode and encode agree on every assigned instruction, field for field. -/
def Obligations.DecodeEncodeAgree : Prop :=
  Claims.RoundTrip

/-- What the decoder and the decode checks refuse, in which order and by which name. Log entry 28: which bit a refused
field is reported at. -/
def Obligations.DecoderRefusals : Prop :=
  Claims.DecoderRefuses ∧ Claims.UnassignedOpcodes ∧ Claims.CheckOrder

/-- A step runs the instruction decoded at the program counter, and what surrounds it. Log entries 5 and 6: the order of
turns and the time between steps are free. -/
def Obligations.StepRunsInstruction : Prop :=
  Claims.StepRunsDecoded ∧ Claims.FetchedBytes

/-- No instruction and no event faults or is refused. -/
def Obligations.EveryInstructionAnswers : Prop :=
  Claims.EveryInstructionAnswers

/-- What reset leaves, and that reset is canonical. Log entries 1, 2 and 3: register values at reset, the design map, and
that no byte is listed and each reads 0, are the model's. -/
def Obligations.ResetMachine : Prop :=
  Claims.ResetState ∧ Claims.ResetCanon

/-- Every step keeps the canonical form of every storage. The canonical form is the model's (log entry 3). -/
def Obligations.CanonicalFormKept : Prop :=
  Claims.StepKeepsCanon

/-- Operand specifiers: what each reads, what each writes, and rotation. Log entry 29: writes to p0 and the zero predicate
still reach the latch. -/
def Obligations.OperandsAndResults : Prop :=
  Claims.ScalarOperands ∧ Claims.ScalarResults ∧ Claims.VectorOperands ∧ Claims.VectorResults ∧
  Claims.PredicateOperands ∧ Claims.RotationIsOneToOne

/-- A byte or word written reads back, and no other place differs. -/
def Obligations.StorageReadsBack : Prop :=
  Claims.ByteWrites ∧ Claims.WordsReadBack

/-- Precise traps, token waits, inactive slots and held signals. -/
def Obligations.TrapsAndTokens : Prop :=
  Claims.TrapEntry ∧ Claims.TokenWaits ∧ Claims.InactiveSlots ∧ Claims.HeldSignals ∧ Claims.TokenForms

/-- Instruction fetch, the instruction cache and dictionary parcels. Log entry 30: poison of code is checked when the line
arrives. -/
def Obligations.FetchAndParcels : Prop :=
  Claims.InstructionFetch ∧ Claims.CacheWays ∧ Claims.DictionaryParcels

/-- Results of the two-source, immediate and one-source integer forms. -/
def Obligations.IntegerResults : Prop :=
  Claims.TwoSourceForms ∧ Claims.ImmediateForms ∧ Claims.OneSourceForms

/-- Long immediates, pointers, select and bit fields. -/
def Obligations.ImmediatesAndFields : Prop :=
  Claims.LongImmediateForms ∧ Claims.PointerAndFieldForms

/-- Frame of the integer forms: what they leave unchanged. -/
def Obligations.IntegerFrame : Prop :=
  Claims.IntegerFrame

/-- Branches, jumps and calls: where the program counter goes. -/
def Obligations.BranchesAndJumps : Prop :=
  Claims.RelativeBranches ∧ Claims.RegisterJumps

/-- Loop counters, rotation and halting. Log entry 31: a halted sequencer's program counter stands after the halt. -/
def Obligations.LoopsAndHalts : Prop :=
  Claims.LoopForms ∧ Claims.Halting

/-- Predicate forms, the branch-outcome queue and queue peeks. Log entry 18: qlen leaves out the entries that an open
region has popped. -/
def Obligations.PredicatesAndQueues : Prop :=
  Claims.PredicateForms ∧ Claims.QueueForms

/-- Deferral of rare-path lanes: defer, drain, rejoin, and where they trap. -/
def Obligations.DeferDrainRejoin : Prop :=
  Claims.DeferForm ∧ Claims.DrainForm ∧ Claims.RejoinForm ∧ Claims.DeferralInHarvest

/-- Idempotent regions: how they open, end and commit. -/
def Obligations.IdempotentRegions : Prop :=
  Claims.RegionBegin ∧ Claims.RegionEnd ∧ Claims.HarvestCommits

/-- Edge pops and waits, and the status of an edge. -/
def Obligations.EdgePopsAndStatus : Prop :=
  Claims.EdgePopTakes ∧ Claims.EdgePopWaits ∧ Claims.EdgeStatus

/-- Edge pushes with and without capabilities: what they publish, what turns them away, and in a harvest context. -/
def Obligations.EdgePushes : Prop :=
  Claims.EdgePush ∧ Claims.PushesTurnedAway ∧ Claims.CapabilityPushes ∧ Claims.PushResumes ∧
  Claims.HarvestPushBuffered

/-- Job control blocks: raise, post, read, and the order checks. Log entry 48: JCBORD of cause 0x2 names block 0. -/
def Obligations.ControlBlocks : Prop :=
  Claims.BlockForms ∧ Claims.BlockOrder

/-- Address modes and scalar loads. Both loads rest on log entry 7 (no data cache). -/
def Obligations.ScalarLoadsAndModes : Prop :=
  Claims.AddressModes ∧ Claims.ScalarLoads ∧ Claims.DirectLoad ∧ Claims.TranslatedLoads

/-- Scalar stores, direct, translated, to the host and to a peer: the bytes stored and every other byte unchanged. Log
entries 7, 26 and 40: no data cache; a store for whose packets its job has no room waits; whether a host access ends
in an error is free. -/
def Obligations.StoredBytes : Prop :=
  Claims.DirectStore ∧ Claims.HarvestStore ∧ Claims.TranslatedStores ∧ Claims.HostAccesses ∧ Claims.PeerStores

/-- Vector loads and stores: lane addresses, lanes loaded, bytes stored. -/
def Obligations.VectorMemory : Prop :=
  Claims.LaneAddresses ∧ Claims.VectorLoads ∧ Claims.LanesLoaded ∧ Claims.VectorStores

/-- Window and capability checks, translation and the page walk, prefetch and cache maintenance. Log entries 7 and 37:
prefetch changes nothing; icinv acts by the domain virtual address. -/
def Obligations.AccessChecks : Prop :=
  Claims.WindowCheck ∧ Claims.CapabilityCheck ∧ Claims.VirtualAddress ∧ Claims.TableWalk ∧ Claims.Translations ∧
  Claims.Maintenance

/-- Circular buffers: reserve, acquire, commit, release, and their descriptors. -/
def Obligations.BuffersAndDescriptors : Prop :=
  Claims.CircularBuffers ∧ Claims.DescriptorWrites

/-- Scalar atomics and commutative updates. -/
def Obligations.ScalarAtomics : Prop :=
  Claims.CommutativeOperations ∧ Claims.UpdateThenRead ∧ Claims.ScalarAtomics ∧ Claims.TranslatedAtomics ∧
  Claims.CommutativeUpdates

/-- Vector atomics act lane after lane, lowest first. -/
def Obligations.VectorAtomics : Prop :=
  Claims.VectorAtomics

/-- Fences, semaphores and barriers. Log entry 36: which rights barinit and the other barrier forms need, and when they
are checked. -/
def Obligations.Synchronisation : Prop :=
  Claims.Fences ∧ Claims.Semaphores ∧ Claims.Barriers

/-- Address waits, their deadlines, and wake writes. -/
def Obligations.WaitsAndWakes : Prop :=
  Claims.AddressWaits ∧ Claims.WaitDeadlines ∧ Claims.Wakes

/-- Integer lane forms and their frame. -/
def Obligations.LaneArithmetic : Prop :=
  Claims.LaneForms ∧ Claims.LaneFrame

/-- Floating lane forms round the exact result once; roots and approximations. Log entry 8: an approximation's result
within its bound is free. -/
def Obligations.FloatingPoint : Prop :=
  Claims.ElementsRounded ∧ Claims.FloatingForms ∧ Claims.RootsAndApproximations

/-- In every floating format a held value is delivered unchanged in every mode. -/
def Obligations.FormatsExact : Prop :=
  Claims.FormatsExact

/-- Rounding: nearest in RNE, and the closest on the right side in RTZ, RDN and RUP. -/
def Obligations.RoundingIsCorrect : Prop :=
  Claims.RoundingIsCorrect

/-- Compares, selection, permutes and lane moves. Log entry 29: vins to a queue gives zeros in the other lanes. -/
def Obligations.ComparesPermutesMoves : Prop :=
  Claims.CompareSelectForms ∧ Claims.PermuteForms ∧ Claims.LaneMoves

/-- Complex arithmetic, twiddles and reductions. -/
def Obligations.ComplexAndReductions : Prop :=
  Claims.ComplexForms ∧ Claims.Reductions

/-- Conversions between formats, element by element and by blocks. Log entries 17 and 50: lanes that take no part with
64-bit elements; the clamped infinity of a saturating conversion. -/
def Obligations.Conversions : Prop :=
  Claims.ConversionForms ∧ Claims.BlockConversion

/-- The sort network: configurations, load, readout and register sorts. Log entry 56: what a flush and DEDUP do where the
spec is silent. -/
def Obligations.SortNetwork : Prop :=
  Claims.SortConfigurations ∧ Claims.SortLoad ∧ Claims.SortReadout ∧ Claims.SortRegisters

/-- A top-K network holds the K best pairs, of equal keys the earlier ones. -/
def Obligations.TopKHoldsBest : Prop :=
  Claims.TopKHoldsBest

/-- Capabilities: share, transfer, drop, narrow, read, export and import. Log entry 4: a peer's answer is free. -/
def Obligations.Capabilities : Prop :=
  Claims.CapabilityForms ∧ Claims.ExportImport

/-- Control registers read and written, and lending. -/
def Obligations.ControlRegisters : Prop :=
  Claims.ControlRegisters ∧ Claims.RegisterWriteOperations ∧ Claims.LendingForms

/-- Tickets, the nest table, product posts and tile posts. -/
def Obligations.EnginePosts : Prop :=
  Claims.TicketForms ∧ Claims.NestTable ∧ Claims.ProductPosts ∧ Claims.NestRejected ∧ Claims.TilePosts

/-- Sparse, copy, transform, collective and fence posts. -/
def Obligations.StreamAndSparsePosts : Prop :=
  Claims.SparseRegisters ∧ Claims.SparsePosts ∧ Claims.CopyPost ∧ Claims.StreamPosts ∧ Claims.FencePost

/-- Engine queues: the head, its end, and fences. Log entry 49: the completion semaphore of an entry of any family gains
one at a normal end only. -/
def Obligations.EngineQueues : Prop :=
  Claims.QueueHeads ∧ Claims.EntryEnds ∧ Claims.FenceHolds

/-- Steps of a nest, tile operations and scale copies. -/
def Obligations.MatrixSteps : Prop :=
  Claims.StepOrder ∧ Claims.StepProduct ∧ Claims.GroupExact ∧ Claims.TileSteps ∧ Claims.TileStored ∧
  Claims.ScaleCopies

/-- Copy pieces, gathered rows, stream operations and collectives. Log entry 20: how a copy is cut into pieces is the
model's. -/
def Obligations.DataEngines : Prop :=
  Claims.CopyPieces ∧ Claims.GatheredRow ∧ Claims.StreamOperations ∧ Claims.CollectiveSteps ∧ Claims.CollectiveAborts

/-- Page waiters, deadlock, peer answers and held records. Log entries 4 and 22: which answer a peer gives, and what an
atomic at its home comes to, are free. -/
def Obligations.WaitersAndRecords : Prop :=
  Claims.PageRequests ∧ Claims.WaitersWalk ∧ Claims.DeadlockFaults ∧ Claims.PeerAnswers ∧ Claims.OtherPackages ∧
  Claims.AsksCaptured ∧ Claims.HeldRecords

/-- Dispatch: restore, pre-emption, quanta, deadlines, leases and placement. Log entries 32 and 33: what the spec does not
say of a placement and of a deadline. -/
def Obligations.Dispatch : Prop :=
  Claims.Restores ∧ Claims.GivesUpCore ∧ Claims.PreEmptions ∧ Claims.Quanta ∧ Claims.StrideChoice ∧
  Claims.DeadlineMisses ∧ Claims.LeaseSteps ∧ Claims.Placements

/-- Isolation domains: enable, reset, registers and the host aperture. Log entries 16, 27 and 42: what PF registers keep,
a refused enable and its records are the model's. -/
def Obligations.Domains : Prop :=
  Claims.DomainEnable ∧ Claims.DomainResets ∧ Claims.RegisterWrites ∧ Claims.HostAperture

/-- Packet queues: doorbells, packets, queue creation and answers. Log entries 13, 14 and 24: when the worker takes no
packet, when a context leaves FAULTED, and causes of a refused QNEW are the model's. -/
def Obligations.PacketQueues : Prop :=
  Claims.PacketsTaken ∧ Claims.PacketsComplete ∧ Claims.Doorbells ∧ Claims.QueueCreation ∧ Claims.QueueEnds ∧
  Claims.Answers

/-- Graph loads, unloads and launches. -/
def Obligations.GraphsAndLaunches : Prop :=
  Claims.GraphLoads ∧ Claims.GraphHeaders ∧ Claims.GraphUnloads ∧ Claims.Launches ∧ Claims.WaitingLaunches

/-- Blocks, buffers, exports, page-table entries and counters by packet. Log entries 6 and 25: free counter values and
causes that are the model's. -/
def Obligations.PacketObjects : Prop :=
  Claims.Blocks ∧ Claims.BufferCreation ∧ Claims.BufferRelease ∧ Claims.ExportWithdrawal ∧ Claims.EntryWrites ∧
  Claims.CounterReads

/-- Gang switch: packet checks, start, stop, sweep, time-out and packet records. Log entry 26: what the spec leaves open
of a switch, its causes 0x06 included. -/
def Obligations.GangSwitchOut : Prop :=
  Claims.GangPacketChecks ∧ Claims.GangStarts ∧ Claims.GangStops ∧ Claims.GangSweeps ∧ Claims.GangSaves ∧
  Claims.SweepTimeouts ∧ Claims.PlateRoutes ∧ Claims.PacketRecords ∧ Claims.LateBins

/-- Gang switch: late packets, switch-in and re-injection; failing contexts. Log entry 26: what the spec leaves open of a
switch, its causes 0x06 included. -/
def Obligations.GangSwitchIn : Prop :=
  Claims.LatePackets ∧ Claims.GangIn ∧ Claims.GangRestores ∧ Claims.GangMessages ∧ Claims.ReinjectionKeeps ∧
  Claims.ContextFailures

/-- Host links, fabric ports, flits, routes and the global timestamp. Log entries 34 and 59: the form of answer flits, and
what a retrain does with what the port held. -/
def Obligations.LinksAndTime : Prop :=
  Claims.HostLinks ∧ Claims.PortTraining ∧ Claims.FlitsReceived ∧ Claims.FlitsSent ∧ Claims.PortsDown ∧ Claims.Routes
  ∧ Claims.Timestamps

/-- Package reset, boot, recovery, power, and the firmware pair. Log entries 1, 2, 3, 5, 34 and 60: what reset leaves,
inputs of the boot, and the signature functions. -/
def Obligations.BootAndPower : Prop :=
  Claims.PackageResets ∧ Claims.Recovery ∧ Claims.PowerAndMismatch ∧ Claims.PowerCap ∧ Claims.Temperature ∧
  Claims.Attestation

/-- Memory errors, failures, the command port, health and logs. Log entries 15, 16 and 34: commands and their bytes, and
the domain of a memory error, are the model's. -/
def Obligations.ErrorsAndHealth : Prop :=
  Claims.MemoryErrors ∧ Claims.CoreFailures ∧ Claims.ChipletFailures ∧ Claims.CommandPort ∧ Claims.HealthReads ∧
  Claims.LogsAndCounts

/-- gts, disc and srseed: opcode, sequencers, and the whole effect of each. Cites R265, R267, R285 whole. -/
def Obligations.TimestampDiscoveryAndSeed : Prop :=
  Claims.TimestampRead ∧ Claims.DiscoveryRead ∧ Claims.SeedForm

/-- Lost exception records are counted and told; MINVUP only raises MINVER. Cites R13, R452 whole. -/
def Obligations.LostRecordsAndMinimumVersion : Prop :=
  Claims.LostRecords ∧ Claims.MinimumVersion
end

