-- ==== Sys2Proof/Laws/Issue.lean ====
section
/-! SUPPORT. What issuing an instruction can answer (R198, R37, R40, R41), and how effects compose. -/

namespace Sys2Proof.Laws
open Sys2Proof Sys2Proof.Machine Sys2Proof.Claims

theorem gives_bind {α β : Type} {e : Eff α} {g : α → Eff β} {s t u : State} {a : α} {b : β}
    (h : Gives e s a t) (k : Gives (g a) t b u) : Gives (e >>= g) s b u := by
  unfold Gives at *
  simp only [bind, StateT.bind, h, Except.bind, k]

theorem gives_pure {α : Type} (a : α) (s : State) : Gives (pure a) s a s := rfl
theorem gives_gets {α : Type} (f : State → α) (s : State) : Gives (Eff.gets f) s (f s) s := rfl
theorem gives_mod (f : State → State) (s : State) : Gives (Eff.mod f) s () (f s) := rfl
theorem gives_check {b : Bool} (t : Trap) (s : State) (h : b = true) : Gives (Eff.check b t) s () s := by
  subst h; rfl

theorem gives_whenSlot {p : BitVec 4} {n : BitVec 1} {e : Eff Unit} {s t : State} (h : s.slotOn p n = true)
    (k : Gives e s () t) : Gives (whenSlot p n e) s () t :=
  gives_bind (gives_gets _ s) (by simpa [h] using k)

theorem gives_whenSlot_off {p : BitVec 4} {n : BitVec 1} {e : Eff Unit} {s : State} (h : s.slotOn p n = false) :
    Gives (whenSlot p n e) s () s :=
  gives_bind (gives_gets _ s) (by simpa [h] using gives_pure () s)

theorem gives_whenLanes {p : BitVec 4} {n : BitVec 1} {e : Mask → Eff Unit} {s t : State} (h : s.lanesOn p n ≠ 0)
    (k : Gives (e (s.lanesOn p n)) s () t) : Gives (whenLanes p n e) s () t :=
  gives_bind (gives_gets _ s) (by rw [if_neg h]; exact k)

theorem gives_whenLanes_off {p : BitVec 4} {n : BitVec 1} {e : Mask → Eff Unit} {s : State} (h : s.lanesOn p n = 0) :
    Gives (whenLanes p n e) s () s :=
  gives_bind (gives_gets _ s) (by simpa [h] using gives_pure () s)

/-- An instruction whose effect ends completes. -/
theorem issue_next {i : Instr} {body : Eff Unit} {s t : State} {tok : Vector (BitVec 4) 8} (h : Issues i s tok)
    (hb : Gives body (begun i s tok) () t) : issue i body s = .next (done i s t) := by
  unfold issue issueAs
  simp only [h.unskipped, h.sound, h.tokens, Bool.false_eq_true, if_false]
  unfold Gives begun at hb
  rw [hb]; rfl

/-- One that fails a decode check takes ILLOP before anything else happens. -/
theorem issue_decode_trap {i : Instr} {body : Eff Unit} {s : State} {x : Trap} (hs : s.sq.skip = false)
    (h : decodeTrap s (shape i) (checks i) (dynBad s i) = some x) : issue i body s = .next (s.raise x) := by
  unfold issue issueAs; simp [hs, h]

/-- One whose links lack a token waits. -/
theorem issue_token_wait {i : Instr} {body : Eff Unit} {s : State} (hs : s.sq.skip = false)
    (h : decodeTrap s (shape i) (checks i) (dynBad s i) = none)
    (ht : takeTokens s.ctx.tok (waitLinks s.turn (shape i).tok) (tokCount (shape i)) = none) :
    issue i body s = .next (s.blocked s (tokenWait s.ctx.tok s.turn (shape i).tok (tokCount (shape i)))) := by
  unfold issue issueAs; simp [hs, h, ht]

/-- One whose effect traps takes the kind in the state before it (R10, R41). -/
theorem issue_trap {i : Instr} {body : Eff Unit} {s : State} {tok : Vector (BitVec 4) 8} {x : Trap}
    (h : Issues i s tok) (hb : body (begun i s tok) = .error (.trap x)) :
    issue i body s = .next (s.raise (fillLease x (fmtOf s (shape i)) (shape i).opcode.toNat s.part.lent.toNat)) := by
  unfold issue issueAs
  simp only [h.unskipped, h.sound, h.tokens, Bool.false_eq_true, if_false]
  unfold begun at hb
  rw [hb]; rfl

/-- One whose effect waits stands where it was. -/
theorem issue_block {i : Instr} {body : Eff Unit} {s : State} {tok : Vector (BitVec 4) 8} {w : Wait} {k : Option State}
    (h : Issues i s tok) (hb : body (begun i s tok) = .error (.block w k)) :
    issue i body s = .next (s.blocked (k.getD s) w) := by
  unfold issue issueAs
  simp only [h.unskipped, h.sound, h.tokens, Bool.false_eq_true, if_false]
  unfold begun at hb
  rw [hb]; rfl

/-- Whatever its effect, an instruction answers a next state. -/
theorem issue_total (i : Instr) (body : Eff Unit) (s : State) : ∃ t, issue i body s = .next t := by
  unfold issue issueAs
  split
  · exact ⟨_, rfl⟩
  · split
    · exact ⟨_, rfl⟩
    · split <;> exact ⟨_, rfl⟩

end Sys2Proof.Laws
end

