-- ==== Sys2Proof/Laws/Memory.lean ====
section
/-! SUPPORT. Keyed data and memory: every operation keeps the canonical form, and a read after a write. -/

namespace Sys2Proof.Laws
open Sys2Proof Sys2Proof.Machine Sys2Proof.Claims

/-! ## Keyed data -/

section
variable {α : Type} [DecidableEq α] {d : α}

theorem sorted_mono {m : Sparse α} : ∀ {lo hi : Nat}, lo ≤ hi → sorted d hi m = true → sorted d lo m = true := by
  intro lo hi h hs
  cases m with
  | nil => rfl
  | cons e t => simp only [sorted, Bool.and_eq_true, decide_eq_true_eq] at hs ⊢; exact ⟨⟨by omega, hs.1.2⟩, hs.2⟩

/-- A write keeps the form. -/
theorem sorted_sput {k : Nat} {v : α} : ∀ {m : Sparse α} {lo : Nat}, lo ≤ k → sorted d lo m = true →
    sorted d lo (sput d m k v) = true := by
  intro m
  induction m with
  | nil => intro lo h _; simp only [sput]; split <;> simp_all [sorted]
  | cons e t ih =>
    intro lo h hs
    obtain ⟨k', v'⟩ := e
    simp only [sorted, Bool.and_eq_true, decide_eq_true_eq] at hs
    obtain ⟨⟨h1, h2⟩, h3⟩ := hs
    simp only [sput]
    split
    · split
      · simp [sorted, h1, h2, h3]
      · rename_i hk hv
        simp only [sorted, Bool.and_eq_true, decide_eq_true_eq]
        exact ⟨⟨h, hv⟩, ⟨hk, h2⟩, h3⟩
    · split
      · subst k'
        split
        · exact sorted_mono (by omega) h3
        · simp [sorted, *]
      · simp only [sorted, Bool.and_eq_true, decide_eq_true_eq]
        exact ⟨⟨h1, h2⟩, ih (by omega) h3⟩

theorem swf_sput {m : Sparse α} (k : Nat) (v : α) (h : swf d m = true) : swf d (sput d m k v) = true :=
  sorted_sput (Nat.zero_le k) h

/-- What stands below every key reads as the default. -/
theorem sget_below {k : Nat} : ∀ {m : Sparse α} {lo : Nat}, k < lo → sorted d lo m = true → sget d m k = d := by
  intro m
  induction m with
  | nil => intros; rfl
  | cons e t ih =>
    intro lo h hs
    simp only [sorted, Bool.and_eq_true, decide_eq_true_eq] at hs
    simp only [sget, if_neg (by omega : ¬e.1 = k)]
    exact ih (by omega) hs.2

/-- A read of the key that was written. -/
theorem sget_sput_same {k : Nat} {v : α} : ∀ {m : Sparse α} {lo : Nat}, sorted d lo m = true → sget d (sput d m k v) k = v := by
  intro m
  induction m with
  | nil => intro lo _; simp only [sput]; split <;> simp_all [sget]
  | cons e t ih =>
    intro lo hs
    obtain ⟨k', v'⟩ := e
    simp only [sorted, Bool.and_eq_true, decide_eq_true_eq] at hs
    obtain ⟨⟨h1, h2⟩, h3⟩ := hs
    simp only [sput]
    split
    · split
      · rw [sget, if_neg (by omega), sget_below (by omega) h3]; simp_all
      · simp [sget]
    · split
      · split
        · rw [sget_below (by omega) h3]; simp_all
        · simp [sget]
      · rw [sget, if_neg (by omega)]; exact ih h3

/-- A read of another key. -/
theorem sget_sput_ne {j k : Nat} {v : α} (h : j ≠ k) : ∀ {m : Sparse α}, sget d (sput d m k v) j = sget d m j := by
  intro m
  induction m with
  | nil => simp only [sput]; split <;> simp [sget]; omega
  | cons e t ih =>
    obtain ⟨k', v'⟩ := e
    simp only [sput]
    split
    · split
      · rfl
      · rw [sget, if_neg (by omega)]
    · split
      · rename_i hk
        subst hk
        split
        · rw [sget, if_neg (Ne.symm h)]
        · simp only [sget, if_neg (Ne.symm h)]
      · simp only [sget, ih]

theorem sorted_filter (f : Nat × α → Bool) : ∀ {m : Sparse α} {lo : Nat}, sorted d lo m = true → sorted d lo (m.filter f) = true := by
  intro m
  induction m with
  | nil => intros; rfl
  | cons e t ih =>
    intro lo hs
    simp only [sorted, Bool.and_eq_true, decide_eq_true_eq] at hs
    rw [List.filter_cons]
    split
    · simp only [sorted, Bool.and_eq_true, decide_eq_true_eq]; exact ⟨hs.1, ih hs.2⟩
    · exact sorted_mono (by omega) (ih hs.2)

/-- Clearing a range keeps the form. -/
theorem swf_sclear {m : Sparse α} (lo len : Nat) (h : swf d m = true) : swf d (sclear m lo len) = true := sorted_filter _ h

end

/-! ## Memory -/

theorem Memory.wf_set {m : Memory} (a : Nat) (b : Byte) (h : Memory.wf m = true) : Memory.wf (Memory.set m a b) = true :=
  swf_sput a b h

theorem Memory.get_set_same {m : Memory} {a : Nat} {b : Byte} (h : Memory.wf m = true) : Memory.get (Memory.set m a b) a = b :=
  sget_sput_same h

theorem Memory.get_set_ne {m : Memory} {a c : Nat} {b : Byte} (h : c ≠ a) : Memory.get (Memory.set m a b) c = Memory.get m c :=
  sget_sput_ne h

theorem Memory.wf_setN {bs : List Byte} : ∀ {m : Memory} {a : Nat}, Memory.wf m = true → Memory.wf (Memory.setN m a bs) = true := by
  induction bs with
  | nil => exact fun h => h
  | cons b bs ih => exact fun h => ih (Memory.wf_set _ b h)

theorem Memory.get_setN_outside {bs : List Byte} : ∀ {m : Memory} {a c : Nat}, c < a ∨ a + bs.length ≤ c →
    Memory.get (Memory.setN m a bs) c = Memory.get m c := by
  induction bs with
  | nil => intros; rfl
  | cons b bs ih =>
    intro m a c h
    simp only [List.length_cons] at h
    rw [Memory.setN, ih (by omega), Memory.get_set_ne (by omega)]

/-- Bytes that were written are read back. -/
theorem Memory.getN_setN {bs : List Byte} : ∀ {m : Memory} {a : Nat}, Memory.wf m = true →
    Memory.getN (Memory.setN m a bs) a bs.length = bs := by
  induction bs with
  | nil => intros; rfl
  | cons b bs ih =>
    intro m a h
    simp only [List.length_cons, Memory.getN, Memory.setN]
    rw [ih (Memory.wf_set _ b h), Memory.get_setN_outside (by omega), Memory.get_set_same h]

theorem Memory.wf_foldl {β : Type} (f : Memory → β → Memory) (hf : ∀ m b, Memory.wf m = true → Memory.wf (f m b) = true) :
    ∀ (l : List β) (m : Memory), Memory.wf m = true → Memory.wf (l.foldl f m) = true := by
  intro l
  induction l with
  | nil => exact fun m h => h
  | cons b l ih => exact fun m h => ih _ (hf m b h)

/-- A merge keeps the form. -/
theorem Memory.wf_applyLine {m : Memory} (u : UpdLine) (h : Memory.wf m = true) : Memory.wf (applyLine m u) = true := by
  unfold applyLine
  refine Memory.wf_foldl _ (fun m k hm => ?_) _ _ h
  dsimp only
  split
  · exact Memory.wf_setN hm
  · exact hm

/-! ## Domains -/

theorem dom_setDom_same (s : State) (d : BitVec 4) (x : Dom) : (s.setDom d x).dom d = x := by
  simp [State.dom, State.setDom, Vector.get]
  exact Vector.getElem_set_self d.isLt

theorem dom_setDom_ne {s : State} {d e : BitVec 4} {x : Dom} (h : e ≠ d) : (s.setDom d x).dom e = s.dom e := by
  have hn : d.toNat ≠ e.toNat := fun k => h (BitVec.eq_of_toNat_eq k.symm)
  exact Vector.getElem_set_ne d.isLt e.isLt hn

theorem dom_modDom_same (s : State) (d : BitVec 4) (f : Dom → Dom) : (s.modDom d f).dom d = f (s.dom d) := dom_setDom_same _ _ _
theorem dom_modDom_ne {s : State} {d e : BitVec 4} {f : Dom → Dom} (h : e ≠ d) : (s.modDom d f).dom e = s.dom e := dom_setDom_ne h
theorem dom_modDom (s : State) (d e : BitVec 4) (f : Dom → Dom) : (s.modDom d f).dom e = if e = d then f (s.dom e) else s.dom e := by
  split
  · rename_i h; subst h; exact dom_modDom_same s e f
  · rename_i h; exact dom_modDom_ne h

/-! ## One byte of a storage -/

/-- A byte that was written is read back. -/
theorem byteAt_putByte_same {s : State} {p : Place} {b : Byte} (h : Memory.wf (s.memOf p.sp) = true) (hp : p.sp ≠ .peer) :
    (s.putByte p b).byteAt p = b := by
  obtain ⟨sp, a⟩ := p
  cases sp <;> simp only [State.byteAt, State.putByte, State.memOf] at h ⊢ <;>
    first | exact Memory.get_set_same h | exact absurd rfl hp

/-- Every other byte is as before. -/
theorem byteAt_putByte_ne {s : State} {p q : Place} {b : Byte} (h : q ≠ p) : (s.putByte p b).byteAt q = s.byteAt q := by
  obtain ⟨sp, a⟩ := p
  obtain ⟨sq, c⟩ := q
  have hm : ∀ m : Memory, sp = sq → Memory.get (Memory.set m a b) c = Memory.get m c :=
    fun m e => Memory.get_set_ne (by rintro rfl; exact h (by rw [e]))
  cases sp <;> cases sq <;> simp only [State.byteAt, State.putByte, State.memOf] <;>
    first
    | rfl
    | exact hm _ rfl

end Sys2Proof.Laws
end

