-- ==== Sys2Proof/Laws/State.lean ====
section
/-! SUPPORT. What each update of the state leaves as it was, and what it sets, one lemma for each field. -/

namespace Sys2Proof.Laws
open Sys2Proof Sys2Proof.Machine

/-! ## setSq -/

@[simp] theorem setSq_core (s : State) (x : Seqr) : (s.setSq x).core = s.core := rfl
@[simp] theorem setSq_others (s : State) (x : Seqr) : (s.setSq x).others = s.others := rfl
@[simp] theorem setSq_cores (s : State) (x : Seqr) : (s.setSq x).cores = s.cores := rfl
@[simp] theorem setSq_turn (s : State) (x : Seqr) : (s.setSq x).turn = s.turn := rfl
@[simp] theorem setSq_doms (s : State) (x : Seqr) : (s.setSq x).doms = s.doms := rfl
@[simp] theorem setSq_mem (s : State) (x : Seqr) : (s.setSq x).mem = s.mem := rfl
@[simp] theorem setSq_mpois (s : State) (x : Seqr) : (s.setSq x).mpois = s.mpois := rfl
@[simp] theorem setSq_tags (s : State) (x : Seqr) : (s.setSq x).tags = s.tags := rfl
@[simp] theorem setSq_jcbs (s : State) (x : Seqr) : (s.setSq x).jcbs = s.jcbs := rfl
@[simp] theorem setSq_binds (s : State) (x : Seqr) : (s.setSq x).binds = s.binds := rfl
@[simp] theorem setSq_mons (s : State) (x : Seqr) : (s.setSq x).mons = s.mons := rfl
@[simp] theorem setSq_overflow (s : State) (x : Seqr) : (s.setSq x).overflow = s.overflow := rfl
@[simp] theorem setSq_woken (s : State) (x : Seqr) : (s.setSq x).woken = s.woken := rfl
@[simp] theorem setSq_pending (s : State) (x : Seqr) : (s.setSq x).pending = s.pending := rfl
@[simp] theorem setSq_xfq (s : State) (x : Seqr) : (s.setSq x).xfq = s.xfq := rfl
@[simp] theorem setSq_accNext (s : State) (x : Seqr) : (s.setSq x).accNext = s.accNext := rfl
@[simp] theorem setSq_nextKey (s : State) (x : Seqr) : (s.setSq x).nextKey = s.nextKey := rfl
@[simp] theorem setSq_peers (s : State) (x : Seqr) : (s.setSq x).peers = s.peers := rfl
@[simp] theorem setSq_gangs (s : State) (x : Seqr) : (s.setSq x).gangs = s.gangs := rfl
@[simp] theorem setSq_net (s : State) (x : Seqr) : (s.setSq x).net = s.net := rfl
@[simp] theorem setSq_ports (s : State) (x : Seqr) : (s.setSq x).ports = s.ports := rfl
@[simp] theorem setSq_pkg (s : State) (x : Seqr) : (s.setSq x).pkg = s.pkg := rfl
@[simp] theorem setSq_arbseq (s : State) (x : Seqr) : (s.setSq x).arbseq = s.arbseq := rfl
@[simp] theorem setSq_gts (s : State) (x : Seqr) : (s.setSq x).gts = s.gts := rfl
@[simp] theorem setSq_parcel (s : State) (x : Seqr) : (s.setSq x).parcel = s.parcel := rfl
@[simp] theorem setSq_inbox (s : State) (x : Seqr) : (s.setSq x).inbox = s.inbox := rfl
@[simp] theorem setSq_llc (s : State) (x : Seqr) : (s.setSq x).llc = s.llc := rfl
@[simp] theorem setSq_lpois (s : State) (x : Seqr) : (s.setSq x).lpois = s.lpois := rfl
@[simp] theorem setSq_hostmem (s : State) (x : Seqr) : (s.setSq x).hostmem = s.hostmem := rfl
@[simp] theorem setSq_tlb2 (s : State) (x : Seqr) : (s.setSq x).tlb2 = s.tlb2 := rfl
@[simp] theorem setSq_nextAway (s : State) (x : Seqr) : (s.setSq x).nextAway = s.nextAway := rfl
@[simp] theorem setSq_waitNext (s : State) (x : Seqr) : (s.setSq x).waitNext = s.waitNext := rfl
@[simp] theorem setSq_flows (s : State) (x : Seqr) : (s.setSq x).flows = s.flows := rfl
@[simp] theorem setSq_fabout (s : State) (x : Seqr) : (s.setSq x).fabout = s.fabout := rfl
@[simp] theorem setSq_entry (s : State) (x : Seqr) : (s.setSq x).entry = s.entry := rfl
@[simp] theorem setSq_tick (s : State) (x : Seqr) : (s.setSq x).tick = s.tick := rfl
@[simp] theorem setSq_fresh (s : State) (x : Seqr) : (s.setSq x).fresh = s.fresh := rfl

/-! ## modCtx -/

@[simp] theorem modCtx_core (s : State) (f : Ctx → Ctx) : (s.modCtx f).core = s.core := rfl
@[simp] theorem modCtx_others (s : State) (f : Ctx → Ctx) : (s.modCtx f).others = s.others := rfl
@[simp] theorem modCtx_cores (s : State) (f : Ctx → Ctx) : (s.modCtx f).cores = s.cores := rfl
@[simp] theorem modCtx_turn (s : State) (f : Ctx → Ctx) : (s.modCtx f).turn = s.turn := rfl
@[simp] theorem modCtx_doms (s : State) (f : Ctx → Ctx) : (s.modCtx f).doms = s.doms := rfl
@[simp] theorem modCtx_mem (s : State) (f : Ctx → Ctx) : (s.modCtx f).mem = s.mem := rfl
@[simp] theorem modCtx_mpois (s : State) (f : Ctx → Ctx) : (s.modCtx f).mpois = s.mpois := rfl
@[simp] theorem modCtx_tags (s : State) (f : Ctx → Ctx) : (s.modCtx f).tags = s.tags := rfl
@[simp] theorem modCtx_jcbs (s : State) (f : Ctx → Ctx) : (s.modCtx f).jcbs = s.jcbs := rfl
@[simp] theorem modCtx_binds (s : State) (f : Ctx → Ctx) : (s.modCtx f).binds = s.binds := rfl
@[simp] theorem modCtx_mons (s : State) (f : Ctx → Ctx) : (s.modCtx f).mons = s.mons := rfl
@[simp] theorem modCtx_overflow (s : State) (f : Ctx → Ctx) : (s.modCtx f).overflow = s.overflow := rfl
@[simp] theorem modCtx_woken (s : State) (f : Ctx → Ctx) : (s.modCtx f).woken = s.woken := rfl
@[simp] theorem modCtx_pending (s : State) (f : Ctx → Ctx) : (s.modCtx f).pending = s.pending := rfl
@[simp] theorem modCtx_xfq (s : State) (f : Ctx → Ctx) : (s.modCtx f).xfq = s.xfq := rfl
@[simp] theorem modCtx_accNext (s : State) (f : Ctx → Ctx) : (s.modCtx f).accNext = s.accNext := rfl
@[simp] theorem modCtx_nextKey (s : State) (f : Ctx → Ctx) : (s.modCtx f).nextKey = s.nextKey := rfl
@[simp] theorem modCtx_peers (s : State) (f : Ctx → Ctx) : (s.modCtx f).peers = s.peers := rfl
@[simp] theorem modCtx_gangs (s : State) (f : Ctx → Ctx) : (s.modCtx f).gangs = s.gangs := rfl
@[simp] theorem modCtx_net (s : State) (f : Ctx → Ctx) : (s.modCtx f).net = s.net := rfl
@[simp] theorem modCtx_ports (s : State) (f : Ctx → Ctx) : (s.modCtx f).ports = s.ports := rfl
@[simp] theorem modCtx_pkg (s : State) (f : Ctx → Ctx) : (s.modCtx f).pkg = s.pkg := rfl
@[simp] theorem modCtx_arbseq (s : State) (f : Ctx → Ctx) : (s.modCtx f).arbseq = s.arbseq := rfl
@[simp] theorem modCtx_gts (s : State) (f : Ctx → Ctx) : (s.modCtx f).gts = s.gts := rfl
@[simp] theorem modCtx_parcel (s : State) (f : Ctx → Ctx) : (s.modCtx f).parcel = s.parcel := rfl
@[simp] theorem modCtx_inbox (s : State) (f : Ctx → Ctx) : (s.modCtx f).inbox = s.inbox := rfl
@[simp] theorem modCtx_llc (s : State) (f : Ctx → Ctx) : (s.modCtx f).llc = s.llc := rfl
@[simp] theorem modCtx_lpois (s : State) (f : Ctx → Ctx) : (s.modCtx f).lpois = s.lpois := rfl
@[simp] theorem modCtx_hostmem (s : State) (f : Ctx → Ctx) : (s.modCtx f).hostmem = s.hostmem := rfl
@[simp] theorem modCtx_tlb2 (s : State) (f : Ctx → Ctx) : (s.modCtx f).tlb2 = s.tlb2 := rfl
@[simp] theorem modCtx_nextAway (s : State) (f : Ctx → Ctx) : (s.modCtx f).nextAway = s.nextAway := rfl
@[simp] theorem modCtx_waitNext (s : State) (f : Ctx → Ctx) : (s.modCtx f).waitNext = s.waitNext := rfl
@[simp] theorem modCtx_flows (s : State) (f : Ctx → Ctx) : (s.modCtx f).flows = s.flows := rfl
@[simp] theorem modCtx_fabout (s : State) (f : Ctx → Ctx) : (s.modCtx f).fabout = s.fabout := rfl
@[simp] theorem modCtx_entry (s : State) (f : Ctx → Ctx) : (s.modCtx f).entry = s.entry := rfl
@[simp] theorem modCtx_tick (s : State) (f : Ctx → Ctx) : (s.modCtx f).tick = s.tick := rfl
@[simp] theorem modCtx_fresh (s : State) (f : Ctx → Ctx) : (s.modCtx f).fresh = s.fresh := rfl

/-! ## modCore -/

@[simp] theorem modCore_ctx (s : State) (f : Core → Core) : (s.modCore f).ctx = s.ctx := rfl
@[simp] theorem modCore_others (s : State) (f : Core → Core) : (s.modCore f).others = s.others := rfl
@[simp] theorem modCore_cores (s : State) (f : Core → Core) : (s.modCore f).cores = s.cores := rfl
@[simp] theorem modCore_turn (s : State) (f : Core → Core) : (s.modCore f).turn = s.turn := rfl
@[simp] theorem modCore_doms (s : State) (f : Core → Core) : (s.modCore f).doms = s.doms := rfl
@[simp] theorem modCore_mem (s : State) (f : Core → Core) : (s.modCore f).mem = s.mem := rfl
@[simp] theorem modCore_mpois (s : State) (f : Core → Core) : (s.modCore f).mpois = s.mpois := rfl
@[simp] theorem modCore_tags (s : State) (f : Core → Core) : (s.modCore f).tags = s.tags := rfl
@[simp] theorem modCore_jcbs (s : State) (f : Core → Core) : (s.modCore f).jcbs = s.jcbs := rfl
@[simp] theorem modCore_binds (s : State) (f : Core → Core) : (s.modCore f).binds = s.binds := rfl
@[simp] theorem modCore_mons (s : State) (f : Core → Core) : (s.modCore f).mons = s.mons := rfl
@[simp] theorem modCore_overflow (s : State) (f : Core → Core) : (s.modCore f).overflow = s.overflow := rfl
@[simp] theorem modCore_woken (s : State) (f : Core → Core) : (s.modCore f).woken = s.woken := rfl
@[simp] theorem modCore_pending (s : State) (f : Core → Core) : (s.modCore f).pending = s.pending := rfl
@[simp] theorem modCore_xfq (s : State) (f : Core → Core) : (s.modCore f).xfq = s.xfq := rfl
@[simp] theorem modCore_accNext (s : State) (f : Core → Core) : (s.modCore f).accNext = s.accNext := rfl
@[simp] theorem modCore_nextKey (s : State) (f : Core → Core) : (s.modCore f).nextKey = s.nextKey := rfl
@[simp] theorem modCore_peers (s : State) (f : Core → Core) : (s.modCore f).peers = s.peers := rfl
@[simp] theorem modCore_gangs (s : State) (f : Core → Core) : (s.modCore f).gangs = s.gangs := rfl
@[simp] theorem modCore_net (s : State) (f : Core → Core) : (s.modCore f).net = s.net := rfl
@[simp] theorem modCore_ports (s : State) (f : Core → Core) : (s.modCore f).ports = s.ports := rfl
@[simp] theorem modCore_pkg (s : State) (f : Core → Core) : (s.modCore f).pkg = s.pkg := rfl
@[simp] theorem modCore_arbseq (s : State) (f : Core → Core) : (s.modCore f).arbseq = s.arbseq := rfl
@[simp] theorem modCore_gts (s : State) (f : Core → Core) : (s.modCore f).gts = s.gts := rfl
@[simp] theorem modCore_parcel (s : State) (f : Core → Core) : (s.modCore f).parcel = s.parcel := rfl
@[simp] theorem modCore_inbox (s : State) (f : Core → Core) : (s.modCore f).inbox = s.inbox := rfl
@[simp] theorem modCore_llc (s : State) (f : Core → Core) : (s.modCore f).llc = s.llc := rfl
@[simp] theorem modCore_lpois (s : State) (f : Core → Core) : (s.modCore f).lpois = s.lpois := rfl
@[simp] theorem modCore_hostmem (s : State) (f : Core → Core) : (s.modCore f).hostmem = s.hostmem := rfl
@[simp] theorem modCore_tlb2 (s : State) (f : Core → Core) : (s.modCore f).tlb2 = s.tlb2 := rfl
@[simp] theorem modCore_nextAway (s : State) (f : Core → Core) : (s.modCore f).nextAway = s.nextAway := rfl
@[simp] theorem modCore_waitNext (s : State) (f : Core → Core) : (s.modCore f).waitNext = s.waitNext := rfl
@[simp] theorem modCore_flows (s : State) (f : Core → Core) : (s.modCore f).flows = s.flows := rfl
@[simp] theorem modCore_fabout (s : State) (f : Core → Core) : (s.modCore f).fabout = s.fabout := rfl
@[simp] theorem modCore_entry (s : State) (f : Core → Core) : (s.modCore f).entry = s.entry := rfl
@[simp] theorem modCore_tick (s : State) (f : Core → Core) : (s.modCore f).tick = s.tick := rfl
@[simp] theorem modCore_fresh (s : State) (f : Core → Core) : (s.modCore f).fresh = s.fresh := rfl

/-! ## setDom -/

@[simp] theorem setDom_ctx (s : State) (d : BitVec 4) (x : Dom) : (s.setDom d x).ctx = s.ctx := rfl
@[simp] theorem setDom_core (s : State) (d : BitVec 4) (x : Dom) : (s.setDom d x).core = s.core := rfl
@[simp] theorem setDom_others (s : State) (d : BitVec 4) (x : Dom) : (s.setDom d x).others = s.others := rfl
@[simp] theorem setDom_cores (s : State) (d : BitVec 4) (x : Dom) : (s.setDom d x).cores = s.cores := rfl
@[simp] theorem setDom_turn (s : State) (d : BitVec 4) (x : Dom) : (s.setDom d x).turn = s.turn := rfl
@[simp] theorem setDom_mem (s : State) (d : BitVec 4) (x : Dom) : (s.setDom d x).mem = s.mem := rfl
@[simp] theorem setDom_mpois (s : State) (d : BitVec 4) (x : Dom) : (s.setDom d x).mpois = s.mpois := rfl
@[simp] theorem setDom_tags (s : State) (d : BitVec 4) (x : Dom) : (s.setDom d x).tags = s.tags := rfl
@[simp] theorem setDom_jcbs (s : State) (d : BitVec 4) (x : Dom) : (s.setDom d x).jcbs = s.jcbs := rfl
@[simp] theorem setDom_binds (s : State) (d : BitVec 4) (x : Dom) : (s.setDom d x).binds = s.binds := rfl
@[simp] theorem setDom_mons (s : State) (d : BitVec 4) (x : Dom) : (s.setDom d x).mons = s.mons := rfl
@[simp] theorem setDom_overflow (s : State) (d : BitVec 4) (x : Dom) : (s.setDom d x).overflow = s.overflow := rfl
@[simp] theorem setDom_woken (s : State) (d : BitVec 4) (x : Dom) : (s.setDom d x).woken = s.woken := rfl
@[simp] theorem setDom_pending (s : State) (d : BitVec 4) (x : Dom) : (s.setDom d x).pending = s.pending := rfl
@[simp] theorem setDom_xfq (s : State) (d : BitVec 4) (x : Dom) : (s.setDom d x).xfq = s.xfq := rfl
@[simp] theorem setDom_accNext (s : State) (d : BitVec 4) (x : Dom) : (s.setDom d x).accNext = s.accNext := rfl
@[simp] theorem setDom_nextKey (s : State) (d : BitVec 4) (x : Dom) : (s.setDom d x).nextKey = s.nextKey := rfl
@[simp] theorem setDom_peers (s : State) (d : BitVec 4) (x : Dom) : (s.setDom d x).peers = s.peers := rfl
@[simp] theorem setDom_gangs (s : State) (d : BitVec 4) (x : Dom) : (s.setDom d x).gangs = s.gangs := rfl
@[simp] theorem setDom_net (s : State) (d : BitVec 4) (x : Dom) : (s.setDom d x).net = s.net := rfl
@[simp] theorem setDom_ports (s : State) (d : BitVec 4) (x : Dom) : (s.setDom d x).ports = s.ports := rfl
@[simp] theorem setDom_pkg (s : State) (d : BitVec 4) (x : Dom) : (s.setDom d x).pkg = s.pkg := rfl
@[simp] theorem setDom_arbseq (s : State) (d : BitVec 4) (x : Dom) : (s.setDom d x).arbseq = s.arbseq := rfl
@[simp] theorem setDom_gts (s : State) (d : BitVec 4) (x : Dom) : (s.setDom d x).gts = s.gts := rfl
@[simp] theorem setDom_parcel (s : State) (d : BitVec 4) (x : Dom) : (s.setDom d x).parcel = s.parcel := rfl
@[simp] theorem setDom_inbox (s : State) (d : BitVec 4) (x : Dom) : (s.setDom d x).inbox = s.inbox := rfl
@[simp] theorem setDom_llc (s : State) (d : BitVec 4) (x : Dom) : (s.setDom d x).llc = s.llc := rfl
@[simp] theorem setDom_lpois (s : State) (d : BitVec 4) (x : Dom) : (s.setDom d x).lpois = s.lpois := rfl
@[simp] theorem setDom_hostmem (s : State) (d : BitVec 4) (x : Dom) : (s.setDom d x).hostmem = s.hostmem := rfl
@[simp] theorem setDom_tlb2 (s : State) (d : BitVec 4) (x : Dom) : (s.setDom d x).tlb2 = s.tlb2 := rfl
@[simp] theorem setDom_nextAway (s : State) (d : BitVec 4) (x : Dom) : (s.setDom d x).nextAway = s.nextAway := rfl
@[simp] theorem setDom_waitNext (s : State) (d : BitVec 4) (x : Dom) : (s.setDom d x).waitNext = s.waitNext := rfl
@[simp] theorem setDom_flows (s : State) (d : BitVec 4) (x : Dom) : (s.setDom d x).flows = s.flows := rfl
@[simp] theorem setDom_fabout (s : State) (d : BitVec 4) (x : Dom) : (s.setDom d x).fabout = s.fabout := rfl
@[simp] theorem setDom_entry (s : State) (d : BitVec 4) (x : Dom) : (s.setDom d x).entry = s.entry := rfl
@[simp] theorem setDom_tick (s : State) (d : BitVec 4) (x : Dom) : (s.setDom d x).tick = s.tick := rfl
@[simp] theorem setDom_fresh (s : State) (d : BitVec 4) (x : Dom) : (s.setDom d x).fresh = s.fresh := rfl

/-! ## modDom -/

@[simp] theorem modDom_ctx (s : State) (d : BitVec 4) (f : Dom → Dom) : (s.modDom d f).ctx = s.ctx := rfl
@[simp] theorem modDom_core (s : State) (d : BitVec 4) (f : Dom → Dom) : (s.modDom d f).core = s.core := rfl
@[simp] theorem modDom_others (s : State) (d : BitVec 4) (f : Dom → Dom) : (s.modDom d f).others = s.others := rfl
@[simp] theorem modDom_cores (s : State) (d : BitVec 4) (f : Dom → Dom) : (s.modDom d f).cores = s.cores := rfl
@[simp] theorem modDom_turn (s : State) (d : BitVec 4) (f : Dom → Dom) : (s.modDom d f).turn = s.turn := rfl
@[simp] theorem modDom_mem (s : State) (d : BitVec 4) (f : Dom → Dom) : (s.modDom d f).mem = s.mem := rfl
@[simp] theorem modDom_mpois (s : State) (d : BitVec 4) (f : Dom → Dom) : (s.modDom d f).mpois = s.mpois := rfl
@[simp] theorem modDom_tags (s : State) (d : BitVec 4) (f : Dom → Dom) : (s.modDom d f).tags = s.tags := rfl
@[simp] theorem modDom_jcbs (s : State) (d : BitVec 4) (f : Dom → Dom) : (s.modDom d f).jcbs = s.jcbs := rfl
@[simp] theorem modDom_binds (s : State) (d : BitVec 4) (f : Dom → Dom) : (s.modDom d f).binds = s.binds := rfl
@[simp] theorem modDom_mons (s : State) (d : BitVec 4) (f : Dom → Dom) : (s.modDom d f).mons = s.mons := rfl
@[simp] theorem modDom_overflow (s : State) (d : BitVec 4) (f : Dom → Dom) : (s.modDom d f).overflow = s.overflow := rfl
@[simp] theorem modDom_woken (s : State) (d : BitVec 4) (f : Dom → Dom) : (s.modDom d f).woken = s.woken := rfl
@[simp] theorem modDom_pending (s : State) (d : BitVec 4) (f : Dom → Dom) : (s.modDom d f).pending = s.pending := rfl
@[simp] theorem modDom_xfq (s : State) (d : BitVec 4) (f : Dom → Dom) : (s.modDom d f).xfq = s.xfq := rfl
@[simp] theorem modDom_accNext (s : State) (d : BitVec 4) (f : Dom → Dom) : (s.modDom d f).accNext = s.accNext := rfl
@[simp] theorem modDom_nextKey (s : State) (d : BitVec 4) (f : Dom → Dom) : (s.modDom d f).nextKey = s.nextKey := rfl
@[simp] theorem modDom_peers (s : State) (d : BitVec 4) (f : Dom → Dom) : (s.modDom d f).peers = s.peers := rfl
@[simp] theorem modDom_gangs (s : State) (d : BitVec 4) (f : Dom → Dom) : (s.modDom d f).gangs = s.gangs := rfl
@[simp] theorem modDom_net (s : State) (d : BitVec 4) (f : Dom → Dom) : (s.modDom d f).net = s.net := rfl
@[simp] theorem modDom_ports (s : State) (d : BitVec 4) (f : Dom → Dom) : (s.modDom d f).ports = s.ports := rfl
@[simp] theorem modDom_pkg (s : State) (d : BitVec 4) (f : Dom → Dom) : (s.modDom d f).pkg = s.pkg := rfl
@[simp] theorem modDom_arbseq (s : State) (d : BitVec 4) (f : Dom → Dom) : (s.modDom d f).arbseq = s.arbseq := rfl
@[simp] theorem modDom_gts (s : State) (d : BitVec 4) (f : Dom → Dom) : (s.modDom d f).gts = s.gts := rfl
@[simp] theorem modDom_parcel (s : State) (d : BitVec 4) (f : Dom → Dom) : (s.modDom d f).parcel = s.parcel := rfl
@[simp] theorem modDom_inbox (s : State) (d : BitVec 4) (f : Dom → Dom) : (s.modDom d f).inbox = s.inbox := rfl
@[simp] theorem modDom_llc (s : State) (d : BitVec 4) (f : Dom → Dom) : (s.modDom d f).llc = s.llc := rfl
@[simp] theorem modDom_lpois (s : State) (d : BitVec 4) (f : Dom → Dom) : (s.modDom d f).lpois = s.lpois := rfl
@[simp] theorem modDom_hostmem (s : State) (d : BitVec 4) (f : Dom → Dom) : (s.modDom d f).hostmem = s.hostmem := rfl
@[simp] theorem modDom_tlb2 (s : State) (d : BitVec 4) (f : Dom → Dom) : (s.modDom d f).tlb2 = s.tlb2 := rfl
@[simp] theorem modDom_nextAway (s : State) (d : BitVec 4) (f : Dom → Dom) : (s.modDom d f).nextAway = s.nextAway := rfl
@[simp] theorem modDom_waitNext (s : State) (d : BitVec 4) (f : Dom → Dom) : (s.modDom d f).waitNext = s.waitNext := rfl
@[simp] theorem modDom_flows (s : State) (d : BitVec 4) (f : Dom → Dom) : (s.modDom d f).flows = s.flows := rfl
@[simp] theorem modDom_fabout (s : State) (d : BitVec 4) (f : Dom → Dom) : (s.modDom d f).fabout = s.fabout := rfl
@[simp] theorem modDom_entry (s : State) (d : BitVec 4) (f : Dom → Dom) : (s.modDom d f).entry = s.entry := rfl
@[simp] theorem modDom_tick (s : State) (d : BitVec 4) (f : Dom → Dom) : (s.modDom d f).tick = s.tick := rfl
@[simp] theorem modDom_fresh (s : State) (d : BitVec 4) (f : Dom → Dom) : (s.modDom d f).fresh = s.fresh := rfl

/-! ## setPart -/

@[simp] theorem setPart_ctx (s : State) (x : Part) : (s.setPart x).ctx = s.ctx := rfl
@[simp] theorem setPart_others (s : State) (x : Part) : (s.setPart x).others = s.others := rfl
@[simp] theorem setPart_cores (s : State) (x : Part) : (s.setPart x).cores = s.cores := rfl
@[simp] theorem setPart_turn (s : State) (x : Part) : (s.setPart x).turn = s.turn := rfl
@[simp] theorem setPart_doms (s : State) (x : Part) : (s.setPart x).doms = s.doms := rfl
@[simp] theorem setPart_mem (s : State) (x : Part) : (s.setPart x).mem = s.mem := rfl
@[simp] theorem setPart_mpois (s : State) (x : Part) : (s.setPart x).mpois = s.mpois := rfl
@[simp] theorem setPart_tags (s : State) (x : Part) : (s.setPart x).tags = s.tags := rfl
@[simp] theorem setPart_jcbs (s : State) (x : Part) : (s.setPart x).jcbs = s.jcbs := rfl
@[simp] theorem setPart_binds (s : State) (x : Part) : (s.setPart x).binds = s.binds := rfl
@[simp] theorem setPart_mons (s : State) (x : Part) : (s.setPart x).mons = s.mons := rfl
@[simp] theorem setPart_overflow (s : State) (x : Part) : (s.setPart x).overflow = s.overflow := rfl
@[simp] theorem setPart_woken (s : State) (x : Part) : (s.setPart x).woken = s.woken := rfl
@[simp] theorem setPart_pending (s : State) (x : Part) : (s.setPart x).pending = s.pending := rfl
@[simp] theorem setPart_xfq (s : State) (x : Part) : (s.setPart x).xfq = s.xfq := rfl
@[simp] theorem setPart_accNext (s : State) (x : Part) : (s.setPart x).accNext = s.accNext := rfl
@[simp] theorem setPart_nextKey (s : State) (x : Part) : (s.setPart x).nextKey = s.nextKey := rfl
@[simp] theorem setPart_peers (s : State) (x : Part) : (s.setPart x).peers = s.peers := rfl
@[simp] theorem setPart_gangs (s : State) (x : Part) : (s.setPart x).gangs = s.gangs := rfl
@[simp] theorem setPart_net (s : State) (x : Part) : (s.setPart x).net = s.net := rfl
@[simp] theorem setPart_ports (s : State) (x : Part) : (s.setPart x).ports = s.ports := rfl
@[simp] theorem setPart_pkg (s : State) (x : Part) : (s.setPart x).pkg = s.pkg := rfl
@[simp] theorem setPart_arbseq (s : State) (x : Part) : (s.setPart x).arbseq = s.arbseq := rfl
@[simp] theorem setPart_gts (s : State) (x : Part) : (s.setPart x).gts = s.gts := rfl
@[simp] theorem setPart_parcel (s : State) (x : Part) : (s.setPart x).parcel = s.parcel := rfl
@[simp] theorem setPart_inbox (s : State) (x : Part) : (s.setPart x).inbox = s.inbox := rfl
@[simp] theorem setPart_llc (s : State) (x : Part) : (s.setPart x).llc = s.llc := rfl
@[simp] theorem setPart_lpois (s : State) (x : Part) : (s.setPart x).lpois = s.lpois := rfl
@[simp] theorem setPart_hostmem (s : State) (x : Part) : (s.setPart x).hostmem = s.hostmem := rfl
@[simp] theorem setPart_tlb2 (s : State) (x : Part) : (s.setPart x).tlb2 = s.tlb2 := rfl
@[simp] theorem setPart_nextAway (s : State) (x : Part) : (s.setPart x).nextAway = s.nextAway := rfl
@[simp] theorem setPart_waitNext (s : State) (x : Part) : (s.setPart x).waitNext = s.waitNext := rfl
@[simp] theorem setPart_flows (s : State) (x : Part) : (s.setPart x).flows = s.flows := rfl
@[simp] theorem setPart_fabout (s : State) (x : Part) : (s.setPart x).fabout = s.fabout := rfl
@[simp] theorem setPart_entry (s : State) (x : Part) : (s.setPart x).entry = s.entry := rfl
@[simp] theorem setPart_tick (s : State) (x : Part) : (s.setPart x).tick = s.tick := rfl
@[simp] theorem setPart_fresh (s : State) (x : Part) : (s.setPart x).fresh = s.fresh := rfl

/-! ## mapCtxs -/

@[simp] theorem mapCtxs_core (s : State) (f : Ctx → Ctx) : (s.mapCtxs f).core = s.core := rfl
@[simp] theorem mapCtxs_cores (s : State) (f : Ctx → Ctx) : (s.mapCtxs f).cores = s.cores := rfl
@[simp] theorem mapCtxs_turn (s : State) (f : Ctx → Ctx) : (s.mapCtxs f).turn = s.turn := rfl
@[simp] theorem mapCtxs_doms (s : State) (f : Ctx → Ctx) : (s.mapCtxs f).doms = s.doms := rfl
@[simp] theorem mapCtxs_mem (s : State) (f : Ctx → Ctx) : (s.mapCtxs f).mem = s.mem := rfl
@[simp] theorem mapCtxs_mpois (s : State) (f : Ctx → Ctx) : (s.mapCtxs f).mpois = s.mpois := rfl
@[simp] theorem mapCtxs_tags (s : State) (f : Ctx → Ctx) : (s.mapCtxs f).tags = s.tags := rfl
@[simp] theorem mapCtxs_jcbs (s : State) (f : Ctx → Ctx) : (s.mapCtxs f).jcbs = s.jcbs := rfl
@[simp] theorem mapCtxs_binds (s : State) (f : Ctx → Ctx) : (s.mapCtxs f).binds = s.binds := rfl
@[simp] theorem mapCtxs_mons (s : State) (f : Ctx → Ctx) : (s.mapCtxs f).mons = s.mons := rfl
@[simp] theorem mapCtxs_overflow (s : State) (f : Ctx → Ctx) : (s.mapCtxs f).overflow = s.overflow := rfl
@[simp] theorem mapCtxs_woken (s : State) (f : Ctx → Ctx) : (s.mapCtxs f).woken = s.woken := rfl
@[simp] theorem mapCtxs_pending (s : State) (f : Ctx → Ctx) : (s.mapCtxs f).pending = s.pending := rfl
@[simp] theorem mapCtxs_xfq (s : State) (f : Ctx → Ctx) : (s.mapCtxs f).xfq = s.xfq := rfl
@[simp] theorem mapCtxs_accNext (s : State) (f : Ctx → Ctx) : (s.mapCtxs f).accNext = s.accNext := rfl
@[simp] theorem mapCtxs_nextKey (s : State) (f : Ctx → Ctx) : (s.mapCtxs f).nextKey = s.nextKey := rfl
@[simp] theorem mapCtxs_peers (s : State) (f : Ctx → Ctx) : (s.mapCtxs f).peers = s.peers := rfl
@[simp] theorem mapCtxs_gangs (s : State) (f : Ctx → Ctx) : (s.mapCtxs f).gangs = s.gangs := rfl
@[simp] theorem mapCtxs_net (s : State) (f : Ctx → Ctx) : (s.mapCtxs f).net = s.net := rfl
@[simp] theorem mapCtxs_ports (s : State) (f : Ctx → Ctx) : (s.mapCtxs f).ports = s.ports := rfl
@[simp] theorem mapCtxs_pkg (s : State) (f : Ctx → Ctx) : (s.mapCtxs f).pkg = s.pkg := rfl
@[simp] theorem mapCtxs_arbseq (s : State) (f : Ctx → Ctx) : (s.mapCtxs f).arbseq = s.arbseq := rfl
@[simp] theorem mapCtxs_gts (s : State) (f : Ctx → Ctx) : (s.mapCtxs f).gts = s.gts := rfl
@[simp] theorem mapCtxs_parcel (s : State) (f : Ctx → Ctx) : (s.mapCtxs f).parcel = s.parcel := rfl
@[simp] theorem mapCtxs_inbox (s : State) (f : Ctx → Ctx) : (s.mapCtxs f).inbox = s.inbox := rfl
@[simp] theorem mapCtxs_llc (s : State) (f : Ctx → Ctx) : (s.mapCtxs f).llc = s.llc := rfl
@[simp] theorem mapCtxs_lpois (s : State) (f : Ctx → Ctx) : (s.mapCtxs f).lpois = s.lpois := rfl
@[simp] theorem mapCtxs_hostmem (s : State) (f : Ctx → Ctx) : (s.mapCtxs f).hostmem = s.hostmem := rfl
@[simp] theorem mapCtxs_tlb2 (s : State) (f : Ctx → Ctx) : (s.mapCtxs f).tlb2 = s.tlb2 := rfl
@[simp] theorem mapCtxs_nextAway (s : State) (f : Ctx → Ctx) : (s.mapCtxs f).nextAway = s.nextAway := rfl
@[simp] theorem mapCtxs_waitNext (s : State) (f : Ctx → Ctx) : (s.mapCtxs f).waitNext = s.waitNext := rfl
@[simp] theorem mapCtxs_flows (s : State) (f : Ctx → Ctx) : (s.mapCtxs f).flows = s.flows := rfl
@[simp] theorem mapCtxs_fabout (s : State) (f : Ctx → Ctx) : (s.mapCtxs f).fabout = s.fabout := rfl
@[simp] theorem mapCtxs_entry (s : State) (f : Ctx → Ctx) : (s.mapCtxs f).entry = s.entry := rfl
@[simp] theorem mapCtxs_tick (s : State) (f : Ctx → Ctx) : (s.mapCtxs f).tick = s.tick := rfl
@[simp] theorem mapCtxs_fresh (s : State) (f : Ctx → Ctx) : (s.mapCtxs f).fresh = s.fresh := rfl

/-! ## mapCores -/

@[simp] theorem mapCores_ctx (s : State) (f : Core → Core) : (s.mapCores f).ctx = s.ctx := rfl
@[simp] theorem mapCores_others (s : State) (f : Core → Core) : (s.mapCores f).others = s.others := rfl
@[simp] theorem mapCores_turn (s : State) (f : Core → Core) : (s.mapCores f).turn = s.turn := rfl
@[simp] theorem mapCores_doms (s : State) (f : Core → Core) : (s.mapCores f).doms = s.doms := rfl
@[simp] theorem mapCores_mem (s : State) (f : Core → Core) : (s.mapCores f).mem = s.mem := rfl
@[simp] theorem mapCores_mpois (s : State) (f : Core → Core) : (s.mapCores f).mpois = s.mpois := rfl
@[simp] theorem mapCores_tags (s : State) (f : Core → Core) : (s.mapCores f).tags = s.tags := rfl
@[simp] theorem mapCores_jcbs (s : State) (f : Core → Core) : (s.mapCores f).jcbs = s.jcbs := rfl
@[simp] theorem mapCores_binds (s : State) (f : Core → Core) : (s.mapCores f).binds = s.binds := rfl
@[simp] theorem mapCores_mons (s : State) (f : Core → Core) : (s.mapCores f).mons = s.mons := rfl
@[simp] theorem mapCores_overflow (s : State) (f : Core → Core) : (s.mapCores f).overflow = s.overflow := rfl
@[simp] theorem mapCores_woken (s : State) (f : Core → Core) : (s.mapCores f).woken = s.woken := rfl
@[simp] theorem mapCores_pending (s : State) (f : Core → Core) : (s.mapCores f).pending = s.pending := rfl
@[simp] theorem mapCores_xfq (s : State) (f : Core → Core) : (s.mapCores f).xfq = s.xfq := rfl
@[simp] theorem mapCores_accNext (s : State) (f : Core → Core) : (s.mapCores f).accNext = s.accNext := rfl
@[simp] theorem mapCores_nextKey (s : State) (f : Core → Core) : (s.mapCores f).nextKey = s.nextKey := rfl
@[simp] theorem mapCores_peers (s : State) (f : Core → Core) : (s.mapCores f).peers = s.peers := rfl
@[simp] theorem mapCores_gangs (s : State) (f : Core → Core) : (s.mapCores f).gangs = s.gangs := rfl
@[simp] theorem mapCores_net (s : State) (f : Core → Core) : (s.mapCores f).net = s.net := rfl
@[simp] theorem mapCores_ports (s : State) (f : Core → Core) : (s.mapCores f).ports = s.ports := rfl
@[simp] theorem mapCores_pkg (s : State) (f : Core → Core) : (s.mapCores f).pkg = s.pkg := rfl
@[simp] theorem mapCores_arbseq (s : State) (f : Core → Core) : (s.mapCores f).arbseq = s.arbseq := rfl
@[simp] theorem mapCores_gts (s : State) (f : Core → Core) : (s.mapCores f).gts = s.gts := rfl
@[simp] theorem mapCores_parcel (s : State) (f : Core → Core) : (s.mapCores f).parcel = s.parcel := rfl
@[simp] theorem mapCores_inbox (s : State) (f : Core → Core) : (s.mapCores f).inbox = s.inbox := rfl
@[simp] theorem mapCores_llc (s : State) (f : Core → Core) : (s.mapCores f).llc = s.llc := rfl
@[simp] theorem mapCores_lpois (s : State) (f : Core → Core) : (s.mapCores f).lpois = s.lpois := rfl
@[simp] theorem mapCores_hostmem (s : State) (f : Core → Core) : (s.mapCores f).hostmem = s.hostmem := rfl
@[simp] theorem mapCores_tlb2 (s : State) (f : Core → Core) : (s.mapCores f).tlb2 = s.tlb2 := rfl
@[simp] theorem mapCores_nextAway (s : State) (f : Core → Core) : (s.mapCores f).nextAway = s.nextAway := rfl
@[simp] theorem mapCores_waitNext (s : State) (f : Core → Core) : (s.mapCores f).waitNext = s.waitNext := rfl
@[simp] theorem mapCores_flows (s : State) (f : Core → Core) : (s.mapCores f).flows = s.flows := rfl
@[simp] theorem mapCores_fabout (s : State) (f : Core → Core) : (s.mapCores f).fabout = s.fabout := rfl
@[simp] theorem mapCores_entry (s : State) (f : Core → Core) : (s.mapCores f).entry = s.entry := rfl
@[simp] theorem mapCores_tick (s : State) (f : Core → Core) : (s.mapCores f).tick = s.tick := rfl
@[simp] theorem mapCores_fresh (s : State) (f : Core → Core) : (s.mapCores f).fresh = s.fresh := rfl

/-! ## interrupt -/

@[simp] theorem interrupt_ctx (s : State) (n v : Nat) : (s.interrupt n v).ctx = s.ctx := rfl
@[simp] theorem interrupt_core (s : State) (n v : Nat) : (s.interrupt n v).core = s.core := rfl
@[simp] theorem interrupt_others (s : State) (n v : Nat) : (s.interrupt n v).others = s.others := rfl
@[simp] theorem interrupt_cores (s : State) (n v : Nat) : (s.interrupt n v).cores = s.cores := rfl
@[simp] theorem interrupt_turn (s : State) (n v : Nat) : (s.interrupt n v).turn = s.turn := rfl
@[simp] theorem interrupt_doms (s : State) (n v : Nat) : (s.interrupt n v).doms = s.doms := rfl
@[simp] theorem interrupt_mem (s : State) (n v : Nat) : (s.interrupt n v).mem = s.mem := rfl
@[simp] theorem interrupt_mpois (s : State) (n v : Nat) : (s.interrupt n v).mpois = s.mpois := rfl
@[simp] theorem interrupt_tags (s : State) (n v : Nat) : (s.interrupt n v).tags = s.tags := rfl
@[simp] theorem interrupt_jcbs (s : State) (n v : Nat) : (s.interrupt n v).jcbs = s.jcbs := rfl
@[simp] theorem interrupt_binds (s : State) (n v : Nat) : (s.interrupt n v).binds = s.binds := rfl
@[simp] theorem interrupt_mons (s : State) (n v : Nat) : (s.interrupt n v).mons = s.mons := rfl
@[simp] theorem interrupt_overflow (s : State) (n v : Nat) : (s.interrupt n v).overflow = s.overflow := rfl
@[simp] theorem interrupt_woken (s : State) (n v : Nat) : (s.interrupt n v).woken = s.woken := rfl
@[simp] theorem interrupt_pending (s : State) (n v : Nat) : (s.interrupt n v).pending = s.pending := rfl
@[simp] theorem interrupt_xfq (s : State) (n v : Nat) : (s.interrupt n v).xfq = s.xfq := rfl
@[simp] theorem interrupt_accNext (s : State) (n v : Nat) : (s.interrupt n v).accNext = s.accNext := rfl
@[simp] theorem interrupt_nextKey (s : State) (n v : Nat) : (s.interrupt n v).nextKey = s.nextKey := rfl
@[simp] theorem interrupt_peers (s : State) (n v : Nat) : (s.interrupt n v).peers = s.peers := rfl
@[simp] theorem interrupt_gangs (s : State) (n v : Nat) : (s.interrupt n v).gangs = s.gangs := rfl
@[simp] theorem interrupt_net (s : State) (n v : Nat) : (s.interrupt n v).net = s.net := rfl
@[simp] theorem interrupt_ports (s : State) (n v : Nat) : (s.interrupt n v).ports = s.ports := rfl
@[simp] theorem interrupt_arbseq (s : State) (n v : Nat) : (s.interrupt n v).arbseq = s.arbseq := rfl
@[simp] theorem interrupt_gts (s : State) (n v : Nat) : (s.interrupt n v).gts = s.gts := rfl
@[simp] theorem interrupt_parcel (s : State) (n v : Nat) : (s.interrupt n v).parcel = s.parcel := rfl
@[simp] theorem interrupt_inbox (s : State) (n v : Nat) : (s.interrupt n v).inbox = s.inbox := rfl
@[simp] theorem interrupt_llc (s : State) (n v : Nat) : (s.interrupt n v).llc = s.llc := rfl
@[simp] theorem interrupt_lpois (s : State) (n v : Nat) : (s.interrupt n v).lpois = s.lpois := rfl
@[simp] theorem interrupt_hostmem (s : State) (n v : Nat) : (s.interrupt n v).hostmem = s.hostmem := rfl
@[simp] theorem interrupt_tlb2 (s : State) (n v : Nat) : (s.interrupt n v).tlb2 = s.tlb2 := rfl
@[simp] theorem interrupt_nextAway (s : State) (n v : Nat) : (s.interrupt n v).nextAway = s.nextAway := rfl
@[simp] theorem interrupt_waitNext (s : State) (n v : Nat) : (s.interrupt n v).waitNext = s.waitNext := rfl
@[simp] theorem interrupt_flows (s : State) (n v : Nat) : (s.interrupt n v).flows = s.flows := rfl
@[simp] theorem interrupt_fabout (s : State) (n v : Nat) : (s.interrupt n v).fabout = s.fabout := rfl
@[simp] theorem interrupt_entry (s : State) (n v : Nat) : (s.interrupt n v).entry = s.entry := rfl
@[simp] theorem interrupt_tick (s : State) (n v : Nat) : (s.interrupt n v).tick = s.tick := rfl
@[simp] theorem interrupt_fresh (s : State) (n v : Nat) : (s.interrupt (n + 1) v).fresh = s.fresh := rfl

/-! ## modQ -/

@[simp] theorem modQ_ctx (s : State) (d : BitVec 4) (q : BitVec 6) (f : SubQ → SubQ) : (s.modQ d q f).ctx = s.ctx := rfl
@[simp] theorem modQ_core (s : State) (d : BitVec 4) (q : BitVec 6) (f : SubQ → SubQ) : (s.modQ d q f).core = s.core := rfl
@[simp] theorem modQ_others (s : State) (d : BitVec 4) (q : BitVec 6) (f : SubQ → SubQ) : (s.modQ d q f).others = s.others := rfl
@[simp] theorem modQ_cores (s : State) (d : BitVec 4) (q : BitVec 6) (f : SubQ → SubQ) : (s.modQ d q f).cores = s.cores := rfl
@[simp] theorem modQ_turn (s : State) (d : BitVec 4) (q : BitVec 6) (f : SubQ → SubQ) : (s.modQ d q f).turn = s.turn := rfl
@[simp] theorem modQ_mem (s : State) (d : BitVec 4) (q : BitVec 6) (f : SubQ → SubQ) : (s.modQ d q f).mem = s.mem := rfl
@[simp] theorem modQ_mpois (s : State) (d : BitVec 4) (q : BitVec 6) (f : SubQ → SubQ) : (s.modQ d q f).mpois = s.mpois := rfl
@[simp] theorem modQ_tags (s : State) (d : BitVec 4) (q : BitVec 6) (f : SubQ → SubQ) : (s.modQ d q f).tags = s.tags := rfl
@[simp] theorem modQ_jcbs (s : State) (d : BitVec 4) (q : BitVec 6) (f : SubQ → SubQ) : (s.modQ d q f).jcbs = s.jcbs := rfl
@[simp] theorem modQ_binds (s : State) (d : BitVec 4) (q : BitVec 6) (f : SubQ → SubQ) : (s.modQ d q f).binds = s.binds := rfl
@[simp] theorem modQ_mons (s : State) (d : BitVec 4) (q : BitVec 6) (f : SubQ → SubQ) : (s.modQ d q f).mons = s.mons := rfl
@[simp] theorem modQ_overflow (s : State) (d : BitVec 4) (q : BitVec 6) (f : SubQ → SubQ) : (s.modQ d q f).overflow = s.overflow := rfl
@[simp] theorem modQ_woken (s : State) (d : BitVec 4) (q : BitVec 6) (f : SubQ → SubQ) : (s.modQ d q f).woken = s.woken := rfl
@[simp] theorem modQ_pending (s : State) (d : BitVec 4) (q : BitVec 6) (f : SubQ → SubQ) : (s.modQ d q f).pending = s.pending := rfl
@[simp] theorem modQ_xfq (s : State) (d : BitVec 4) (q : BitVec 6) (f : SubQ → SubQ) : (s.modQ d q f).xfq = s.xfq := rfl
@[simp] theorem modQ_accNext (s : State) (d : BitVec 4) (q : BitVec 6) (f : SubQ → SubQ) : (s.modQ d q f).accNext = s.accNext := rfl
@[simp] theorem modQ_nextKey (s : State) (d : BitVec 4) (q : BitVec 6) (f : SubQ → SubQ) : (s.modQ d q f).nextKey = s.nextKey := rfl
@[simp] theorem modQ_peers (s : State) (d : BitVec 4) (q : BitVec 6) (f : SubQ → SubQ) : (s.modQ d q f).peers = s.peers := rfl
@[simp] theorem modQ_gangs (s : State) (d : BitVec 4) (q : BitVec 6) (f : SubQ → SubQ) : (s.modQ d q f).gangs = s.gangs := rfl
@[simp] theorem modQ_net (s : State) (d : BitVec 4) (q : BitVec 6) (f : SubQ → SubQ) : (s.modQ d q f).net = s.net := rfl
@[simp] theorem modQ_ports (s : State) (d : BitVec 4) (q : BitVec 6) (f : SubQ → SubQ) : (s.modQ d q f).ports = s.ports := rfl
@[simp] theorem modQ_pkg (s : State) (d : BitVec 4) (q : BitVec 6) (f : SubQ → SubQ) : (s.modQ d q f).pkg = s.pkg := rfl
@[simp] theorem modQ_arbseq (s : State) (d : BitVec 4) (q : BitVec 6) (f : SubQ → SubQ) : (s.modQ d q f).arbseq = s.arbseq := rfl
@[simp] theorem modQ_gts (s : State) (d : BitVec 4) (q : BitVec 6) (f : SubQ → SubQ) : (s.modQ d q f).gts = s.gts := rfl
@[simp] theorem modQ_parcel (s : State) (d : BitVec 4) (q : BitVec 6) (f : SubQ → SubQ) : (s.modQ d q f).parcel = s.parcel := rfl
@[simp] theorem modQ_inbox (s : State) (d : BitVec 4) (q : BitVec 6) (f : SubQ → SubQ) : (s.modQ d q f).inbox = s.inbox := rfl
@[simp] theorem modQ_llc (s : State) (d : BitVec 4) (q : BitVec 6) (f : SubQ → SubQ) : (s.modQ d q f).llc = s.llc := rfl
@[simp] theorem modQ_lpois (s : State) (d : BitVec 4) (q : BitVec 6) (f : SubQ → SubQ) : (s.modQ d q f).lpois = s.lpois := rfl
@[simp] theorem modQ_hostmem (s : State) (d : BitVec 4) (q : BitVec 6) (f : SubQ → SubQ) : (s.modQ d q f).hostmem = s.hostmem := rfl
@[simp] theorem modQ_tlb2 (s : State) (d : BitVec 4) (q : BitVec 6) (f : SubQ → SubQ) : (s.modQ d q f).tlb2 = s.tlb2 := rfl
@[simp] theorem modQ_nextAway (s : State) (d : BitVec 4) (q : BitVec 6) (f : SubQ → SubQ) : (s.modQ d q f).nextAway = s.nextAway := rfl
@[simp] theorem modQ_waitNext (s : State) (d : BitVec 4) (q : BitVec 6) (f : SubQ → SubQ) : (s.modQ d q f).waitNext = s.waitNext := rfl
@[simp] theorem modQ_flows (s : State) (d : BitVec 4) (q : BitVec 6) (f : SubQ → SubQ) : (s.modQ d q f).flows = s.flows := rfl
@[simp] theorem modQ_fabout (s : State) (d : BitVec 4) (q : BitVec 6) (f : SubQ → SubQ) : (s.modQ d q f).fabout = s.fabout := rfl
@[simp] theorem modQ_entry (s : State) (d : BitVec 4) (q : BitVec 6) (f : SubQ → SubQ) : (s.modQ d q f).entry = s.entry := rfl
@[simp] theorem modQ_tick (s : State) (d : BitVec 4) (q : BitVec 6) (f : SubQ → SubQ) : (s.modQ d q f).tick = s.tick := rfl
@[simp] theorem modQ_fresh (s : State) (d : BitVec 4) (q : BitVec 6) (f : SubQ → SubQ) : (s.modQ d q f).fresh = s.fresh := rfl

/-! ## What they set -/

@[simp] theorem modCtx_ctx (s : State) (f : Ctx → Ctx) : (s.modCtx f).ctx = f s.ctx := rfl
@[simp] theorem modCore_core (s : State) (f : Core → Core) : (s.modCore f).core = f s.core := rfl
@[simp] theorem mapCtxs_ctx (s : State) (f : Ctx → Ctx) : (s.mapCtxs f).ctx = f s.ctx := rfl
@[simp] theorem mapCtxs_others (s : State) (f : Ctx → Ctx) : (s.mapCtxs f).others = s.others.map f := rfl
@[simp] theorem mapCores_core (s : State) (f : Core → Core) : (s.mapCores f).core = f s.core := rfl
@[simp] theorem mapCores_cores (s : State) (f : Core → Core) : (s.mapCores f).cores = s.cores.map f := rfl
@[simp] theorem setSq_seqs (s : State) (x : Seqr) : (s.setSq x).ctx.seqs = s.ctx.seqs.set s.turn x := rfl

/-! ## A context, when one of its sequencers changes -/

@[simp] theorem setSq_ctx_id (s : State) (x : Seqr) : (s.setSq x).ctx.id = s.ctx.id := rfl
@[simp] theorem setSq_ctx_cst (s : State) (x : Seqr) : (s.setSq x).ctx.cst = s.ctx.cst := rfl
@[simp] theorem setSq_ctx_was (s : State) (x : Seqr) : (s.setSq x).ctx.was = s.ctx.was := rfl
@[simp] theorem setSq_ctx_bnd (s : State) (x : Seqr) : (s.setSq x).ctx.bnd = s.ctx.bnd := rfl
@[simp] theorem setSq_ctx_s (s : State) (x : Seqr) : (s.setSq x).ctx.s = s.ctx.s := rfl
@[simp] theorem setSq_ctx_v (s : State) (x : Seqr) : (s.setSq x).ctx.v = s.ctx.v := rfl
@[simp] theorem setSq_ctx_p (s : State) (x : Seqr) : (s.setSq x).ctx.p = s.ctx.p := rfl
@[simp] theorem setSq_ctx_o (s : State) (x : Seqr) : (s.setSq x).ctx.o = s.ctx.o := rfl
@[simp] theorem setSq_ctx_tok (s : State) (x : Seqr) : (s.setSq x).ctx.tok = s.ctx.tok := rfl
@[simp] theorem setSq_ctx_q (s : State) (x : Seqr) : (s.setSq x).ctx.q = s.ctx.q := rfl
@[simp] theorem setSq_ctx_vq (s : State) (x : Seqr) : (s.setSq x).ctx.vq = s.ctx.vq := rfl
@[simp] theorem setSq_ctx_bo (s : State) (x : Seqr) : (s.setSq x).ctx.bo = s.ctx.bo := rfl
@[simp] theorem setSq_ctx_defq (s : State) (x : Seqr) : (s.setSq x).ctx.defq = s.ctx.defq := rfl
@[simp] theorem setSq_ctx_dmask (s : State) (x : Seqr) : (s.setSq x).ctx.dmask = s.ctx.dmask := rfl
@[simp] theorem setSq_ctx_rgns (s : State) (x : Seqr) : (s.setSq x).ctx.rgns = s.ctx.rgns := rfl
@[simp] theorem setSq_ctx_fpctl (s : State) (x : Seqr) : (s.setSq x).ctx.fpctl = s.ctx.fpctl := rfl
@[simp] theorem setSq_ctx_fpflg (s : State) (x : Seqr) : (s.setSq x).ctx.fpflg = s.ctx.fpflg := rfl
@[simp] theorem setSq_ctx_engflg (s : State) (x : Seqr) : (s.setSq x).ctx.engflg = s.ctx.engflg := rfl
@[simp] theorem setSq_ctx_cesr (s : State) (x : Seqr) : (s.setSq x).ctx.cesr = s.ctx.cesr := rfl
@[simp] theorem setSq_ctx_srs (s : State) (x : Seqr) : (s.setSq x).ctx.srs = s.ctx.srs := rfl
@[simp] theorem setSq_ctx_pend (s : State) (x : Seqr) : (s.setSq x).ctx.pend = s.ctx.pend := rfl
@[simp] theorem setSq_ctx_table (s : State) (x : Seqr) : (s.setSq x).ctx.table = s.ctx.table := rfl
@[simp] theorem setSq_ctx_task (s : State) (x : Seqr) : (s.setSq x).ctx.task = s.ctx.task := rfl
@[simp] theorem setSq_ctx_dlk (s : State) (x : Seqr) : (s.setSq x).ctx.dlk = s.ctx.dlk := rfl
@[simp] theorem setSq_ctx_cpy (s : State) (x : Seqr) : (s.setSq x).ctx.cpy = s.ctx.cpy := rfl
@[simp] theorem setSq_ctx_mat (s : State) (x : Seqr) : (s.setSq x).ctx.mat = s.ctx.mat := rfl
@[simp] theorem setSq_ctx_spa (s : State) (x : Seqr) : (s.setSq x).ctx.spa = s.ctx.spa := rfl
@[simp] theorem setSq_ctx_xf (s : State) (x : Seqr) : (s.setSq x).ctx.xf = s.ctx.xf := rfl
@[simp] theorem setSq_ctx_col (s : State) (x : Seqr) : (s.setSq x).ctx.col = s.ctx.col := rfl
@[simp] theorem setSq_ctx_nest (s : State) (x : Seqr) : (s.setSq x).ctx.nest = s.ctx.nest := rfl
@[simp] theorem setSq_ctx_rbase (s : State) (x : Seqr) : (s.setSq x).ctx.rbase = s.ctx.rbase := rfl
@[simp] theorem setSq_ctx_rsize (s : State) (x : Seqr) : (s.setSq x).ctx.rsize = s.ctx.rsize := rfl
@[simp] theorem setSq_ctx_shadow (s : State) (x : Seqr) : (s.setSq x).ctx.shadow = s.ctx.shadow := rfl
@[simp] theorem setSq_ctx_shnum (s : State) (x : Seqr) : (s.setSq x).ctx.shnum = s.ctx.shnum := rfl
@[simp] theorem setSq_ctx_csr (s : State) (x : Seqr) : (s.setSq x).ctx.csr = s.ctx.csr := rfl
@[simp] theorem setSq_ctx_csrc (s : State) (x : Seqr) : (s.setSq x).ctx.csrc = s.ctx.csrc := rfl
@[simp] theorem setSq_ctx_srt (s : State) (x : Seqr) : (s.setSq x).ctx.srt = s.ctx.srt := rfl
@[simp] theorem setSq_ctx_sbuf (s : State) (x : Seqr) : (s.setSq x).ctx.sbuf = s.ctx.sbuf := rfl
@[simp] theorem setSq_ctx_pushes (s : State) (x : Seqr) : (s.setSq x).ctx.pushes = s.ctx.pushes := rfl
@[simp] theorem setSq_ctx_ents (s : State) (x : Seqr) : (s.setSq x).ctx.ents = s.ctx.ents := rfl
@[simp] theorem setSq_ctx_vblk (s : State) (x : Seqr) : (s.setSq x).ctx.vblk = s.ctx.vblk := rfl
@[simp] theorem setSq_ctx_lentSv (s : State) (x : Seqr) : (s.setSq x).ctx.lentSv = s.ctx.lentSv := rfl
@[simp] theorem setSq_ctx_scrubSv (s : State) (x : Seqr) : (s.setSq x).ctx.scrubSv = s.ctx.scrubSv := rfl
@[simp] theorem setSq_ctx_ends (s : State) (x : Seqr) : (s.setSq x).ctx.ends = s.ctx.ends := rfl

/-! ## The four sequencers -/

@[simp] theorem seqs_get_set_same (x : Seqs) (q : SeqId) (v : Seqr) : (x.set q v).get q = v := by cases q <;> rfl
@[simp] theorem seqs_set_get (x : Seqs) (q : SeqId) : x.set q (x.get q) = x := by cases q <;> rfl
theorem seqs_get_set_ne (x : Seqs) {q r : SeqId} (v : Seqr) (h : r ≠ q) : (x.set q v).get r = x.get r := by
  cases q <;> cases r <;> first | rfl | exact absurd rfl h
@[simp] theorem setSq_sq (s : State) (x : Seqr) : (s.setSq x).sq = x := seqs_get_set_same _ _ _
@[simp] theorem setSq_self (s : State) : s.setSq s.sq = s := by simp [State.setSq, State.sq]

end Sys2Proof.Laws
end

