-- ==== Sys2Proof/Laws/Writes.lean ====
section
/-! SUPPORT. What a write to any storage brings about (R108, R116, R117, R263), and what it leaves. -/

namespace Sys2Proof.Laws
open Sys2Proof Sys2Proof.Machine Sys2Proof.Claims

/-- Beside contexts, cores, domains, memory with its poison and the monitors, nothing differs. -/
def OnlyStores (s t : State) : Prop :=
  t = { s with ctx := t.ctx, others := t.others, core := t.core, cores := t.cores, doms := t.doms, mem := t.mem
               mpois := t.mpois, llc := t.llc, lpois := t.lpois, hostmem := t.hostmem, mons := t.mons, woken := t.woken }

/-- A context whose sequencers and whose state alone may differ. -/
def OnlySeqs (c k : Ctx) : Prop := k = { c with seqs := k.seqs, cst := k.cst, was := k.was }

theorem OnlyStores.refl (s : State) : OnlyStores s s := rfl
theorem OnlyStores.trans {s t u : State} (h : OnlyStores s t) (k : OnlyStores t u) : OnlyStores s u := by
  unfold OnlyStores at *; rw [k, h]
theorem OnlySeqs.refl (c : Ctx) : OnlySeqs c c := rfl
theorem OnlySeqs.trans {a b c : Ctx} (h : OnlySeqs a b) (k : OnlySeqs b c) : OnlySeqs a c := by
  unfold OnlySeqs at *; rw [k, h]

/-! ## Each part of a write -/

theorem putByte_only (s : State) (p : Place) (b : Byte) : OnlyStores s (s.putByte p b) ∧ (s.putByte p b).ctx = s.ctx := by
  obtain ⟨sp, a⟩ := p; cases sp <;> exact ⟨rfl, rfl⟩

theorem setPois_only (s : State) (sp : Space) (x : Sparse Bool) : OnlyStores s (s.setPois sp x) ∧ (s.setPois sp x).ctx = s.ctx := by
  cases sp <;> exact ⟨rfl, rfl⟩

theorem clearPois_only (s : State) (ps : List Place) : OnlyStores s (s.clearPois ps) ∧ (s.clearPois ps).ctx = s.ctx := by
  unfold State.clearPois
  split
  · exact ⟨rfl, rfl⟩
  · split
    · exact ⟨rfl, rfl⟩
    · exact setPois_only _ _ _

theorem wakeCtx_only (c : Ctx) : OnlySeqs c (wakeCtx c) := by
  unfold wakeCtx; split
  · rfl
  · split <;> rfl

theorem notify_only (s : State) (w : Place → Bool) : OnlyStores s (s.notify w) ∧ OnlySeqs s.ctx (s.notify w).ctx := by
  refine ⟨rfl, ?_⟩
  simp only [State.notify, mapCtxs_ctx]
  split
  · rfl
  · exact OnlySeqs.trans (by rfl) (wakeCtx_only _)

theorem wakeMons_only (s : State) (l : List Nat) : OnlyStores s (s.wakeMons l) ∧ (s.wakeMons l).ctx = s.ctx := ⟨rfl, rfl⟩

theorem merged_only (s : State) (l : List Nat) : OnlyStores s (s.merged l) ∧ OnlySeqs s.ctx (s.merged l).ctx := by
  unfold State.merged
  have h := notify_only s fun p => p.sp == .phys && l.contains (p.a / 64)
  dsimp only
  split
  · exact h
  · exact ⟨h.1.trans (wakeMons_only _ _).1, h.2⟩

theorem mergeWhere_only (s : State) (sel : UpdLine → Bool) : OnlyStores s (s.mergeWhere sel) ∧ OnlySeqs s.ctx (s.mergeWhere sel).ctx := by
  unfold State.mergeWhere
  split
  · exact ⟨rfl, rfl⟩
  · have h := fun (t : State) l (k : OnlyStores s t) (kc : t.ctx = s.ctx) =>
      (⟨k.trans (merged_only t l).1, kc ▸ (merged_only t l).2⟩ : OnlyStores s (t.merged l) ∧ OnlySeqs s.ctx (t.merged l).ctx)
    exact h _ _ rfl rfl

theorem fold_only {β : Type} (f : State → β → State) (hf : ∀ s b, OnlyStores s (f s b) ∧ OnlySeqs s.ctx (f s b).ctx) :
    ∀ (l : List β) (s : State), OnlyStores s (l.foldl f s) ∧ OnlySeqs s.ctx (l.foldl f s).ctx := by
  intro l
  induction l with
  | nil => exact fun s => ⟨rfl, rfl⟩
  | cons b l ih => exact fun s => ⟨(hf s b).1.trans (ih _).1, (hf s b).2.trans (ih _).2⟩

theorem mergeAt_only (s : State) (ps : List Place) : OnlyStores s (s.mergeAt ps) ∧ OnlySeqs s.ctx (s.mergeAt ps).ctx := by
  refine fold_only _ (fun s p => ?_) ps s
  split
  · exact mergeWhere_only _ _
  · exact ⟨rfl, rfl⟩

/-- A write changes storages, poison, and what waits on what was written; of a context its sequencers' waits and its state alone. -/
theorem writePlaces_only (s : State) (ps : List Place) (bs : List Byte) :
    OnlyStores s (s.writePlaces ps bs) ∧ OnlySeqs s.ctx (s.writePlaces ps bs).ctx := by
  have a := mergeAt_only s ps
  have b := fold_only (fun s (pb : Place × Byte) => s.putByte pb.1 pb.2)
    (fun s pb => ⟨(putByte_only s pb.1 pb.2).1, (putByte_only s pb.1 pb.2).2 ▸ rfl⟩) (ps.zip bs) (s.mergeAt ps)
  have ab := And.intro (a.1.trans b.1) (a.2.trans b.2)
  have c := clearPois_only ((ps.zip bs).foldl (fun s pb => s.putByte pb.1 pb.2) (s.mergeAt ps)) ps
  have abc := And.intro (ab.1.trans c.1) (c.2 ▸ ab.2)
  have d := notify_only (((ps.zip bs).foldl (fun s pb => s.putByte pb.1 pb.2) (s.mergeAt ps)).clearPois ps) fun p => ps.contains p
  have e := And.intro (abc.1.trans d.1) (abc.2.trans d.2)
  unfold State.writePlaces
  dsimp only
  split
  · exact e
  · exact ⟨e.1.trans (wakeMons_only _ _).1, e.2⟩

theorem writeRun_only (s : State) (sp : Space) (a : Nat) (bs : List Byte) :
    OnlyStores s (s.writeRun sp a bs) ∧ OnlySeqs s.ctx (s.writeRun sp a bs).ctx := writePlaces_only _ _ _

/-! ## The canonical form -/

theorem ctxs_mapCtxs (s : State) (f : Ctx → Ctx) : (s.mapCtxs f).ctxs = s.ctxs.map f := rfl
theorem allCores_mapCores (s : State) (f : Core → Core) : (s.mapCores f).allCores = s.allCores.map f := rfl

theorem canon_putByte {s : State} (p : Place) (b : Byte) (h : Canon s) : Canon (s.putByte p b) := by
  obtain ⟨sp, a⟩ := p
  cases sp with
  | spad =>
    refine { h with cores := fun c hc => ?_ }
    rcases List.mem_cons.mp hc with rfl | hc
    · have k := h.cores s.core (List.mem_cons_self ..)
      exact ⟨Memory.wf_set _ _ k.1, k.2⟩
    · exact h.cores c (List.mem_cons_of_mem _ hc)
  | carve => exact { h with carves := Memory.wf_set _ _ h.carves }
  | host => exact { h with hosts := Memory.wf_set _ _ h.hosts }
  | phys => exact { h with mem := Memory.wf_set _ _ h.mem }
  | peer => exact h

theorem canon_setPois {s : State} (sp : Space) (x : Sparse Bool) (h : Canon s) : Canon (s.setPois sp x) := by
  cases sp with
  | spad =>
    refine { h with cores := fun c hc => ?_ }
    rcases List.mem_cons.mp hc with rfl | hc
    · exact h.cores s.core (List.mem_cons_self ..)
    · exact h.cores c (List.mem_cons_of_mem _ hc)
  | carve => exact { h with }
  | phys => exact { h with }
  | host => exact h
  | peer => exact h

theorem canon_clearPois {s : State} (ps : List Place) (h : Canon s) : Canon (s.clearPois ps) := by
  unfold State.clearPois
  split
  · exact h
  · split
    · exact h
    · exact canon_setPois _ _ h

theorem canonTables_of_onlySeqs {c k : Ctx} (h : OnlySeqs c k) : CtxCanon k ↔ CtxCanon c := by
  unfold OnlySeqs at h; rw [h]; rfl

theorem canon_notify {s : State} (w : Place → Bool) (h : Canon s) : Canon (s.notify w) := by
  refine { h with tables := fun c hc => ?_ }
  rw [State.notify, ctxs_mapCtxs] at hc
  rw [List.mem_map] at hc
  obtain ⟨k, hk, rfl⟩ := hc
  have h := h.tables k hk
  dsimp only
  split
  · exact h
  · exact (canonTables_of_onlySeqs (OnlySeqs.trans (by rfl) (wakeCtx_only _))).mpr h

theorem canon_wakeMons {s : State} (l : List Nat) (h : Canon s) : Canon (s.wakeMons l) := { h with }

theorem canon_merged {s : State} (l : List Nat) (h : Canon s) : Canon (s.merged l) := by
  unfold State.merged
  dsimp only
  split
  · exact canon_notify _ h
  · exact canon_wakeMons _ (canon_notify _ h)

theorem canon_mergeWhere {s : State} (sel : UpdLine → Bool) (h : Canon s) : Canon (s.mergeWhere sel) := by
  unfold State.mergeWhere
  split
  · exact h
  · refine canon_merged _ { h with mem := Memory.wf_foldl _ (fun m u => Memory.wf_applyLine u) _ _ h.mem, cores := fun c hc => ?_ }
    have hc : c ∈ s.allCores.map fun c => { c with uol := c.uol.filter fun u => !sel u } := hc
    rw [List.mem_map] at hc
    obtain ⟨k, hk, rfl⟩ := hc
    exact h.cores k hk

theorem canon_fold {β : Type} (f : State → β → State) (hf : ∀ s b, Canon s → Canon (f s b)) :
    ∀ (l : List β) (s : State), Canon s → Canon (l.foldl f s) := by
  intro l
  induction l with
  | nil => exact fun s h => h
  | cons b l ih => exact fun s h => ih _ (hf s b h)

theorem canon_mergeAt {s : State} (ps : List Place) (h : Canon s) : Canon (s.mergeAt ps) := by
  refine canon_fold _ (fun s p k => ?_) ps s h
  split
  · exact canon_mergeWhere _ k
  · exact k

/-- A write keeps every storage in its canonical form. -/
theorem canon_writePlaces {s : State} (ps : List Place) (bs : List Byte) (h : Canon s) : Canon (s.writePlaces ps bs) := by
  have a := canon_notify (fun p => ps.contains p)
    (canon_clearPois ps (canon_fold _ (fun s (pb : Place × Byte) => canon_putByte pb.1 pb.2) (ps.zip bs) _ (canon_mergeAt ps h)))
  unfold State.writePlaces
  dsimp only
  split
  · exact a
  · exact canon_wakeMons _ a

theorem canon_writeRun {s : State} (sp : Space) (a : Nat) (bs : List Byte) (h : Canon s) : Canon (s.writeRun sp a bs) :=
  canon_writePlaces _ _ h

/-- A read keeps them too: it may merge first. -/
theorem canon_readPlaces {s : State} (ps : List Place) (h : Canon s) : Canon (s.readPlaces ps).2 := canon_mergeAt ps h

end Sys2Proof.Laws
end

