-- ==== Sys2Proof/Tests/Slice0.lean ====
section
/-! SUPPORT. The model's own tests: words written out from the encoding tables, an ill-formed term for each check, witnesses
that the hypotheses of each statement can be met together, and small steps with results worked out from the rules. -/

namespace Sys2Proof.Tests
open Sys2Proof Sys2Proof.Machine Sys2Proof.Claims
set_option Elab.async false

/-! ## Concrete states -/

/-- The effect ends. -/
def okAt {α : Type} (e : Eff α) (s : State) : Bool := match e s with | .ok _ => true | .error _ => false
/-- The state in which it ends. -/
def ran {α : Type} (e : Eff α) (s : State) : State := match e s with | .ok (_, t) => t | .error _ => s
/-- What the tokens of an instruction leave. -/
def toks (i : Instr) (s : State) : Vector (BitVec 4) 8 :=
  (takeTokens s.ctx.tok (waitLinks s.turn (shape i).tok) (tokCount (shape i))).getD s.ctx.tok
/-- `Issues`, decided. -/
def issuesB (i : Instr) (s : State) : Bool :=
  !s.sq.skip && (decodeTrap s (shape i) (checks i) (dynBad s i)).isNone &&
  (takeTokens s.ctx.tok (waitLinks s.turn (shape i).tok) (tokCount (shape i))).isSome
/-- Where the effect of an instruction begins. -/
def bg (i : Instr) (s : State) : State := begun i s (toks i s)
/-- It issues, in an active slot. -/
def ready (i : Instr) (s : State) : Bool := issuesB i s && slotAt i (bg i s)
/-- It issues, in an active slot, and its reads and its write end. -/
def meets (i : Instr) (s : State) (e : Eff Unit) : Bool := ready i s && okAt e (bg i s)

theorem issues_of {i : Instr} {s : State} (h : issuesB i s = true) : Issues i s (toks i s) := by
  simp only [issuesB, Bool.and_eq_true, Bool.not_eq_true', Option.isNone_iff_eq_none, Option.isSome_iff_exists] at h
  obtain ⟨⟨h1, h2⟩, t, h3⟩ := h
  exact ⟨h1, h2, by simp [toks, h3]⟩

/-- What `meets` decides, in the statements' own terms. -/
theorem meets_says {i : Instr} {s : State} {e : Eff Unit} (h : meets i s e = true) :
    ∃ tok t, Issues i s tok ∧ slotAt i (begun i s tok) = true ∧ Gives e (begun i s tok) () t := by
  simp only [meets, ready, Bool.and_eq_true] at h
  refine ⟨toks i s, ran e (bg i s), issues_of h.1.1, h.1.2, ?_⟩
  have h2 := h.2
  unfold okAt at h2
  unfold Gives ran bg at *
  split at h2 <;> simp_all

/-- A chain of effects ends when its parts do, one after the other. -/
theorem gives_bind {α β : Type} {e : Eff α} {k : α → Eff β} {s : State} {b : β} {t : State} :
    Gives (e >>= k) s b t ↔ ∃ a u, Gives e s a u ∧ Gives (k a) u b t := by
  simp only [Gives, bind, StateT.bind, Except.bind]
  cases e s with
  | error x => simp
  | ok p =>
    obtain ⟨a, u⟩ := p
    simp only [Except.ok.injEq, Prod.mk.injEq]
    exact ⟨fun h => ⟨a, u, ⟨rfl, rfl⟩, h⟩, fun ⟨_, _, ⟨h1, h2⟩, h⟩ => by subst h1 h2; exact h⟩

/-- The state in which an instruction stands at the program counter of a sequencer that may issue it. -/
noncomputable def at_ (i : Instr) : State := (State.reset.withFetchWord (8 * lenOf i) (encodeWord i).toNat).enter
/-- The state after it, where it answers one. -/
noncomputable def nx (i : Instr) (s : State) : State := match exec i s with | .next u => u | _ => s
/-- `at_` with scalar registers s1, s2. -/
noncomputable def with2 (i : Instr) (a b : Word) : State := (at_ i).modCtx fun c => { c with s := (c.s.set 1 a).set 2 b }

/-- Fields of a form with destination 3 and sources 1 and 2. -/
def fw : W32 := ⟨0, 0, 3, 1, 2⟩
def fr : XR := { tok := 0, pred := 0, sense := 0, d := 3, a := 1, b := 2, c := 0, f := 0, m := 0, sa := 0, x := 0 }
def fi : XI := { tok := 0, pred := 0, sense := 0, d := 3, a := 1, imm := 0x80000001, top := 0 }
def fb : XB := { tok := 0, pred := 0, sense := 0, a := 1, b := 0, lc := 0, z := 0, off := 0x8000000 }
def fm : XM := { tok := 0, pred := 0, sense := 0, t := 3, a := 1, b := 0, wd := 3, am := 0, f := 0, m := 0, off := 0 }
def fe : XE := { tok := 0, pred := 0, sense := 0, d := 3, a := 1, b := 2, sw := 0, swe := 0, ss := 0, sse := 0, q := 0, f := 0, x := 0 }

/-! ## Witnesses: integer forms -/

theorem witness_TwoSourceForms : (twoSource.all fun p => [(5, 0), (0x8000000000000000, 0xFFFFFFFFFFFFFFFF)].all
    fun (v : Word × Word) => meets (p.1 fw) (with2 (p.1 fw) v.1 v.2) (do wS 3 (p.2.2 (← rS 1) (← rS 2)))) = true := by
  decide +kernel
theorem witness_ImmediateForms : (immediateForms.all fun p => twoSource.any fun q => encodeWord (q.1 fw) == encodeWord (p.2 fw) &&
    meets (p.1 ⟨0, 0, 3, 1, 63⟩) (with2 (p.1 ⟨0, 0, 3, 1, 63⟩) 0x8000000000000001 0) (do wS 3 (q.2.2 (← rS 1) 63))) = true := by
  decide +kernel
theorem witness_OneSourceForms : (oneSource.all fun p =>
    meets (p.1 ⟨0, 0, 3, 1, 0⟩) (with2 (p.1 ⟨0, 0, 3, 1, 0⟩) 0 0) (do let _ ← rS 1; wS 3 0)) = true := by
  decide +kernel
theorem witness_LongImmediateForms : (longImmediate.all fun p =>
    meets (p.1 fi) (with2 (p.1 fi) 0xFFFFFFFFFFFFFFFF 0) (do wS 3 (p.2 (← rS 1) fi.imm))) = true ∧
    meets (.li { fi with a := 0 }) (at_ (.li { fi with a := 0 })) (wS 3 (ofI fi.imm.toInt)) = true := by
  decide +kernel
theorem witness_PointerAndFieldForms :
    ([0x352, 0xFF3, 0x004].all fun (x : BitVec 12) => meets (.mkptr { fr with b := 0, x := x })
      (with2 (.mkptr { fr with b := 0, x := x }) 7 0) (do let _ ← rS 1; wS 3 7)) = true ∧
    meets (.sel { fr with c := 1 }) (with2 (.sel { fr with c := 1 }) 5 6)
      (do let a ← rS 1; let b ← rS 2; let c ← rP 1; wS 3 (if c.getLsbD 0 then a else b)) = true ∧
    ([0, 63, 0xFC0].all fun (x : BitVec 12) => meets (.bext { fr with b := 0, f := 1, x := x })
      (with2 (.bext { fr with b := 0, f := 1, x := x }) 7 0) (do let _ ← rS 1; wS 3 7)) = true ∧
    ([0, 63, 0xFC0].all fun (x : BitVec 12) => meets (.bins { fr with x := x })
      (with2 (.bins { fr with x := x }) 7 0) (do let _ ← rS 1; let _ ← rS 2; wS 3 7)) = true := by
  decide +kernel

/-! ## Witnesses: branches, loops, predicates, deferral, queues, tokens, regions -/

/-- `at_` with the context changed. -/
noncomputable def atC (i : Instr) (g : Ctx → Ctx) : State := (at_ i).modCtx g
/-- `at_` with the sequencer in turn changed. -/
noncomputable def atQ (i : Instr) (g : Seqr → Seqr) : State := (at_ i).setSq (g (at_ i).sq)
/-- Registers s1 and s2 of a context. -/
def put2 (a b : Word) (c : Ctx) : Ctx := { c with s := (c.s.set 1 a).set 2 b }

theorem witness_RelativeBranches :
    meets (.br { fb with a := 0 }) (at_ (.br { fb with a := 0 })) (pure ()) = true ∧
    ([Instr.bz, Instr.bnz].all fun p => [0, 1].all fun a => meets (p fb) (with2 (p fb) a 0) (do let _ ← rS 1)) = true ∧
    ([Instr.bany, Instr.ball, Instr.bnone].all fun p => meets (p { fb with b := 2 }) (at_ (p { fb with b := 2 }))
      (do let _ ← rP 1; let _ ← rP 2)) = true ∧
    ([Instr.bbo, Instr.bbon].all fun p => [true, false].all fun x =>
      let s := atC (p { fb with a := 0 }) fun c => { c with bo := [{ val := x }] }
      ready (p { fb with a := 0 }) s && qHead s.ctx.bo == some x) = true ∧
    meets (.call fb) (at_ (.call fb)) (wS 1 (linkAddr (.call fb) (at_ (.call fb)))) = true := by decide +kernel

/-- Even, odd, and just past the address space. -/
theorem witness_RegisterJumps : ([0xFFFFFFFFFFFFE, 1, 0x10000000000000].all fun a =>
    meets (.jr ⟨0, 0, 0, 1, 0⟩) (with2 (.jr ⟨0, 0, 0, 1, 0⟩) a 0) (do let _ ← rS 1) &&
    meets (.callr ⟨0, 0, 3, 1, 0⟩) (with2 (.callr ⟨0, 0, 3, 1, 0⟩) a 0) (do let _ ← rS 1; wS 3 0)) = true := by decide +kernel

theorem witness_LoopForms :
    ([0, 1, 0x100000000].all fun a => meets (.loop fb) (with2 (.loop fb) a 0) (do let _ ← rS 1)) = true ∧
    ([0, 1, 2].all fun n => ready (.bloop { fb with a := 0 }) (atQ (.bloop { fb with a := 0 })
      fun x => { x with lc := x.lc.set 0 n })) = true ∧
    ([0, 1, 2].all fun a => meets (.bdnz fb) (with2 (.bdnz fb) a 0) (do let a ← rS 1; wS 1 (a - 1))) = true ∧
    meets (.lcset { fr with d := 0, b := 0, f := 3 }) (with2 (.lcset { fr with d := 0, b := 0, f := 3 }) 7 0) (do let _ ← rS 1) = true ∧
    meets (.lcget { fr with a := 0, b := 0, f := 3 }) (at_ (.lcget { fr with a := 0, b := 0, f := 3 })) (wS 3 0) = true := by
  decide +kernel

/-- Alone and as the last of the four. -/
theorem witness_Halting :
    let s := atC (.halt ⟨0, 0, 0, 0, 0⟩) fun c => { c with seqs := c.seqs.set .sc { c.seqs.sc with run := .running } }
    ready (.halt ⟨0, 0, 0, 0, 0⟩) s = true ∧ ready (.halt ⟨0, 0, 0, 0, 0⟩) (at_ (.halt ⟨0, 0, 0, 0, 0⟩)) = true ∧
    (nx (.halt ⟨0, 0, 0, 0, 0⟩) s).ctx.cst = .run ∧ (nx (.halt ⟨0, 0, 0, 0, 0⟩) (at_ (.halt ⟨0, 0, 0, 0, 0⟩))).ctx.cst = .done := by
  decide +kernel

theorem witness_PredicateForms :
    ([Instr.pand, Instr.por, Instr.pxor, Instr.pandn].all fun p => meets (p fr) (at_ (p fr)) (do let _ ← rP 1; let _ ← rP 2; wP 3 0)) = true ∧
    meets (.pnot { fr with b := 0 }) (at_ (.pnot { fr with b := 0 })) (do let _ ← rP 1; wP 3 0) = true ∧
    meets (.pfroms { fr with b := 0 }) (at_ (.pfroms { fr with b := 0 })) (do wP 3 (← rS 1)) = true ∧
    ([Instr.ptos, Instr.pcnt, Instr.pffs].all fun p => meets (p { fr with b := 0 }) (at_ (p { fr with b := 0 })) (do let _ ← rP 1; wS 3 64)) = true := by
  decide +kernel

/-- A list of n queue entries. -/
def ents {α : Type} (n : Nat) (x : α) : List (QEnt α) := List.replicate n { val := x }

theorem witness_QueueForms :
    ([31, 32].all fun n => meets (.bopush ⟨0, 0, 0, 1, 0⟩) (atC (.bopush ⟨0, 0, 0, 1, 0⟩) fun c => { c with bo := ents n true })
      (do let _ ← rS 1)) = true ∧
    (let i : Instr := .bopop { fr with a := 0, b := 0 }
     ready i (at_ i) && qHead (at_ i).ctx.bo == none &&
     meets i (atC i fun c => { c with bo := ents 1 true }) (wS 3 1)) = true ∧
    (let i : Instr := .qpeek { fr with a := 63, b := 0 }
     ready i (at_ i) && qHead (vget (at_ i).ctx.q 7) == none &&
     meets i (atC i fun c => { c with q := c.q.set 7 (ents 1 9) }) (wS 3 9)) = true ∧
    (let i : Instr := .vqpeek { fr with a := 59, b := 0 }
     ready i (at_ i) && qHead (vget (at_ i).ctx.vq 3) == none &&
     meets i (atC i fun c => { c with vq := c.vq.set 3 (ents 1 9) }) (wV 3 (BitVec.allOnes 64) 9)) = true ∧
    ([(56, 0), (56, 1), (0, 2)].all fun (p : BitVec 6 × BitVec 5) => let i : Instr := .qlen { fr with a := p.1, b := 0, f := p.2 }
     meets i (at_ i) (wS 3 0)) = true := by decide +kernel

/-- n deferral entries of one tag. -/
def dents (n : Nat) (path : BitVec 4) : List DEnt := List.replicate n { val := 5, lane := 1, path := path, nval := 0 }

/-- Deferral: with room to the last entry and with none; draining at 63, 64 and flushed; in an owner and in a lease. -/
theorem witness_Deferral :
    (let i : Instr := .defer { fr with b := 1 }
     [448, 449].all fun n => let s := atC i fun c => { c with defq := dents n 0, p := c.p.set 1 (BitVec.allOnes 64) }
      meets i s (do let _ ← rP 1; wS 3 0) && !s.ctx.id.harv && lanesAt i (bg i s) != 0) = true ∧
    ([(63, 0), (64, 0), (3, 0x80), (3, 0xC0)].all fun (p : Nat × BitVec 12) =>
     let i : Instr := .drain { fr with a := 0, b := 0, c := 4, x := p.2 }
     let s := atC i fun c => { c with defq := dents p.1 0 ++ dents 2 1 }
     ready i s && !s.ctx.id.harv) = true ∧
    (let i : Instr := .rejoin { fr with d := 0, a := 0, b := 0 }; ready i (atC i fun c => { c with dmask := 7 })) = true ∧
    ([Instr.defer { fr with b := 1 }, .drain { fr with a := 0, b := 0, c := 4 }, .rejoin { fr with d := 0, a := 0, b := 0 }].all fun i =>
     let s := atC i fun c => { c with id := { c.id with harv := true } }
     ready i s && lanesAt i (bg i s) != 0 && s.ctx.id.harv) = true := by decide +kernel

/-- tokn with 15 tokens and nop, waiting on and signalling one link each. -/
theorem witness_TokenForms : ([Instr.tokn { fr with tok := 0xF, d := 0, a := 0, b := 0, x := 15 }, .nop ⟨0xF, 0, 0, 0, 0⟩].all fun i =>
    let s := atC i fun c => { c with tok := Vector.replicate 8 15 }
    issuesB i s && s.sq.held.isEmpty && !s.sq.atB && !s.sq.atE && !(waitLinks s.turn (shape i).tok).isEmpty &&
      !(signalLinks s.turn (shape i).tok).isEmpty) = true := by decide +kernel

/-- A region of LD and EX. -/
def bndRgn (c : Ctx) : Ctx := { c with bnd := { c.bnd with rgns := [(9, 3)] } }
def atMark (b e : Bool) (x : Seqr) : Seqr := { x with atB := b, atE := e, rgn := some 9 }
/-- A region in which LD and EX are. -/
def openRgn (c : Ctx) : Ctx :=
  { bndRgn c with rgns := [{ num := 9, mask := 3, chk := { seqs := c.seqs, tok := c.tok, q := c.q, vq := c.vq, bo := c.bo, srs := c.srs } }]
                  seqs := { c.seqs with ld := atMark false false c.seqs.ld }}

theorem witness_Regions :
    (let i : Instr := .rgnb { fr with d := 0, a := 0, b := 0, x := 9 }
     let s := atC i bndRgn
     let t := atC i fun c => { bndRgn c with seqs := { c.seqs with ex := atMark true false c.seqs.ex } }
     issuesB i s && issuesB i t && s.turn == .ld && (nx i s).sq.atB && (nx i s).ctx.rgns.isEmpty && (nx i t).ctx.rgns.length == 1) = true ∧
    (let i : Instr := .rgne { fr with d := 0, a := 0, b := 0, x := 9 }
     let s := atC i openRgn
     let t := atC i fun c => { openRgn c with seqs := { (openRgn c).seqs with ex := atMark false true c.seqs.ex } }
     issuesB i s && issuesB i t && !s.ctx.id.harv && (nx i s).sq.atE && (nx i s).ctx.rgns.length == 1 && (nx i t).ctx.rgns.isEmpty) = true := by
  decide +kernel

/-! ## Witnesses: edges and blocks -/

/-- A domain whose graph 1 has one edge, in and out on port 0 of the context: a ring of 2^6 slots at 0x1000. -/
def edge64 (slots : List ESlot) : Edge := { num := 0, src := 0, dst := 0, log2d := 6, ring := 0x1000, slots := slots }
def graph1 (slots : List ESlot) : Graph := { id := 1, job := 1, queue := 0, code := 0, nodes := [], edges := [edge64 slots] }
def edgeDom (slots : List ESlot) : Dom := { domReset 0 with graphs := [graph1 slots] }
def onEdge (slots : List ESlot) (s : State) : State :=
  ({ s with doms := s.doms.set 0 (edgeDom slots) } : State).modCtx fun c => { c with bnd := { c.bnd with graph := 1, inE := [0], outE := [0] } }
/-- Group forms: D or A is a group of eight. -/
def fg : XR := { tok := 0, pred := 0, sense := 0, d := 8, a := 0, b := 0, c := 0, f := 0, m := 0, sa := 0, x := 0 }
def fp : XR := { fg with d := 0, a := 8 }

theorem witness_EdgePopTakes : ([(Instr.eget fg, false), (.ejoin fg, true), (.etry { fg with c := 3 }, false),
    (.etry { fg with c := 3, f := 1 }, true)].all fun (p : Instr × Bool) =>
      let s := onEdge [.published] (at_ p.1)
      let b := bg p.1 s
      let b' := if p.2 then b else b.endTask
      ready p.1 s && headOf b 0 == some (0, 0) && headOf b' 0 == some (0, 0) && (b'.edge b'.domOf (b'.portEdge false 0)).isSome &&
        (if p.2 then b'.joinClash 0 else recTwice 0).isNone) = true := by decide +kernel
theorem witness_EdgePopWaits :
    ready (.eget fg) (onEdge [] (at_ (.eget fg))) = true ∧ ready (.ejoin fg) (onEdge [] (at_ (.ejoin fg))) = true ∧
    meets (.etry { fg with c := 3 }) (onEdge [] (at_ (.etry { fg with c := 3 }))) (wS2 3 0) = true ∧
    ([Instr.eget fg, .ejoin fg, .etry { fg with c := 3 }].all fun i =>
      let s := onEdge [] (at_ i); (headOf s 0).isNone && (headOf (bg i s).endTask 0).isNone) = true := by decide +kernel
/-- A push into the last free slot, and into a full edge. -/
theorem witness_EdgePush : ([Instr.eput fp, .eputs { fp with c := 3 }].all fun i => [63, 64].all fun n =>
    let s := onEdge (List.replicate n .published) (at_ i)
    ready i s && !s.ctx.id.harv && s.sq.pushing.isNone && (s.edge s.domOf (s.portEdge true 0)).any (fun x => x.slots.length == n && x.depth == 64) &&
      okAt (wS2 3 0) (bg i s)) = true := by decide +kernel
theorem witness_HarvestPushBuffered :
    let s := onEdge [] (atC (.eput fp) fun c => { openRgn c with id := { c.id with harv := true } })
    (ready (.eput fp) s && s.ctx.id.harv && !s.ctx.rgns.isEmpty && s.sq.pushing.isNone && (nx (.eput fp) s).ctx.pushes.length == 1) = true := by
  decide +kernel
theorem witness_EdgeStatus : ([0, 64].all fun n =>
    let i : Instr := .estat { fr with a := 0, b := 0 }
    let s := onEdge (List.replicate n .published) (at_ i)
    meets i s (wS 3 (ofN (64 - n + n * 2 ^ 17))) && (s.edge s.domOf (s.portEdge false 0)).any (fun x => x.slots.length == n && x.fill == n)) = true := by
  decide +kernel

/-- A task that holds block 5, E and C given. -/
def onBlock (e c : BitVec 48) (posted done : Bool) (s : State) : State :=
  ({ s with jcbs := [(5, some { expect := e, count := c, job := 0, dom := 0, done := done, donegts := 0, wake := 0, queue := 0 })] } : State).modCtx
    fun c => { c with task := some { jcb := some 5, posted := posted } }
def ijr : Instr := .jraise { fr with d := 0, b := 0 }
def ijp : Instr := .jpost { fr with d := 0, a := 0, b := 0 }

theorem witness_BlockForms :
    meets ijr (onBlock 2 1 false false (with2 ijr 0xFFFFFFFFFFFD 0)) (do let _ ← rS 1) = true ∧
    ([1, 2].all fun e => ready ijp (onBlock e 0 false false (at_ ijp)) && (onBlock e 0 false false (at_ ijp)).heldJcb.isSome) = true ∧
    ([0, 1, 2, 3].all fun k => let i : Instr := .jstat { fr with a := 0, b := 0, f := k }; meets i (onBlock 2 1 true false (at_ i)) (wS 3 0)) = true := by
  decide +kernel
theorem witness_BlockOrder : ([ijr, ijp].all fun i =>
    meets i (at_ i) (do let _ ← rS 1) && (at_ i).heldJcb.isNone && [(true, false), (false, true)].all fun (p : Bool × Bool) =>
      ready i (onBlock 2 2 p.1 p.2 (at_ i)) && (onBlock 2 2 p.1 p.2 (at_ i)).heldJcb.isSome) = true := by decide +kernel

/-! ## Witnesses: memory -/

/-- A context whose kernel declares the first 2^20 bytes of scratchpad, with s1 and s2. -/
def spmCtx (a b : Word) (c : Ctx) : Ctx := { put2 a b c with bnd := { c.bnd with spm := [{ lo := 0, len := 0x100000 }] } }
noncomputable def atM (i : Instr) (a b : Word) : State := atC i (spmCtx a b)
/-- `Clear`, decided. -/
def clearB (need : BitVec 7) (pois wr : Bool) (r : Req) (s : State) : Bool :=
  (r.ptr.toNat / 2 ^ 60 == 0 || r.ptr.toNat / 2 ^ 60 == 1 || r.ptr.toNat / 2 ^ 60 == 5) && (s.checkStatic need r).isNone && s.part.scrub == 0 &&
  (!pois || (s.direct r).all fun p => !s.poisoned p) && !s.ctx.bnd.strict && (wr == wr)

/-- Unsigned and signed offsets, at the top of the address space, in all five modes. -/
theorem witness_AddressModes : ([0, 1, 2, 3, 4].all fun am =>
    let f : XM := { fm with b := 2, am := am, off := 0x1FFF }
    okAt (do let _ ← rS f.a; rS f.b) (atM (.ld f) 0 0xFFFFFFFFFFFFFFFF) && okAt (eaXM f) (atM (.ld f) 0 0xFFFFFFFFFFFFFFFF)) = true := by
  decide +kernel

/-- Loads of 1 to 8 bytes, with and without base update, at the start and the end of the scratchpad; ldacq. -/
theorem witness_ScalarLoads : ([0, 1, 2, 3].all fun wd => [(0, 0), (2, 0x100000 - 8)].all fun (p : BitVec 3 × Word) =>
    let f : XM := { fm with wd := wd, am := p.1, off := 0 }
    let s := atM (.ld f) p.2 0
    let r := scalarReq p.2 (widthOf wd)
    meets (.ld f) s (do let (_, u) ← eaXM f; readyS f.t; let ps ← access needRD true false false [r]; let bs ← loadBytes r (ps.getD 0 []); wS f.t (ofN (leNat bs)); postUpd u) &&
      clearB needRD true false r s && !s.ctx.id.harv && widthOf wd ≤ 8) = true ∧
    (let i : Instr := .ldacq { fm with m := 4 }
     meets i (atM i 9 0) (do let _ ← rS 1; readyS 3; let ps ← access needRD true false true [scalarReq 8 8]; let bs ← loadBytes (scalarReq 8 8) (ps.getD 0 []); wS 3 (ofN (leNat bs)))) = true := by decide +kernel
/-- Stores of 1 to 8 bytes in scratchpad, and a release store. -/
theorem witness_DirectStore : ([0, 1, 2, 3].all fun wd => [(0, 0), (2, 0x100000 - 8)].all fun (p : BitVec 3 × Word) =>
    let f : XM := { fm with wd := wd, am := p.1, off := 0 }
    let s := atM (.st f) p.2 0
    meets (.st f) s (do let (_, u) ← eaXM f; let _ ← rS f.t; postUpd u) && clearB needWR false true (scalarReq p.2 (widthOf wd)) s &&
      !s.ctx.id.harv) = true ∧
    (let i : Instr := .strel { fm with m := 4 }
     let s := atM i 8 0
     meets i s (do let _ ← rS 1; let _ ← rS 3) && clearB needWR false true (scalarReq 8 8) s && s.ctx.pend == 0 && s.core.uol.isEmpty) = true := by
  decide +kernel
/-- A harvest context with n blocks in its store buffer, in a domain with a carve: no region open, room, none left. -/
def harvCtx (n : Nat) (c : Ctx) : Ctx :=
  { put2 0x1000000000000008 0 (openRgn c) with id := { c.id with harv := true }, sbuf := (upTo n).map fun k => { sp := .carve, block := 0x40 + k, data := 0, mask := 1 } }
noncomputable def atH (i : Instr) (n : Nat) : State := let s := atC i (harvCtx n); { s with doms := s.doms.set 0 { domReset 0 with steps := [0] } }
theorem witness_HarvestStore :
    ready (.st fm) ((atH (.st fm) 0).modCtx fun c => { c with rgns := [] }) = true ∧
    ([63, 64].all fun n => let s := atH (.st fm) n
      meets (.st fm) s (do let (_, u) ← eaXM fm; let _ ← rS 3; postUpd u) && s.ctx.id.harv && !s.ctx.rgns.isEmpty &&
        clearB needWR false true (scalarReq 0x1000000000000008 8) s) = true ∧
    (nx (.st fm) (atH (.st fm) 63)).ctx.sbuf.length = 64 ∧ (nx (.st fm) (atH (.st fm) 64)).sq.run = .faulted := by decide +kernel

def fv : XM := { fm with wd := 6 }
/-- Vector loads and stores of the active lanes; lanes that meet. -/
theorem witness_VectorMemory :
    ([(Instr.vld fv, unitReqs), (.vldk { fm with wd := 2 }, packReqs)].all fun p =>
      let s := atM p.1 0x100 0
      let m := lanesAt p.1 s
      issuesB p.1 s && m != 0 && okAt (do let (ea, u) ← eaXM fv; readyV 3; let l ← loadLanes false (p.2 ea m); wV 3 m (ofPairs l); postUpd u) (bg p.1 s) &&
        (p.2 0x100 m).all fun r => clearB needRD true false r s && r.n ≤ 4) = true ∧
    (let f : XM := { fm with b := 2, wd := 2, am := 4 }
     let s := atM (.vldx f) 0x100 0
     let m := lanesAt (.vldx f) s
     issuesB (.vldx f) s && m != 0 && okAt (do let _ ← rS 1; let b ← rV 2; readyV 3; let l ← loadLanes false (indexReqs 0x100 b 4 m); wV 3 m (ofPairs l)) (bg (.vldx f) s)) = true ∧
    ([Instr.vst fv, .vstk { fm with wd := 2 }].all fun p =>
      let s := atM p 0x100 0
      issuesB p s && lanesAt p s != 0 && okAt (do let (_, u) ← eaXM fv; let _ ← rV 3; postUpd u) (bg p s) &&
        (unitReqs 0x100 (lanesAt p s)).all fun r => clearB needWR false true r s) = true ∧
    (let f : XM := { fm with b := 2, wd := 2, am := 4 }
     let s := atM (.vstx f) 0x100 0
     issuesB (.vstx f) s && lanesAt (.vstx f) s != 0 && okAt (do let _ ← rS 1; let _ ← rV 2; let _ ← rV 3) (bg (.vstx f) s) &&
       (indexReqs 0x100 0 4 (lanesAt (.vstx f) s)).all fun r => clearB needWR false true r s) = true := by decide +kernel

theorem witness_Maintenance :
    ([Instr.pf { fm with t := 0, wd := 0 }, .icinv { fm with t := 0, wd := 0, f := 31 }, .ipf { fm with t := 0, wd := 0 }, .dcwb { fm with t := 0, wd := 0, f := 1 }].all fun i =>
      meets i (atM i 0x100 0) (do let _ ← eaXM fm)) = true ∧
    meets (.icinv { fm with t := 0, wd := 0, a := 0, m := 1 }) (at_ (.icinv { fm with t := 0, wd := 0, a := 0, m := 1 })) (do let _ ← eaXM { fm with a := 0 }) = true ∧
    ([0, 1].all fun k => clearB 0 false false { ptr := ofN (0x100 + 64 * k), n := 64, lane := 0xFF } (atM (.ld fm) 0x100 0)) = true := by
  decide +kernel
/-- The last byte of window 0, and the first of window 6. -/
theorem witness_WindowCheck : ([0x0FFFFFFFFFFFFFF9, 0x6000000000000000].all fun a =>
    meets (.ld fm) (atM (.ld fm) a 0) (do let _ ← eaXM fm; readyS 3) && meets (.st fm) (atM (.st fm) a 0) (do let _ ← eaXM fm; let _ ← rS 3)) = true := by
  decide +kernel

/-- A capability without bits that stand in the way: rights in [54:48], a LIMIT of 99. -/
def capOf (bits : Nat) (slot : Nat) (s : State) : State :=
  s.modCtx fun c => { c with table := [(slot, some { cap := BitVec.ofNat 128 (99 * 2 ^ 64 + bits), tmpl := false, inst := false })] }
/-- Each cause, at the first and the last slot; the last byte and one beyond. -/
theorem witness_CapabilityCheck : ([0, 255].all fun k =>
    let p := fun (o n : Nat) => ({ ptr := BitVec.ofNat 64 (2 * 2 ^ 60 + k * 2 ^ 52 + o), n := n, lane := 0xFF } : Req)
    let c := fun bits o n => (capOf bits k State.reset).checkSlot needRD (p o n)
    (State.reset.slot (BitVec.ofNat 8 k)).isNone && (State.reset.checkSlot needRD (p 0 8)).isSome && (c (2 ^ 56 + 2 ^ 48) 0 8).isSome &&
      (c (2 ^ 57 + 2 ^ 48) 0 8).isSome && (c 0 0 8).isSome && (c (2 ^ 48) 93 8).isSome && (c (2 ^ 48) 92 8).isNone) = true := by decide +kernel

/-- A descriptor of 4 slots with the given counts. -/
def cbAt (free fill resv acq : Nat) (i : Instr) (s : State) : State :=
  let c : Cbd := { base := 0x1000, log2sz := 0, nslotm1 := 3, en := true, free := free, fill := fill, resv := resv, acq := acq, head := 3, tail := 3 }
  match i with | _ => ({ s with core := { s.core with cbd := s.core.cbd.set 31 c } } : State).modCtx fun c => { c with bnd := { c.bnd with cbd := 0x80000000 } }
def fcb : XR := { fr with a := 0, b := 0, x := 31 }
theorem witness_CircularBuffers : ([(Instr.cbres fcb, 1, 0, 0, 0), (.cbacq fcb, 0, 1, 0, 0), (.cbcmt { fcb with d := 0 }, 0, 0, 1, 0), (.cbrel { fcb with d := 0 }, 0, 0, 0, 1)].all
    fun (p : Instr × Nat × Nat × Nat × Nat) =>
      meets p.1 (cbAt p.2.1 p.2.2.1 p.2.2.2.1 p.2.2.2.2 p.1 (at_ p.1)) (wS 3 0x10C0) && ready p.1 (cbAt 0 0 0 0 p.1 (at_ p.1)) && ready p.1 (at_ p.1)) = true := by
  decide +kernel

/-! ## Witnesses: atomics, ordering, semaphores, barriers, waits -/

theorem witness_UpdateThenRead : ([(0, 4), (7, 8)].all fun (p : BitVec 3 × Nat) =>
    (State.reset.allCores.all fun c => c.uol.isEmpty) && State.reset.mons.isEmpty &&
      ((State.reset.combine p.1 p.2 (2 ^ 20 + 8) 7).readPlaces (run .phys (2 ^ 20 + 8) p.2)).1 == leBytes p.2 7) = true := by decide +kernel

def fa : XM := { fm with b := 2, f := 0x10, m := 4, off := 4 }
/-- Words of 4 and 8 bytes; .swap; a release at FAB with nothing outstanding. -/
theorem witness_ScalarAtomics : (atomicForms.all fun p => [(2, 0x10), (3, 0x10), (3, 0x11)].all fun (w : BitVec 3 × BitVec 5) =>
    let f := { fa with wd := w.1, f := w.2 }
    let s := atM (p.instr f) 0x100 7
    let r := scalarReq (if w.1 = 2 then 0x104 else 0x100) (widthOf w.1)
    meets (p.instr f) s (do let _ ← rS 1; let _ ← rS 2; let _ ← rS 3; readyS 3; wS 3 0) && clearB needAT true true r s && s.ctx.pend == 0 &&
      s.core.uol.isEmpty && p.op f 7 0 0 < 2 ^ (8 * widthOf w.1)) = true := by decide +kernel

theorem witness_VectorAtomics :
    let f : XM := { fm with b := 2, wd := 2, am := 4, f := 7 }
    let s := atM (.vamo f) 0x100 0
    let m := lanesAt (.vamo f) s
    (issuesB (.vamo f) s && m != 0 && okAt (do let _ ← rS 1; let _ ← rV 2; let _ ← rV 3; readyV 3; wV 3 m 0) (bg (.vamo f) s) &&
      (wordReqs 0x100 0 m).all fun r => clearB needAT true true r s) = true := by decide +kernel

theorem witness_CommutativeUpdates :
    (let f : XM := { fm with f := 5 }
     let s := atM (.cupd f) 0x100 0
     meets (.cupd f) s (do let _ ← rS 1; let _ ← rS 3; cupdAll 5 [(scalarReq 0x100 8, 0)])) = true ∧
    (let f : XM := { fm with b := 2, wd := 2, am := 4, f := 5 }
     let s := atM (.vcupd f) 0x100 0
     let m := lanesAt (.vcupd f) s
     issuesB (.vcupd f) s && m != 0 &&
       okAt (do let _ ← rS 1; let _ ← rV 2; let _ ← rV 3; cupdAll 5 ((wordReqs 0x100 0 m).map fun r => (r, 0))) (bg (.vcupd f) s)) = true := by
  decide +kernel

theorem witness_Fences : ([0, 5].all fun pend => [2, 3, 4].all fun m =>
    let i : Instr := .fence { fr with d := 0, a := 0, b := 0, m := m }
    ready i (atC i fun c => { c with pend := pend })) = true := by decide +kernel

/-- Counts at both ends. -/
theorem witness_Semaphores : ([0, 1, 65534, 65535].all fun n =>
    let f : XR := { fr with d := 0, a := 0, b := 0, m := 2, x := 63 }
    let at_ := fun i => let s := Tests.at_ i; ({ s with core := { s.core with sem := s.core.sem.set 63 n } } : State)
    ready (.semsig f) (at_ (.semsig f)) && ready (.semwait f) (at_ (.semwait f)) &&
      meets (.semget { f with d := 3, m := 0 }) (at_ (.semget { f with d := 3, m := 0 })) (wS 3 1)) = true := by decide +kernel

/-- A barrier object in the scratchpad at 0x100: one short of its count, and two short. -/
def bar (arr : Nat) (s : State) : State := s.writePlaces (run .spad 0x100 16) (barObj 3 arr 0xFFFFFFFF)
theorem witness_Barriers :
    ([0, 0x100000000, 1].all fun b => let i : Instr := .barinit { fr with d := 0 }
      meets i (atM i 0x10F b) (do let _ ← rS 1; let _ ← rS 2) && clearB needWR false true (scalarReq 0x100 16) (atM i 0x10F b)) = true ∧
    ([1, 2].all fun arr => let i : Instr := .bararr { fr with b := 0, m := 4 }; let s := bar arr (atM i 0x100 0)
      meets i s (do let _ ← rS 1; readyS 3; wS 3 5) && clearB needAT true true (scalarReq 0x100 16) s && s.ctx.pend == 0 &&
        (s.direct (scalarReq 0x100 16)).map s.byteAt == barObj 3 arr 0xFFFFFFFF) = true ∧
    ([0xFFFFFFFF, 0].all fun b => let i : Instr := .barwait { fr with d := 0, m := 2 }; let k : Instr := .bartest { fr with m := 2 }
      let s := bar 1 (atM i 0x100 b); let t := bar 1 (atM k 0x100 b)
      meets i s (do let _ ← rS 1; let _ ← rS 2) && clearB needRD true false (scalarReq 0x100 16) s &&
        meets k t (do let _ ← rS 1; let _ ← rS 2; readyS 3; wS 3 0) && clearB needRD true false (scalarReq 0x100 16) t) = true := by decide +kernel

/-- The condition holds, fails, has been ended by a write; the deadline is to come and has come. -/
theorem witness_AddressWaits : ([0, 1].all fun b => [none, some 9].all fun w => [0, 1].all fun d =>
    let f : XM := { fm with b := 2, m := 2 }
    let on := fun i => let s := (atM i 0x100 b).modCtx fun c => { c with s := c.s.set 3 d }; s.setSq { s.sq with woke := w }
    meets (.waitw f) (on (.waitw f)) (do let _ ← rS 1; let _ ← rS 2; readyS 3; wS 3 0) &&
      meets (.waitwt f) (on (.waitwt f)) (do let _ ← rS 3; let _ ← rS 1; let _ ← rS 2; readyS 3; wS 3 0) &&
      clearB needRD true false (scalarReq 0x100 8) (on (.waitw f)) && ((on (.waitwt f)).gts == 0)) = true := by decide +kernel

/-- 8 wake words: the last of them, the first beyond, and the last of another package. -/
theorem witness_Wakes : ([0x5FFF000000000038, 0x5FFF000000000040, 0x5001000000000038].all fun a =>
    let i : Instr := .wake { fm with m := 2 }
    let s := atM i a 0
    let t : State := { s with doms := s.doms.set 0 { domReset 0 with cfg := (domReset 0).cfg.set 5 8 } }
    meets i t (do let _ ← rS 1; let _ ← rS 3) && (t.dom t.domOf).waken == 8 && t.ctx.pend == 0) = true := by decide +kernel

/-! ## Witnesses: vector forms -/

/-- It issues with an active lane, and its reads and its write end. -/
def meetsV (i : Instr) (s : State) (e : Eff Unit) : Bool := issuesB i s && lanesAt i s != 0 && okAt e (bg i s)
/-- Vector registers v1, v2, with every lane the same. -/
def lanes2 (a b : Lane) (c : Ctx) : Ctx := { c with v := (c.v.set 1 (vbc a)).set 2 (vbc b) }
  where vbc (x : Lane) : Vec := ofPairs ((upTo 64).map fun k => (k, x))

theorem witness_LaneForms :
    (laneForms.all fun p => meetsV (p.1 fw) (atC (p.1 fw) (lanes2 0x80000000 0xFFFFFFFF)) (do let _ ← rV 1; let _ ← rV 2; wV 3 (lanesAt (p.1 fw) (at_ (p.1 fw))) 0)) = true ∧
    (laneForms1.all fun p => meetsV (p.1 ⟨0, 0, 3, 1, 0⟩) (at_ (p.1 ⟨0, 0, 3, 1, 0⟩)) (do let _ ← rV 1; wV 3 (BitVec.allOnes 64) 0)) = true ∧
    meetsV (.vbcast ⟨0, 0, 3, 1, 0⟩) (at_ (.vbcast ⟨0, 0, 3, 1, 0⟩)) (do let _ ← rS 1; wV 3 (BitVec.allOnes 64) 0) = true := by decide +kernel

/-- In the mode of FPCTL (RNE and SR), of M, of M = 7; ET 0 to 3. -/
theorem witness_FloatingForms :
    (fp32Forms.all fun p => [0, 4].all fun mode => meetsV (p.1 fw) (atC (p.1 fw) fun c => { c with fpctl := mode })
      (do let a ← rV 1; let b ← rV 2; let l ← rounded mode.toNat (etLane 0) (fun r e => p.2.2 mode.toNat r (etVal 0 a e) (etVal 0 b e)) [0, 63]
          wV 3 (BitVec.allOnes 64) (etVec 0 l))) = true ∧
    (fusedForms.all fun p => [(0, 0), (1, 4), (2, 7), (3, 1)].all fun (k : BitVec 12 × BitVec 3) =>
      let f := { fr with c := 4, m := k.2, x := k.1 }
      meetsV (p.1 f) (at_ (p.1 f)) (do let _ ← rV 1; let _ ← rV 2; let _ ← rV 4; wV 3 (BitVec.allOnes 64) 0) && etGov (etOf f) (lanesAt (p.1 f) (at_ (p.1 f))) != 0) = true ∧
    ([0, 1, 2, 3, 4, 5].all fun k => let f := { fr with f := k, m := 7, x := 3 }
      meetsV (.vfalu f) (at_ (.vfalu f)) (do let _ ← rV 1; let _ ← rV 2; wV 3 (BitVec.allOnes 64) 0)) = true := by decide +kernel

theorem witness_RootsAndApproximations :
    ([0, 3].all fun x => let f := { fr with b := 0, m := 3, x := x }; meetsV (.vfsqrt f) (at_ (.vfsqrt f)) (do let _ ← rV 1; wV 3 (BitVec.allOnes 64) 0)) = true ∧
    (approxForms.all fun p => [0, 1, 2].all fun x => let f := { fr with b := 0, x := x }
      meetsV (p.1 f) (at_ (p.1 f)) (do let _ ← rV 1; wV 3 (BitVec.allOnes 64) 0)) = true := by decide +kernel

/-- A list of elements that meets ElementsRounded's premise, and what rounding it under SR leaves. -/
theorem witness_ElementsRounded : (([0, 63, 0].all fun e => etLane 0 e < 64) &&
    okAt (rounded 4 (etLane 0) (fun r e => (r + e, 0)) [0, 63, 0]) State.reset) = true := by decide +kernel

theorem witness_CompareSelectForms :
    ([0, 1, 2, 3, 4, 5].all fun k => meetsV (.vcmp { fr with f := k }) (at_ (.vcmp { fr with f := k })) (do let _ ← rV 1; let _ ← rV 2; let _ ← rP 3; wP 3 0)) = true ∧
    ([0, 1, 2, 3, 4].all fun k => [0, 3].all fun x => let f := { fr with f := k, x := x }
      meetsV (.vfcmp f) (at_ (.vfcmp f)) (do let _ ← rV 1; let _ ← rV 2; let _ ← rP 3; wP 3 0)) = true ∧
    meetsV (.vsel { fr with c := 1 }) (at_ (.vsel { fr with c := 1 })) (do let _ ← rV 1; let _ ← rV 2; let _ ← rP 1; wV 3 (BitVec.allOnes 64) 0) = true ∧
    ([0, 0xFFF].all fun x => meetsV (.viota { fr with b := 0, x := x }) (with2 (.viota { fr with b := 0, x := x }) 0xFFFFFFFF 0) (do let _ ← rS 1; wV 3 (BitVec.allOnes 64) 0)) = true := by
  decide +kernel

/-- Elements of 32 and of 16 bits; rotations by an immediate and by a register; the greatest block of a transpose. -/
theorem witness_PermuteForms :
    ([0, 1].all fun x => let f := { fr with x := x }
      meetsV (.vperm f) (at_ (.vperm f)) (do let _ ← rV 1; let _ ← rV 2; wV 3 (BitVec.allOnes 64) 0) &&
      meetsV (.vperm2 f) (at_ (.vperm2 f)) (do let _ ← rV 2; wV 3 (BitVec.allOnes 64) 0)) = true ∧
    ([0x13F, 0x1FF].all fun x => let f := { fr with b := 0, x := x }; meetsV (.vrot f) (at_ (.vrot f)) (do let _ ← rV 1; wV 3 (BitVec.allOnes 64) 0)) = true ∧
    ([0, 0x80].all fun x => let f := { fr with x := x }; meetsV (.vrot f) (with2 (.vrot f) 0 0xFFFFFFFFFFFFFFFF) (do let _ ← rV 1; let _ ← rS 2; wV 3 (BitVec.allOnes 64) 0)) = true ∧
    ([0, 5, 0xE].all fun x => [0, 1].all fun g => let f := { fr with f := g, x := x }
      meetsV (.vtrn f) (at_ (.vtrn f)) (do let _ ← rV 1; let _ ← rV 2; wV 3 (BitVec.allOnes 64) 0)) = true := by decide +kernel

theorem witness_LaneMoves :
    ([Instr.vcompress { fr with b := 0 }, .vexpand { fr with b := 0 }].all fun i => meetsV i (at_ i) (do let _ ← rV 1; wV 3 (BitVec.allOnes 64) 0)) = true ∧
    ([0x40, 0x7F].all fun x => let f := { fr with b := 0, x := x }
      meets (.vext f) (at_ (.vext f)) (do let _ ← rV 1; wS 3 0) && meets (.vins f) (at_ (.vins f)) (do let _ ← rS 1; wV 3 1 0)) = true ∧
    meets (.vext fr) (at_ (.vext fr)) (do let _ ← rV 1; let _ ← rS 2; wS 3 0) = true ∧ meets (.vins fr) (at_ (.vins fr)) (do let _ ← rS 1; let _ ← rS 2; wV 3 1 0) = true := by
  decide +kernel

def f2 : XR := { fr with d := 4, a := 6, b := 8 }
/-- Forward and inverse, conjugated, in FP32, FP16 and BF16; the smallest and the greatest twiddle table. -/
theorem witness_ComplexForms :
    ([0, 1, 2, 4, 0xC].all fun x => let f := { f2 with x := x, m := 7 }
      [Instr.bfly2 f, .bfly4 f].all fun i => meetsV i (at_ i) (wVGroup 4 (BitVec.allOnes 64) [0, 0])) = true ∧
    ([0, 8].all fun x => let f := { f2 with x := x }; meetsV (.twmul f) (at_ (.twmul f)) (wVGroup 4 (BitVec.allOnes 64) [0, 0])) = true ∧
    ([4, 96].all fun x => let f := { f2 with a := 1, b := 2, x := x }
      meetsV (.twgen f) (at_ (.twgen f)) (do let _ ← rS 1; let _ ← rS 2; wVGroup 4 (BitVec.allOnes 64) [0, 0])) = true := by decide +kernel

theorem witness_Reductions :
    ([Instr.vredadd, Instr.vredmin, Instr.vredmax].all fun p => [0, 1].all fun n => let f := { fr with f := n }
      meetsV (p f) (at_ (p f)) (do let _ ← rV 1; let _ ← rS 2; wS 3 0)) = true ∧
    ([0, 4].all fun m => let f := { fr with m := m }; meetsV (.vfredadd f) (at_ (.vfredadd f)) (do let _ ← rV 1; let _ ← rS 2; let _ ← draw m.toNat 0; wS 3 0)) = true ∧
    ([Instr.vfredmin { fr with x := 3 }, .vfredmax { fr with x := 3 }].all fun i => meetsV i (at_ i) (do let _ ← rV 1; let _ ← rS 2; wS 3 0)) = true := by
  decide +kernel

/-- FP32 to FP8 packed, FP8 unpacked to FP32, FP64 to FP32 with no lane of its half active, FP32 to INT8. -/
theorem witness_ConversionForms : ([Instr.vcvt { fr with b := 0, f := 4, x := 0x20 }, .vcvt { fr with b := 0, x := 0x44 }, .vcvt { fr with b := 0, x := 0x96 },
    .vcvti { fr with b := 0, f := 8 }].all fun i => meetsV i (at_ i) (do let _ ← rV 1; wV 3 (BitVec.allOnes 64) 0)) = true := by decide +kernel
/-- An active lane, and none that takes part, to a register and to a queue. -/
theorem witness_ConversionForms_none : ([3, 56].all fun d =>
    let f : XR := { fr with d := d, b := 0, f := 0x16, x := 0, pred := 1 }
    let s := atC (.vcvt f) fun c => { c with p := c.p.set 1 0x8000000000000002 }
    let k := cvtOf f
    k.dst == fp64 && issuesB (.vcvt f) s && lanesAt (.vcvt f) s != 0 && okAt (rV 1) (bg (.vcvt f) s) &&
      ((List.range 64).filter fun l => (lanesAt (.vcvt f) s).getLsbD l && (k.source 0 l).isSome).isEmpty) = true := by decide +kernel
theorem witness_BlockConversion : ([0x0C, 0x11].all fun c => [0, 1].all fun x => let f := { fr with b := 0, f := c, x := x, m := 4 }
    meetsV (.vcvtb f) (at_ (.vcvtb f)) (do let a ← rV 1; let _ ← encodeBlocks f 1 a 4; wV 3 (BitVec.allOnes 64) 0)) = true := by decide +kernel

/-! ## Witnesses: sort network, capabilities, control registers, descriptors, lending -/

def f0 : XR := { fr with d := 0, a := 0, b := 0 }
/-- Each configuration form, with a flush in progress and without. -/
theorem witness_SortConfigurations : ([Instr.srtkey { f0 with x := 6 }, .srttopk { f0 with x := 0xFFF }, .srtseg { f0 with x := 127, f := 31 }, .srtdedup { f0 with f := 1 },
    .srtthr { f0 with f := 1 }, .srtthr { f0 with a := 1 }, .srtflush f0, .srtwait f0].all fun i => [true, false].all fun b =>
      let s := atC i fun c => { c with srt := { c.srt with busy := b } }
      meets i s (do let _ ← rS 1) && !s.ctx.id.harv && s.ctx.srt.busy == b) = true := by decide +kernel
/-- n retained pairs. -/
def pairs (n : Nat) : List SortEnt := (upTo n).map fun k => { key := BitVec.ofNat 32 k, val := 7, seg := 0, ins := k }
theorem witness_SortLoad : let i : Instr := .srtld { fr with d := 0, c := 4 }
    (meetsV i (at_ i) (do let _ ← rV 1; let _ ← rV 2; let _ ← rV 4) && !(at_ i).ctx.srt.busy && (nx i (at_ i)).ctx.srt.held.length == 64) = true := by
  decide +kernel
theorem witness_TopKHoldsBest : let t : SortSt := { mode := 1, capK := 2 }
    ([(5, 0), (3, 1), (5, 2), (4, 3)].foldl (fun (t : SortSt) x => t.offer x.1 x.2 0) t).ordered.map (fun e => (e.key, e.val)) = [(3, 1), (4, 3)] ∨
    ([(5, 0), (3, 1), (5, 2), (4, 3)].foldl (fun (t : SortSt) x => t.offer x.1 x.2 0) t).ordered.map (fun e => (e.key, e.val)) = [(5, 0), (5, 2)] := by
  decide +kernel
/-- Without a flush; 65 pairs left, 1 pair left, none. -/
theorem witness_SortReadout :
    (let i : Instr := .srtst { f0 with d := 4, c := 3 }
     [(false, 0), (true, 0), (true, 64), (true, 65)].all fun (p : Bool × Nat) =>
       let s := atC i fun c => { c with srt := { c.srt with held := pairs 65, frozen := p.1, cur := p.2 } }
       issuesB i s && lanesAt i s != 0 && !s.ctx.id.harv && !s.ctx.srt.busy &&
         (nx i s).pReg 3 == (if p.1 then BitVec.ofNat 64 (2 ^ min 64 (65 - p.2) - 1) else 0)) = true ∧
    (let s := State.reset.modCtx fun c => { c with srt := { c.srt with held := pairs 3, busy := true } }
     s.ctx.srt.busy && !(nx .srtFlushDone s).ctx.srt.busy) = true ∧
    meets (.srtstat { f0 with d := 3 }) (at_ (.srtstat { f0 with d := 3 })) (wS 3 0) = true := by decide +kernel
theorem witness_SortRegisters :
    (let i : Instr := .srtsort { f0 with d := 4, a := 6 }; issuesB i (at_ i) && lanesAt i (at_ i) != 0 && !(at_ i).ctx.id.harv) = true ∧
    ready (.srtmrg { f0 with d := 4, a := 8, b := 10 }) (at_ (.srtmrg { f0 with d := 4, a := 8, b := 10 })) = true := by decide +kernel

/-- A domain with one buffer, named 7, of generation 3, and r references. -/
def regDom (r : BitVec 32) : Dom :=
  { domReset 0 with reg := [{ name := 7, gen := 3, live := true, retired := false, refcnt := r, limit := 0xFFF, vbase := 0, rtref := false }] }
/-- Slot 1 holds a capability of it with every right. -/
def capSlot : Slot := { cap := mkCap 7 3 0x7F false false 0xFFF 0, tmpl := false, inst := true }
def onCap (r : BitVec 32) (s : State) : State :=
  ({ s with doms := s.doms.set 0 (regDom r) } : State).modCtx fun c => { c with table := [(1, some capSlot)] }
/-- SRC 1, DST 2, all rights but XP, LIMIT 99. -/
def reqA : Word := 0x3F0201

theorem witness_CapabilityForms :
    ([Instr.capshr { fr with d := 0 }, .capxfr { fr with d := 0 }].all fun i => let s := onCap 1 (with2 i reqA 99)
      meets i s (do let _ ← rS 1; let _ ← rS 2) && s.slot 1 == some capSlot && (s.slot 2).isNone &&
        (upTo 7).all (fun k => !reqA.getLsbD (16 + k) || (capRights capSlot.cap).getLsbD k) && ((s.dom s.domOf).regOf 7).isSome) = true ∧
    ([1, 2].all fun r => let i : Instr := .capdrop { f0 with x := 1 }; let s := onCap r (at_ i)
      ready i s && s.slot 1 == some capSlot && ((s.dom s.domOf).regOf 7).any fun e => e.live && e.refcnt == r) = true ∧
    (let i : Instr := .capnar { fr with d := 0, x := 1 }
     meets i (onCap 1 (with2 i 0x7F 0xFFF)) (do let _ ← rS 1; let _ ← rS 2)) = true ∧
    ([0, 1].all fun k => let i : Instr := .caprd { f0 with d := 3, f := k, x := 1 }; meets i (onCap 1 (at_ i)) (wS 3 0) && meets i (at_ i) (wS 3 0)) = true := by
  decide +kernel
/-- An export, and imports of a token of another package and of this one. -/
theorem witness_ExportImport :
    (let i : Instr := .capexp { f0 with d := 4, x := 1 }; ready i (onCap 1 (at_ i)) && (onCap 1 (at_ i)).slot 1 == some capSlot) = true ∧
    ([0, 0x0010000000000000].all fun w => let i : Instr := .capimp { f0 with a := 4, x := 2 }; let s := atC i fun c => { c with s := c.s.set 5 w }
      ready i s && (s.slot 2).isNone && ((w.toNat / 2 ^ 52 == s.pkg.pkgno.toNat) == (w == 0))) = true := by decide +kernel

/-- Every number, at both ends of its range on a core with 32 banks. -/
theorem witness_ControlRegisters :
    ([0, 1, 2, 3, 4, 5, 6, 7, 8, 9, 10, 0x100, 0x11F, 0x140, 0x15F, 0x160, 0x17F].all fun x =>
      meets (.crr { f0 with d := 3, x := x }) (at_ (.crr { f0 with d := 3, x := x })) (wS 3 0) &&
      meets (.crw { f0 with a := 1, x := x }) (with2 (.crw { f0 with a := 1, x := x }) 0xFFFFFFFFFFFFFFFF 0) (do let _ ← rS 1)) = true ∧
    State.reset.ctx.cpy.pending = [] := by decide +kernel
theorem witness_RegisterWriteOperations : (0 < banksOf State.reset.cls && State.reset.ctx.cpy.pending.isEmpty) = true := by decide +kernel

/-- A ring of one slot of 64 bytes within the kernel's range, and one beyond it. -/
theorem witness_DescriptorWrites :
    let s := State.reset.modCtx (spmCtx 0 0)
    let v : Word := 0x1000000000
    let w : Word := 0x1000100000
    (v.getLsbD 36 && !(s.core.cbd.get 0).en && !s.ringBad v && w.getLsbD 36 && s.ringBad w && v.toNat % 64 == 0 && w.toNat % 64 == 0) = true := by
  decide +kernel
/-- Two lendable ranges: both named, and one too many; one lent and held taken back; the end of a zeroing. -/
theorem witness_LendingForms :
    let g := fun (c : Ctx) => { put2 3 0 c with bnd := { c.bnd with crit := true, lend := [⟨0, 64⟩, ⟨64, 64⟩] } }
    let i : Instr := .lend { f0 with a := 1 }
    let j : Instr := .reclaim { f0 with a := 1 }
    meets i (atC i g) (do let _ ← rS 1) = true ∧ meets i (atC i fun c => put2 4 0 (g c)) (do let _ ← rS 1) = true ∧
    ready i (atC i fun c => put2 0 0 { c with bnd := { c.bnd with crit := false } }) = true ∧
    meets j (atC j g) (do let _ ← rS 1) = true ∧
    (let s := (atC i g).setPart { lent := 2, scrub := 2 }; s.part.scrub.getLsbD 1 && s.lendRanges[1]? == some ⟨64, 64⟩) = true := by decide +kernel

/-! ## Witnesses: engines -/

/-- A context with every tile and the first 2^20 bytes of scratchpad declared. -/
def engCtx (a b : Word) (c : Ctx) : Ctx := { spmCtx a b c with bnd := { (spmCtx a b c).bnd with tcount := 32 } }
noncomputable def atE (i : Instr) (g : Ctx → Ctx) : State :=
  let s := atC i fun c => g (engCtx 0 0 c)
  { s with doms := s.doms.set 0 { domReset 0 with steps := [0] } }
/-- The scratchpad of the context is zeroed in full, nothing is lent. -/
def spansOk (sp : List Span) (s : State) : Bool := okAt (checkSpans sp) s

def ticketOps : List Instr :=
  [.mwait { fr with b := 0 }, .mstat { fr with b := 0 }, .cpywait { fe with b := 0 }, .cpystat { fr with b := 0 }]
/-- Ticket 0, an unfinished one, the next one, one too old. -/
theorem witness_TicketForms : (ticketOps.all fun i => [0, 70, 71, 5].all fun t =>
    let s := atC i fun c => put2 t 0 { c with mat := { last := 70, pending := [70] }, cpy := { last := 70, pending := [70] } }
    (ticketForm i).isSome && meets i s (do let _ ← rS 1; wS 3 0)) = true ∧
    ([Instr.csrwait { fr with b := 0 }, .csrstat { fr with b := 0 }, .xfwait { fe with b := 0 }, .xfstat { fe with b := 0 }, .colwait { fe with b := 0 }, .colstat { fe with b := 0 }].all fun i =>
      (ticketForm i).isSome && meets i (at_ i) (do let _ ← rS 1; wS 3 0)) = true := by decide +kernel

theorem witness_NestTable :
    ([0, 31].all fun x => meets (.mnset { f0 with a := 1, x := x }) (at_ (.mnset { f0 with a := 1, x := x })) (do let _ ← rS 1) &&
      meets (.mnget { f0 with d := 3, x := x }) (at_ (.mnget { f0 with d := 3, x := x })) (wS 3 0)) = true ∧
    meets (.mbase { f0 with a := 1 }) (with2 (.mbase { f0 with a := 1 }) 0xFFFFFFFFFFFFFFFF 0) (do let _ ← rS 1) = true ∧
    ready (.mring { f0 with x := 0x3E0 }) (atE (.mring { f0 with x := 0x3E0 }) id) = true ∧
    ready (.mring { f0 with x := 0x3E0 }) (at_ (.mring { f0 with x := 0x3E0 })) = true ∧
    ([0, 2].all fun x => let i : Instr := .mshadow { f0 with d := 3, x := x }; meets i (at_ i) (wS 3 0) && ((at_ i).core.matq ++ (at_ i).core.gathq).isEmpty) = true := by
  decide +kernel

/-- A nest of one level of one step at offset 0, and the empty table that R308 turns away. -/
def tbl1 : Vector Word 32 := (((Vector.replicate 32 0).set 0 (BitVec.ofNat 64 (2 ^ 55))).set 1 (BitVec.ofNat 64 (2 ^ 24))).set 8 1
def igo : Instr := .mgo { fe with a := 0, b := 0, swe := 1, sse := 1 }
theorem witness_ProductPosts :
    ([tbl1, Vector.replicate 32 0].all fun tb =>
      let s := atE igo fun c => { c with nest := tb }
      let fa := s.core.fmtOf s.cls 0
      meets igo s (wS 3 1) && okAt (checkSpans (nestSpans (nestHdr tb) (nestLvls tb) 0 0 ((vget tb 0).getLsbD 54) fa fa)) (bg igo s) &&
        okAt (checkTiles 0 1) (bg igo s) && !s.ctx.bnd.strict && nestBad tb == (tb != tbl1) && (tb != tbl1 || (nx igo s).core.matq.length == 1)) = true ∧
    ([Instr.mmt { fr with c := 4 }, .mmts { fr with a := 0, c := 4, x := 0xC }].all fun i =>
      let s := atE i fun c => { c with nest := tbl1 }
      let fa := s.core.fmtOf s.cls 0
      meets i s (do let _ ← rS 2; let _ ← rS 4; wS 3 1) && okAt (checkSpans (nestSpans (nestHdr s.ctx.nest) [] 0 0 false fa fa)) (bg i s) &&
        okAt (checkTiles 1 1) (bg i s)) = true := by decide +kernel

theorem witness_TilePosts :
    ready (.macz { fr with b := 0 }) (atE (.macz { fr with b := 0 }) id) = true ∧ ready (.macz { fr with b := 0 }) (at_ (.macz { fr with b := 0 })) = true ∧
    ([(Instr.macld { fr with c := 4 }, 512), (.macst { fr with c := 4, m := 7 }, 512), (.maccvt { fr with c := 4, f := 0x0C }, 4 * recBytes 0x0C)].all fun (p : Instr × Nat) =>
      [0, 4].all fun mode => let s := atE p.1 fun c => { c with fpctl := mode }
      meets p.1 s (do let _ ← rS 2; let _ ← rS 4; wS 3 1) && okAt (checkSpans [operandSpan (0, 0) 0 (tileRows s.cls - 1) p.2]) (bg p.1 s) && okAt (checkTiles 1 1) (bg p.1 s)) = true ∧
    ([0, 4].all fun mode => let i : Instr := .macadd { fr with m := 7 }; let s := atE i fun c => { c with fpctl := mode }
      meets i s (wS 3 1) && okAt (checkTiles 2 1) (bg i s)) = true ∧
    ([0, 65536, 65537].all fun n => let i : Instr := .mscl { fr with c := 4 }; let s := atE i fun c => { c with s := c.s.set 4 n }
      meets i s (do let _ ← rS 1; let _ ← rS 2; let _ ← rS 4; wS 3 1) && okAt (checkSpans [operandSpan (0, 0) 0 0 (4 * n.toNat)]) (bg i s)) = true := by
  decide +kernel

theorem witness_SparseRegisters :
    ([0, 5].all fun x => meets (.csrset { f0 with a := 1, x := x }) (at_ (.csrset { f0 with a := 1, x := x })) (do let _ ← rS 1)) = true ∧
    ([[], [1]].all fun p => [Instr.csrcnt { f0 with d := 3, x := 3 }, .csrrst { f0 with x := 1 }].all fun i =>
      let s := atC i fun c => { c with spa := { last := 1, pending := p } }; meets i s (wS 3 0) && s.ctx.spa.pending == p) = true := by decide +kernel

/-- Descriptor words as reset leaves them, with a step for csrgo, and with a reserved bit. -/
theorem witness_SparsePosts : ([0, 0x40000000000000, 0x8000000000000000].all fun w5 =>
    [Instr.csrgath { fr with b := 0, c := 4 }, .csrmm { fr with c := 4 }, .csrgo { fe with a := 0, b := 0 }].all fun i =>
      let s := atE i fun c => { c with csr := c.csr.set 5 w5 }
      meets i s (do let _ ← rS 1; let _ ← rS 2; let _ ← rS 4; wS 3 1) && spansOk [operandSpan (0, 0) 0 127 (blkK 0 * 16)] (bg i s) && okAt (checkTiles 1 1) (bg i s)) = true := by
  decide +kernel

/-- A copy of 64 bytes in the scratchpad, of none, with a full queue. -/
theorem witness_CopyPost :
    let i : Instr := .cpy { fe with a := 8, b := 0, swe := 1, sse := 1 }
    ([0, 64].all fun n =>
      let s := atE i fun c => { c with s := ((c.s.set 8 0).set 9 0x1000).set 10 (0x100000000 + n) }
      meets i s (do let _ ← rGroup 8 4; wS 3 1) && okAt (footprint engRD 0 64) (bg i s) && okAt (footprint engWR 0x1000 64) (bg i s) &&
        s.core.copyq.isEmpty && (nx i s).ctx.cpy.last == 1 && (nx i s).core.copyq.length == (if n = 0 then 0 else 1)) = true := by decide +kernel

/-- A sound record of a transform and of a collective (words in the carve), and an unsound one. -/
theorem witness_StreamPosts :
    ([(0x1000000000000000, 0x2000C1), (0, 0)].all fun (p : Word × Word) => [Instr.xfpost { fe with a := 8, b := 0, q := 3 }, .colpost { fe with a := 8, b := 0 }].all fun i =>
      let s := atE i fun c => { c with s := (((c.s.set 8 p.1).set 9 p.1).set 10 1).set 11 p.1 }
      meets i s (do let _ ← rGroup 8 6; wS 3 1) && okAt (footprint engRD p.1 8) (bg i s) && okAt (footprint engWR p.1 8) (bg i s)) = true ∧
    ([0, 1].all fun x => let i : Instr := .badrd { fr with b := 0, x := x }; meets i (at_ i) (do let _ ← rS 1; wS 3 0)) = true := by decide +kernel

/-- Every fence that the core has queues for, and one on a queue that it lacks. -/
theorem witness_FencePost : ([1, 0x10].all fun a => let i : Instr := .qfence { fe with d := 0, b := 0 }
    meets i (with2 i a 0) (do let _ ← rS 1)) = true := by decide +kernel

/-- An entry of the context in focus. -/
def entOf (s : State) (b : EngBody) : EngEnt := newEntry 1 s.ctx.id 1 none none b
/-- Heads of the queues: an empty queue, one that waits on a semaphore at 0, one that begins. -/
theorem witness_QueueHeads :
    let s := State.reset
    let e := entOf s (.macz 1)
    let t : State := { s with core := { s.core with matq := [e] } }
    let u : State := { s with core := { s.core with matq := [{ e with sw := some 5 }] } }
    ((nx .tileEntry s).core.matq.isEmpty && (t.equeue .mat).head? == some e && tileEngine.mine e.body && (t.focus e.own).ctx.id == e.own &&
      (u.core.sem.get 5 == 0) && (nx .tileEntry t).core.matq.isEmpty && (nx .tileEntry u).core.matq.length == 1) = true := by decide +kernel
/-- An entry that ends normally, one whose signal finds its semaphore full. -/
theorem witness_EntryEnds : ([0, 0xFFFF].all fun n =>
    let e := { entOf State.reset (.macz 1) with ss := some 5 }
    let s : State := { State.reset with core := { State.reset.core with matq := [e], sem := State.reset.core.sem.set 5 n } }
    (s.equeue .mat).head? == some e && e.body.family == some .mat && s.peers.isEmpty && e.pois.isNone &&
      (s.endEntry .mat e 0 [] 0).core.matq.length == (if n = 0 then 0 else 1)) = true := by decide +kernel
theorem witness_MatrixSteps :
    stepIdx [2, 3] 5 = [1, 2] ∧ tileRows State.reset.cls = 128 ∧
    (match tileRun (entOf State.reset (.macst 1 0 512 0 0 false)) State.reset with | .done _ c _ _ => c == 0 | _ => false) = true ∧
    (match scaleRun (entOf State.reset (.scale 0 0 4 true)) State.reset with | .done _ c _ _ => c == 0 | _ => false) = true := by decide +kernel
/-- A piece from one place of the scratchpad to another. -/
theorem witness_CopyPieces :
    let s := State.reset.modCtx (engCtx 0 0)
    ((s.checkStatic engRD (scalarReq 0 64)).isNone && (s.checkStatic engWR (scalarReq 64 64)).isNone && s.part.scrub == 0 &&
      ((s.direct (scalarReq 0 64)).all fun p => !s.poisoned p && !(s.direct (scalarReq 64 64)).contains p)) = true := by decide +kernel
/-- Tokens at both ends of their ranges. -/
theorem witness_StreamOperations :
    decodeTokens 2 [0x7F, 1] [] = none ∧ (decodeTokens 2 [0x00, 9] []).isSome = true ∧ decodeTokens 2 [0x80, 0] [] = none ∧
    (decodeTokens 2 [0xFF, 0xFF] (List.replicate 1024 5)).isSome = true := by decide +kernel
/-- A fence behind an entry accepted before it, and alone. -/
theorem witness_FenceHolds :
    let e := { entOf State.reset (.fence 1 0) with num := 2 }
    let s : State := { State.reset with core := { State.reset.core with copyq := [entOf State.reset (.macz 1)] } }
    ((match fenceRun e s with | .more _ _ => true | _ => false) && match fenceRun e State.reset with | .done _ _ _ _ => true | _ => false) = true := by
  decide +kernel
/-- An abort that finds an entry of its tag. -/
theorem witness_CollectiveAborts :
    let e := entOf State.reset (.coll ((Vector.replicate 6 0).set 4 7))
    let s : State := { State.reset with core := { State.reset.core with colq := [e] } }
    (e.pois.isNone && e.own == s.ctx.id && s.cores.all (fun c => c.colq.isEmpty) && (nx (.collectiveAbortReceived 7) s).core.colq.isEmpty) = true := by
  decide +kernel

/-! ## Witnesses: units around a context -/

/-- The memory of socket 8 from which the page tables stand. -/
def pt0 : Nat := 8 * 2 ^ 46
/-- Tables that map the first 512 MiB of a domain to the same range of socket 8, one page of host order. -/
def tables : Memory := Memory.setN (Memory.setN [] pt0 (leBytes 8 (pt0 + 0x2000 + 1))) (pt0 + 0x2000) (leBytes 8 (pt0 + 2 ^ 29 + 15))
/-- Queue 0 of 16 packets and 16 records, with n records in the exception queue. -/
def q16 (n : BitVec 32) : SubQ :=
  { num := 0, n := 4, m := 4, pkt := 0, stat := 0x400, exq := 0x600, ctl := 0xA00, tickets := 1, sqtail := 1, eqtail := n }
/-- Domain 0 enabled, with a host window of 64 KiB, those tables, one interrupt vector, and queue 0. -/
def domOn (n : BitVec 32) : Dom :=
  { domReset 0 with cfg := ((((domReset 0).cfg.set 0 0x410).set 1 (BitVec.ofNat 64 pt0)).set 5 0x0001000000000001), host := (Vector.replicate 4 0).set 1 0x10000
                    steps := [0], queues := [q16 n] }
/-- A state with that domain, its tables in memory, and a context whose kernel declares scratchpad. -/
def onDom (n : BitVec 32) (s : State) : State :=
  { s with doms := s.doms.set 0 (domOn n), mem := tables, pkg := { s.pkg with bootstat := 7 } }
/-- `Canon`, decided. -/
def canonB (s : State) : Bool :=
  let core := fun (c : Core) => Memory.wf c.spad && swf 0 c.tiles && swf false c.tpois && swf 0 c.scale
  let ctx := fun (c : Ctx) => swf none c.table && c.rgns.all fun r => swf none r.chk.table
  Memory.wf s.pkg.bar2 && Memory.wf s.mem && s.allCores.all core && Memory.wf s.llc && Memory.wf s.hostmem && swf none s.jcbs &&
  swf [] s.xfq && s.ctxs.all ctx && s.gangs.all fun g => g.cores.all core && g.ctxs.all ctx

theorem canon_of {s : State} (h : canonB s = true) : Canon s := by
  simp only [canonB, Bool.and_eq_true, List.all_eq_true] at h
  obtain ⟨⟨⟨⟨⟨⟨⟨⟨h9, h1⟩, h2⟩, h3⟩, h8⟩, h4⟩, h5⟩, h6⟩, h7⟩ := h
  exact { mem := h1, buffer := h9, cores := fun c hc => ⟨(h2 c hc).1.1.1, (h2 c hc).1.1.2, (h2 c hc).1.2, (h2 c hc).2⟩,
          carves := h3, hosts := h8, jcbs := h4, streams := h5, tables := h6,
          savedCores := fun g hg c hc => ⟨((h7 g hg).1 c hc).1.1.1, ((h7 g hg).1 c hc).1.1.2, ((h7 g hg).1 c hc).1.2, ((h7 g hg).1 c hc).2⟩,
          savedTables := fun g hg => (h7 g hg).2 }
theorem witness_canon : canonB (onDom 0 State.reset) = true := by decide +kernel

theorem witness_UnassignedOpcodes : (State.reset.sq.skip = false ∧ State.reset.parcel = none) := by decide

/-- Entry 5 of the dictionary: outside the kernel's range, a parcel, a wide W32, a `nop`, an instruction of 64 bits. -/
theorem witness_DictionaryParcels :
    let s := fun (n : Nat) (e : Word) => ({ State.reset with core := { State.reset.core with dict0 := sput 0 [] 5 e } } : State).modCtx fun c =>
      { c with bnd := { c.bnd with dfirst := 4, dcount := n } }
    ((s 1 0).dictEntry 5 = 0 ∧ (s 2 0x30).dictEntry 5 = 0x30 ∧ (s 2 0x100000000).dictEntry 5 = 0x100000000 ∧ (s 2 0x20).dictEntry 5 = 0x20) ∧
    (nx (.cx ⟨0, 5⟩) (s 1 0)).sq.run = .faulted ∧ (nx (.cx ⟨0, 5⟩) (s 2 0x30)).sq.run = .faulted := by decide +kernel

/-- One instruction for each check: an opcode that the core lacks, one that EX may not issue, a bit that must be 0, a refused value, a
specifier that names no register, a group that runs past its file. -/
theorem witness_CheckOrder :
    ([(SeqId.ld, Instr.mgo fe, 1, 0xFF), (.ex, .st fm, 6, 0xFF), (.ld, .lcset { fr with a := 1, b := 1, d := 0, f := 3 }, 2, 31), (.ld, .tokn { fr with d := 0, a := 0, b := 0, x := 0 }, 7, 52),
      (.ld, .ld { fm with a := 50 }, 3, 25), (.ld, .cpy { fe with a := 30, b := 0, swe := 1, sse := 1 }, 8, 25)].all
     fun (p : SeqId × Instr × Nat × Nat) => decodeTrap { State.reset with turn := p.1 } (shape p.2.1) (checks p.2.1) none ==
       some (illopOf State.reset (shape p.2.1) p.2.2.1 p.2.2.2)) = true := by decide +kernel

/-- With room for one record more. -/
theorem witness_TrapEntry :
    let s := onDom 15 State.reset
    s.findQ s.domOf (s.queueOf s.ctx) = some (q16 15) ∧ s.eqRoom s.domOf (q16 15) = true ∧ (q16 15).late = [] := by decide +kernel

/-- Queue 0 with room for one record, one ahead of the count that the device reads when it looks again. -/
noncomputable def fullQ (late : List (BitVec 512 × Raiser)) : SubQ :=
  let v := ((onDom 0 State.reset).readIdx 0 0xA00 0x14).1
  { q16 (v + 1) with m := 0, eqhead := v, late := late }
noncomputable def onFull (late : List (BitVec 512 × Raiser)) : State :=
  let t := onDom 0 State.reset
  { t with doms := t.doms.set 0 { domOn 0 with queues := [fullQ late] } }
/-- A queue without room, whatever the host answers. -/
theorem full_eqRoom (late : List (BitVec 512 × Raiser)) :
    (onFull late).findQ 0 0 = some (fullQ late) ∧ (onFull late).eqRoom 0 (fullQ late) = false := by
  refine ⟨rfl, ?_⟩
  have h : ((onFull late).readIdx 0 (fullQ late).ctl 0x14).1 = (fullQ late).eqhead := rfl
  have e : (fullQ late).eqtail = (fullQ late).eqhead + 1 := rfl
  have m : (fullQ late).m = 0 := rfl
  have g : ((fullQ late).eqtail - (fullQ late).eqhead).toNat = 1 := by rw [e, BitVec.add_comm, BitVec.add_sub_cancel]; rfl
  simp only [State.eqRoom, State.eqLook, h, m, g]
  rfl

theorem witness_TokenWaits :
    let i : Instr := .add { fw with tok := 0xF }
    let s := at_ i
    s.sq.skip = false ∧ decodeTrap s (shape i) (checks i) (dynBad s i) = none ∧ ∃ l ∈ waitLinks s.turn 0xF, s.ctx.tok.get l = 0 := by
  decide +kernel

theorem witness_InactiveSlots :
    ([Instr.add { fw with pred := 1 }, .ld { fm with pred := 1 }, .st { fm with pred := 1 }, .amo { fm with b := 2, pred := 1 }, .li { fi with a := 0, pred := 1 },
      .mgo { fe with a := 0, b := 0, swe := 1, sse := 1, pred := 1 }, .crw { f0 with a := 1, pred := 1 }, .br { fb with a := 0, pred := 1 },
      .halt ⟨0, 1, 0, 0, 0⟩, .cpy { fe with a := 8, b := 0, swe := 1, sse := 1, pred := 1 }].all fun i =>
      let s := at_ i
      issuesB i s && !slotAt i (bg i s) && s.sq.held.isEmpty && (signalLinks s.turn (shape i).tok).isEmpty && !s.sq.atB && !s.sq.atE) = true := by
  decide +kernel

/-- A link at 13 of 15: two more fit, three do not. -/
theorem witness_HeldSignals : ([2, 3].all fun n =>
    let s := State.reset.modCtx fun c => { c with tok := Vector.replicate 8 13, seqs := c.seqs.set .ex { c.seqs.ex with held := [(1, n)] } }
    (s.ctx.seqs.get .ex).held == [(1, n)] && ((nx (.resultComplete .ex) s).ctx.tok.get 1).toNat == (if n = 2 then 15 else 13)) = true := by decide +kernel

/-- The line present, its fill pending, absent with and without a mapping. -/
theorem witness_InstructionFetch :
    let p : Instr := .nop ⟨0, 0, 0, 0, 0⟩
    let a := at_ p
    let s := onDom 0 State.reset
    let f := { s with core := { s.core with fills := [{ dom := 0, line := 0, pa := BitVec.ofNat 52 (pt0 + 2 ^ 29) }] } }
    (match a.fetchWord with | .ok _ => true | _ => false) = true ∧ (match s.fetchWord with | .error _ => true | _ => false) = true ∧
    s.lineKnown 0 = false ∧ f.lineKnown 0 = true ∧ (match s.walkLine 0 with | .ok _ => true | _ => false) = true ∧
    (match State.reset.walkLine 0 with | .error _ => true | _ => false) = true ∧ (f.core.fills.find? fun x => x.line == 0).isSome = true ∧
    f.poisoned { sp := .phys, a := pt0 + 2 ^ 29 } = false ∧ (∀ c ∈ f.allCores, c.uol = []) := by decide +kernel

/-- A set with four lines and one with none. -/
theorem witness_CacheWays :
    let c : Core := { coreReset 1 0 with icache := (upTo 4).map fun k => ({ dom := 0, line := BitVec.ofNat 46 (k * 1024), data := 0 } : ILine) }
    (c.icache.filter fun y => lineSet y.line == lineSet 0).length = 4 ∧ (c.icache.map fun y => (y.dom, y.line)).Nodup := by decide +kernel

/-- A page-request queue of 2^4 entries with k requests posted and one held. -/
def pq (k : BitVec 32) (w : List (BitVec 52)) : PageQ := { num := 1, n := 4, ring := 0x1000, ctl := 0x1100, eqtail := k, waiting := w }
noncomputable def onPq (p : PageQ) : State :=
  let t := onDom 0 State.reset
  { t with doms := t.doms.set 0 { domOn 0 with pageq := some p } }
/-- A queue that is full by every count: the one it holds and the one that the device reads again. -/
noncomputable def pqFull : PageQ :=
  let v := ((onDom 0 State.reset).readIdx 0 0x1100 0x14).1
  { pq (v + 16) [7] with eqhead := v }
theorem witness_PageRequests : ([(15, [7]), (0, [7, 8]), (3, [])].all fun (p : BitVec 32 × List (BitVec 52)) =>
    let x := pq p.1 p.2
    canonB (onPq x) && ((onPq x).dom 0).pageq == some x && decide ((x.eqtail - x.eqhead).toNat < 2 ^ x.n) &&
      decide (x.ring.toNat + 16 * 2 ^ x.n ≤ x.ctl.toNat)) = true := by decide +kernel
theorem witness_PageRequests_full : ((onPq pqFull).dom 0).pageq = some pqFull ∧ pqFull.waiting ≠ [] ∧
    2 ^ pqFull.n ≤ (pqFull.eqtail - pqFull.eqhead).toNat ∧
    2 ^ pqFull.n ≤ (pqFull.eqtail - ((onPq pqFull).readIdx 0 pqFull.ctl 0x14).1).toNat := by
  have h : ((onPq pqFull).readIdx 0 pqFull.ctl 0x14).1 = pqFull.eqhead := rfl
  have e : pqFull.eqtail = pqFull.eqhead + 16 := rfl
  have n : pqFull.n = 4 := rfl
  rw [h, e, n, BitVec.add_comm, BitVec.add_sub_cancel]
  exact ⟨rfl, by decide, by decide, by decide⟩

/-- The context waits for a page that is mapped, and for one that is not; nobody waits. -/
theorem witness_WaitersWalk : ([some 0, some 0x20000000, none].all fun (v : Option (BitVec 52)) => [true, false].all fun o =>
    let s := (onDom 0 State.reset).modCtx fun c => { c with seqs := c.seqs.set .ex { c.seqs.ex with wait := match v with | some a => .page a | none => .none } }
    let w : Waiter := { dom := 0, va := v.getD 0, ctx := some (s.ctx.id, .ex) }
    let t := if o then { s with overflow := [w] } else { s with woken := [w] }
    let ok := match s.translate 0 w.va w (some (.ex, 0)) with | .ok _ => true | _ => false
    ok == (v != some 0x20000000) && ((nx (if o then .overflowRewalk else .waiterRewalk) t).ctx.seqs.ex.wait == .none) == (v != some 0x20000000)) = true := by
  decide +kernel

/-- One clock before the limit, at it, and with a sequencer that runs. -/
theorem witness_DeadlockFaults : ([(0xFFFFE, true), (0xFFFFF, true), (0xFFFFF, false)].all fun (p : BitVec 20 × Bool) =>
    let b : Seqr := { run := .running, wait := .tokPred }
    let s := State.reset.modCtx fun c => { c with cst := .run, dlk := p.1, seqs := { ld := b, ex := if p.2 then b else { b with wait := .none }, st := b, sc := { run := .halted none } } }
    ((nx .deadlockCounterExpiry s).ctx.cst == .faulted) == (p.1 == 0xFFFFF && p.2)) = true := by decide +kernel

/-- Before the deadline and at it. -/
theorem witness_WaitDeadlines : ([9, 10].all fun g =>
    let s : State := { State.reset.modCtx fun c => { c with seqs := c.seqs.set .ld { c.seqs.ld with run := .running, wait := .addr .spad 0 8 0 false (some 10) } } with gts := g }
    (s.ctx.seqs.get .ld).late s.gts == (nx (.waitwtDeadline .ld) s).ctx.seqs.ld.timed) = true := by decide +kernel

/-- A write of all the bytes of PEND under way. -/
theorem witness_PeerAnswers :
    let p : PeerOut := { own := State.reset.ctx.id, peer := 0, ptr := 0x3000000000000000, bytes := 64, engine := none }
    let t := onDom 0 State.reset
    let s := ({ t with peers := [p], ports := t.ports.set 3 { state := 2 }, pkg := { t.pkg with route := [(0, [3])] } } : State).modCtx fun c => { c with pend := 64 }
    State.reset.peers = [] ∧ s.gangs = [] ∧ s.reachable p.peer = true ∧ (∀ c ∈ s.others, c.id ≠ p.own) := by decide +kernel

/-- A request of 8 bytes for the buffer of `regDom`, exported with every right; the last byte within LIMIT and one beyond. -/
def reqP (op : BitVec 2) (off : BitVec 52) : PeerReq :=
  { pkg := 5, job := 8, dom := 0, name := 7, gen := 3, off := off, len := 8, op := op, data := [1, 2, 3, 4, 5, 6, 7, 8] }
def expDom (r : BitVec 32) : Dom :=
  { domOn 0 with reg := (regDom r).reg, exps := [{ key := 9, name := 7, gen := 3, rights := 0x7F, limit := 0xFFF, used := true }] }
def onExp (r : BitVec 32) : State := let s := onDom 0 State.reset; { s with doms := s.doms.set 0 (expDom r) }
theorem witness_OtherPackages :
    ([0, 1].all fun op => [0xFF8, 0xFF9].all fun off => let r := reqP op off
      ((onExp 1).peerEntry r).isSome == (off == 0xFF8) &&
      (match (onExp 1).mergeAll.peerWalk r (frames r.off.toNat 8) with | .ok (some ps) => ps.length == 8 && ps.all (·.sp == .phys) && decide ps.Nodup | _ => false)) = true ∧
    canonB (onExp 1) = true ∧ (onExp 1).memberOf 0 = none ∧
    (let t := onDom 0 State.reset
     let g : Graph := { id := 3, job := 8, queue := 0, code := 0, nodes := [], edges := [] }
     let s := { t with doms := t.doms.set 0 { domOn 0 with graphs := [g] } }
     s.memberOf 8 = some 0 ∧ (s.dom 0).waken = 1 ∧ canonB s = true ∧ (nx (.fabricWakeArrival 8 0 5) s).carveAt 0 0 1 == ((onDom 0 State.reset).carveAt 0 0 1)) ∧
    ([1, 2].all fun r => [CapAsk.share, .drop].all fun a => (nx (.capabilityRequestAtHome ⟨5, 0, 7, 3, a⟩) (onExp r)).dom 0 != (onExp r).dom 0) = true := by
  decide +kernel

/-- A record held, with room for one more and with none. -/
theorem witness_HeldRecords :
    let t := onDom 0 State.reset
    let x := { q16 15 with late := [(0, .ctx t.ctx.id .ld 1)] }
    let s := { t with doms := t.doms.set 0 { domOn 0 with queues := [x] } }
    s.findQ 0 0 = some x ∧ s.eqRoom 0 x = true := by decide +kernel
theorem witness_HeldRecords_full : ∃ (s : State) (x : SubQ), s.findQ 0 0 = some x ∧ x.late ≠ [] ∧ s.eqRoom 0 x = false :=
  let l : List (BitVec 512 × Raiser) := [(0, .packet 0 0)]
  ⟨onFull l, fullQ l, (full_eqRoom l).1, List.cons_ne_nil _ _, (full_eqRoom l).2⟩

/-- Region 9 with both its sequencers at its end, and with one that has not come; an owner. -/
theorem witness_HarvestCommits : ([(true, true), (true, false), (false, true)].all fun (p : Bool × Bool) =>
    let t := State.reset
    let s := { t with core := { t.core with parts := t.core.parts.set 0 { t.core.parts.get 0 with lease := .held } } }.modCtx fun c =>
      let c := openRgn c
      { c with id := { c.id with harv := p.1 }, seqs := { c.seqs with ld := atMark false true c.seqs.ld, ex := atMark false p.2 c.seqs.ex } }
    s.pushesFit && (nx (.harvestCommit 9) s).ctx.rgns.isEmpty == (p.1 && p.2)) = true := by decide +kernel

/-! ## Witnesses: scheduling, leases, domains, registers -/

/-- A bind record of the partition in focus: position, eligible as its context is, resident, PASS, policy. -/
def brec (pos : BitVec 2) (res : Bool) (pass : Nat) : BindRec :=
  { row := 128, pos := pos, fb := false, unm := false, crit := false, res := res, dom := 0, pol := 0, node := 0, job := 0, graph := 0, body := 0, code := 0, tickets := 4, pass := pass, elig := true }
def cid (pos : BitVec 2) : CtxId := { State.reset.ctx.id with pos := pos }
/-- Contexts 0 (in focus) and 1 of a partition, with their states and records. -/
def duo (c0 c1 : CtxState) (bs : List BindRec) : State :=
  { State.reset with ctx := { State.reset.ctx with cst := c0, was := .run }, others := [{ State.reset.ctx with id := cid 1, cst := c1, was := .run }], binds := bs }

/-- No record; a resident one; one that is not chosen; the chosen one, PARKED and not. -/
theorem witness_Restores :
    State.reset.bindOf (cid 0) = none ∧ ((duo .run .run [brec 0 true 0, brec 1 false 0]).residentOf 128).isSome = true ∧
    ([(CtxState.run, 0), (.parked, 0), (.run, 1)].all fun (p : CtxState × BitVec 2) => let s := duo p.1 .run [brec 0 false 0, brec 1 false 0]
      (s.bindOf (cid p.2)).isSome && (s.residentOf 128).isNone && ((s.choose 128).any fun x => x.pos == p.2) == (p.2 == 0) && (s.focus (cid p.2)).ctx.id == cid p.2) = true := by
  decide +kernel
theorem witness_GivesUpCore : (duo .run .run []).ctx.cst = .run ∧ (duo .run .run []).ctx.id.harv = false := by decide +kernel
/-- The resident context sleeps and another is eligible; it runs; none is resident. -/
theorem witness_PreEmptions :
    (State.reset.residentOf (rowOf State.reset.ctx.id.loc)).isNone = true ∧
    ([CtxState.sleep, .run].all fun c => let s := duo c .run [brec 0 true 0, brec 1 false 0]
      ((s.residentOf 128).any fun b => s.outranked b == (c == .sleep)) && rowOf s.ctx.id.loc == 128) = true := by decide +kernel
/-- After the charge of 2^18 the other record is chosen when its PASS is below, and not when it is above. -/
theorem witness_Quanta : ([0, 2 ^ 18, 2 ^ 18 - 1].all fun p =>
    let s := duo .run .run [brec 0 true 0, brec 1 false p]
    let t := s.modBind (cid 0) fun x => { x with pass := x.pass + 2 ^ 20 / x.tickets.toNat }
    (s.residentOf 128).isSome && ((t.choose 128).any fun x => x.pos == 0) == (p == 2 ^ 18)) = true := by decide +kernel
theorem witness_StrideChoice :
    let s := duo .run .run [brec 0 true 7, brec 1 false 7]
    (∀ b ∈ s.binds, b.pol ≠ 1) ∧ ((s.choose 128).any fun x => x.pos == 0) = true ∧ (s.choose 127).isNone = true := by decide +kernel
/-- At the deadline and before it. -/
theorem witness_DeadlineMisses :
    let l : Launch := { graph := 3, edge := 0, k := 1, deadline := 10, dljcb := 0x8005, queue := 0, tag := 1, upto := 1 }
    let g : Graph := { id := 3, job := 8, queue := 0, code := 0, nodes := [], edges := [], launches := [l] }
    State.reset.allLaunches[0]?.isNone = true ∧
    ([9, 10].all fun n =>
      let t := onDom 0 State.reset
      let j : Jcb := { expect := 1, count := 0, job := 8, dom := 0, done := false, donegts := 0, wake := 0, queue := 0 }
      let s := { t with doms := t.doms.set 0 { domOn 0 with graphs := [g], cfg := (domOn 0).cfg.set 0 0x430 }, gts := n, jcbs := [(5, some j)] }
      s.allLaunches[0]? == some (0, g, l) && s.missedNow 0 l == (n == 10) && (s.findQ 0 l.queue).any (s.eqRoom 0)) = true := by decide +kernel
/-- A critical owner that sleeps beside a harvest context of its own domain, in the four states of the lease; one that runs. -/
def leased (l : Lease) (o : CtxState) : State :=
  let s := duo o .run [brec 0 true 0]
  let c : Ctx := { s.ctx with bnd := { s.ctx.bnd with crit := true } }
  ({ s with ctx := c, others := [{ id := { cid 0 with harv := true }, cst := .run }] } : State).modPartAt (cid 0).loc fun p => { p with lease := l }
theorem witness_LeaseSteps :
    (State.reset.harvestOf (cid 0).loc).isNone = true ∧
    ([Lease.vacant, .parked, .held, .revoking].all fun l => [CtxState.sleep, .run].all fun o => let s := leased l o
      (s.partAt (cid 0).loc).lease == l && !(s.partAt (cid 0).loc).restart && (s.harvestOf (cid 0).loc).any fun h => s.mayHold (cid 0).loc h == (o == .sleep)) = true := by
  decide +kernel

/-- A code object with one harvest kernel of class 3 at offset 0x40: one region of LD, LD at 0x88, 0x90 bytes. -/
def objB : List Byte := leBytes 64 (1 + 2 ^ 16 + 0xD0 * 2 ^ 32)
def hdrB (harv : Nat) : List Byte :=
  leBytes 128 (1 + 3 * 2 ^ 16 + harv * 2 ^ 20 + 0x88 * 2 ^ 128 + 0x80 * 2 ^ 512 + 2 ^ 544 + 0x90 * 2 ^ 704)
def imageB (harv : Nat) : List Byte := objB ++ hdrB harv ++ leBytes 8 (9 + 2 ^ 12)
/-- A node record: node 2, class 3, its kernel at offset 0x40. -/
def nodeW (x : Nat) : BitVec 512 := BitVec.ofNat 512 (2 + 3 * 2 ^ 32 + 0x40 * 2 ^ 128 + x)
def graphN : Graph := { id := 3, job := 8, queue := 0, code := 0, nodes := [nodeW 0], edges := [] }
/-- The image at the address 0 of domain 0, and a critical owner bound beside the bank. -/
def placing : State :=
  let s := onDom 0 (duo .sleep .run [{ brec 0 true 0 with crit := true }])
  { s with mem := Memory.setN s.mem (pt0 + 2 ^ 29) (imageB 1), doms := s.doms.set 0 { domOn 0 with graphs := [graphN] } }
theorem witness_Placements :
    let m := placing.mergeAll
    placing.pkg.cmperr = false ∧ placing.gangs = [] ∧ (placing.dom 0).graphs = [graphN] ∧ (∀ c, c ≠ 0 → (placing.dom c).graphs = []) ∧
    (graphN.nodes.find? fun n => (n.extractLsb' 0 16 : BitVec 16) == 2) = some (nodeW 0) ∧ m.ctxRoom 0 graphN (nodeW 0) = true ∧
    (match m.readKern 0 0 0x40 with
     | .ok k => k.harv && (k.fails 0x40 3).isEmpty && k.caps.isEmpty && m.bankFits 0 (nodeW 0) (k.bind 0 3 8 0 0x40 (nodeW 0)) (cid 0).loc
     | _ => false) = true ∧ (placing.coreAt 1 0).isSome = true := by decide +kernel

/-- A domain whose words can stand, and one without an interrupt vector. -/
theorem witness_DomainEnable : ([1, 0].all fun nvec =>
    let t := onDom 0 State.reset
    let x := { domOn 0 with cfg := ((domOn 0).cfg.set 0 0x400).set 5 (BitVec.ofNat 64 (nvec * 2 ^ 48)), q0 := ((((Vector.replicate 8 0).set 0 0x10000).set 1 0).set 2 0x400).set 3 0x600 |>.set 4 0xA00 }
    let s := { t with doms := t.doms.set 0 x }
    let w := s.writeWord0 0 0x410
    !(s.dom 0).en && (w.mergeAll.overlaps 0 (w.mergeAll.coreMasks (w.dom 0)) (w.mergeAll.carveList (w.dom 0)) || (w.dom 0).nvec == 0 || w.mergeAll.sharesBad 0 (w.dom 0) ||
      w.mergeAll.q0Bad 0 (w.dom 0)) == (nvec == 0) && (onDom 0 s |>.dom 0).en) = true := by decide +kernel
/-- Busy and not, enabled and not. -/
theorem witness_DomainResets : ([0x410, 0x510, 0x400, 0x500].all fun w =>
    let s := { State.reset with doms := State.reset.doms.set 0 { domReset 0 with cfg := (domReset 0).cfg.set 0 w } }
    (s.dom 0).rbusy == w.getLsbD 8 && (s.dom 0).en == w.getLsbD 4) = true := by decide +kernel
/-- The first and the last word of each block, and the offsets beside them. -/
theorem witness_RegisterWrites :
    ([0x1008, 0x13F8, 0x2000, 0x21F8, 0x3000, 0x33F8].all fun (o : Nat) => (nx (.registerWrite (BitVec.ofNat 24 o) 1) State.reset).ctx == State.reset.ctx) = true ∧
    (State.reset.dom 15).en = false ∧ ((onDom 0 State.reset).dom 0).en = true ∧ 0x1000 + 64 * 15 + 8 * 7 = 0x13F8 ∧ 0x2000 + 32 * 15 + 8 * 3 = 0x21F8 := by
  decide +kernel
/-- The last byte of the mapped page, with its place; the last byte of the address space and one beyond. -/
theorem witness_HostAperture :
    let s := onDom 0 State.reset
    (s.dom 0).en = true ∧ (State.reset.dom 0).en = false ∧ (s.mergeAll.aperturePlaces 0 (frames (2 ^ 29 - 1) 1)).any (fun ps => ps.length == 1 && decide ps.Nodup) = true ∧ canonB s = true ∧
    (let t := { s with doms := s.doms.set 0 { domOn 0 with host := (domOn 0).host.set 2 0xFFFFFFFFFF000 } }
     ((t.dom 0).host.get 2).toNat % 2 ^ 52 + 0xFFF + 1 = 2 ^ 52) := by decide +kernel

/-! ## Witnesses: packets -/

/-- The packet with these bits. -/
def pk (n : Nat) : Pkt := { dom := 0, queue := 0, bits := BitVec.ofNat 512 n }
/-- It stands at SQHEAD of queue 0, in a state whose domain 0 is changed by f. -/
def onPkt (n : Nat) (f : Dom → Dom) (s : State) : State :=
  let t := onDom 0 s
  { t with doms := t.doms.set 0 (f (domOn 0)), hostmem := Memory.setN [] 0 (leBytes 64 n) }
/-- `Taken` by queue 0, with a packet whose reserved bits are 0 in a canonical state. -/
def takenB (n : Nat) (zero : List (Nat × Nat)) (s : State) : Bool :=
  s.running && s.nextQueue 0 (workerOf 0) == (s.dom 0).queues[0]? && (s.dom 0).queues[0]?.any (fun x => x.num == 0 && s.headPkt 0 x == BitVec.ofNat 512 n) &&
  n / 2 ^ 10 % 2 ^ 22 == 0 && zero.all (fun z => n / 2 ^ z.1 % 2 ^ z.2 == 0) && canonB s
/-- A packet by itself: taken, and with the reserved bits of a row 0. -/
def alone (n : Nat) (zero : List (Nat × Nat)) : Bool := takenB n zero (onPkt n id State.reset)

/-- An unknown opcode, one of another row, a reserved bit. -/
theorem witness_PacketsTaken :
    alone 0 [] = true ∧ alone 0x0F [] = true ∧ alone 1 [] = true ∧ (onPkt 1025 id State.reset).nextQueue 0 (workerOf 0) = some (q16 0) ∧ (State.reset.nextQueue 0 (workerOf 0)).isNone = true := by
  decide +kernel
/-- A packet with a status entry and one that asks for none. -/
theorem witness_PacketsComplete : ([0x0000000700000003, 0x0000000700000203].all fun n =>
    let s := onPkt n id State.reset
    s.findQ 0 0 == some (q16 0) && canonB s && s.stRoom 0 (q16 0) && (q16 0).stwait.isEmpty && s.queueReadable 0 (q16 0)) = true := by
  decide +kernel
/-- SQTAIL as far ahead as the ring is long. -/
theorem witness_Doorbells :
    let t := onPkt 1 id State.reset
    let s := { t with hostmem := Memory.setN t.hostmem 0xA00 [16] }
    s.running = true ∧ s.findQ 0 0 = some (q16 0) ∧ (q16 0).held 0 = false ∧ ({ q16 0 with hold := some 5 } : SubQ).held 0 = true ∧ s.queueReadable 0 (q16 0) = true ∧ s.getIdx 0 0xA00 0 = 16 ∧
    (State.reset.findQ 0 0).isNone = true := by decide +kernel
/-- QNEW of queue 5 with 2^16 entries in each ring; of queue 0; on queue 3. -/
theorem witness_QueueCreation :
    let n := 0x0D + 5 * 2 ^ 64 + 12 * 2 ^ 72 + 12 * 2 ^ 76 + 0x1000 * 2 ^ 128 + 0x2000 * 2 ^ 192 + 0x3000 * 2 ^ 256 + 0x4000 * 2 ^ 320 + 2 ^ 384
    alone n [(71, 1), (80, 48), (400, 112)] = true ∧ alone (n - 5 * 2 ^ 64) [(71, 1), (80, 48), (400, 112)] = true ∧
    ((onPkt n id State.reset).findQ 0 5).isNone = true ∧ (pk n).bits.getLsbD 70 = false := by decide +kernel
/-- QEND of queue 5, with a packet taken and none. -/
theorem witness_QueueEnds : ([true, false].all fun b =>
    let n := 0x0E + 5 * 2 ^ 64
    let s := onPkt n (fun x => { x with queues := [q16 0, { q16 0 with num := 5, taken := b }] }) State.reset
    takenB n [(70, 442)] s && (s.findQ 0 5).any fun y => y.taken == b) = true := by decide +kernel

/-- A graph of one node of class 3 with one port and CTXMAX 1, and one edge of two slots that the host feeds. -/
def graphB (ring : Nat) : List Byte :=
  leBytes 64 (3 + 8 * 2 ^ 32 + 2 ^ 64 + 2 ^ 80 + 64 * 2 ^ 96 + 128 * 2 ^ 128) ++
  leBytes 64 (3 * 2 ^ 32 + 2 ^ 48 + 0x40 * 2 ^ 128 + 2 ^ 192 + (2 ^ 48 - 1) * 2 ^ 240 + (2 ^ 64 - 1) * 2 ^ 288) ++
  leBytes 32 (0xFFFF * 2 ^ 16 + 2 ^ 52 + ring * 2 ^ 64 + 2 ^ 124)
/-- GLOAD of it, with an owner image at the address 0 of a domain of one core. -/
def gl (ptr ring : Nat) : Nat × State :=
  let n := 1 + ptr * 2 ^ 64 + 160 * 2 ^ 192
  let s := onPkt n (fun x => { x with cores := x.cores.set 1 1 }) State.reset
  (n, { s with mem := Memory.setN (Memory.setN s.mem (pt0 + 2 ^ 29) (imageB 0)) (pt0 + 2 ^ 29 + 0x1000) (graphB ring) })
/-- A loaded graph; one whose ring is misaligned; one on cores that the domain lacks; bytes that are not there. -/
theorem witness_GraphLoads :
    ([(0x1000, 64), (0x1000, 1), (2 ^ 29, 64)].all fun (p : Nat × Nat) =>
      let n := (gl p.1 p.2).1
      let s := (gl p.1 p.2).2
      let m := (asked (pk n) (q16 0) s).mergeAll
      takenB n [(224, 288)] s &&
      match m.vaBytes 0 p.1 160 with
      | none => p.1 == 2 ^ 29
      | some bs => match m.parseGraph 0 0 0 bs with
        | none => p.2 == 1
        | some g => p == (0x1000, 64) && (match bindNodes 0 (q16 0) g g.nodes (m.modDom 0 fun y => { y with graphs := y.graphs ++ [g] }) with
          | .ok t => t.ctxs.any fun c => c.bnd.graph == 3
          | .error _ => false) && match bindNodes 0 (q16 0) g g.nodes (m.modDom 0 fun y => { y with graphs := y.graphs ++ [g], cores := Vector.replicate 64 0 }) with
          | .ok _ => false
          | .error _ => true) = true := by decide +kernel
theorem witness_GraphHeaders : ((gl 0x1000 64).2.parseGraph 0 0 0 (graphB 64)).isSome = true := by decide +kernel

/-- A graph with one edge of two slots, k of them full, fed by src, to a node that a context in focus carries. -/
def edgeG (k : Nat) (src : BitVec 16) : Graph :=
  { id := 3, job := 8, queue := 0, code := 0, nodes := [nodeW 0], edges := [{ num := 0, src := src, dst := 2, log2d := 1, ring := 64, slots := List.replicate k .published }] }
def onGraph (n k : Nat) (src : BitVec 16) (f : SubQ → SubQ) : State :=
  (onPkt n (fun x => { x with graphs := [edgeG k src], queues := [f (q16 0)] }) { State.reset with binds := [brec 0 true 0] }).modCtx fun c =>
    { c with cst := .run, bnd := { c.bnd with graph := 3, node := 2, job := 8 } }
theorem witness_GraphUnloads : ([2 + 3 * 2 ^ 64, 2 + 4 * 2 ^ 64].all fun n =>
    takenB n [(96, 416)] (onGraph n 0 0xFFFF id) && (((onGraph n 0 0xFFFF id).dom 0).graphs.any fun y => y.id == BitVec.ofNat 32 (n / 2 ^ 64)) == (n == 2 + 3 * 2 ^ 64)) = true := by
  decide +kernel
/-- LAUNCH of one record at 0x2000 of the window: a number of bits of its fields. -/
def ln (g e k ptr : Nat) : Nat := 3 + g * 2 ^ 64 + e * 2 ^ 96 + k * 2 ^ 112 + ptr * 2 ^ 128
/-- Sound, with room and without; no such graph, no such edge, an inner edge, a record too many, a record misaligned, one beyond the
window. -/
theorem witness_Launches : ([(ln 3 0 1 0x2000, 0, 0xFFFF), (ln 3 0 2 0x2000, 1, 0xFFFF), (ln 4 0 1 0x2000, 0, 0xFFFF), (ln 3 1 1 0x2000, 0, 0xFFFF), (ln 3 0 1 0x2000, 0, 2),
      (ln 3 0 3 0x2000, 0, 0xFFFF), (ln 3 0 1 0x2020, 0, 0xFFFF), (ln 3 0 1 0xFFC0, 0, 0xFFFF), (ln 3 0 1 0x10000, 0, 0xFFFF)].map fun (p : Nat × Nat × BitVec 16) =>
      let s := onGraph p.1 p.2.1 p.2.2 id
      let c := asked (pk p.1) (q16 0) s
      takenB p.1 [(268, 3), (272, 240)] s && ((c.launchBad 0 (BitVec.ofNat 512 p.1) false).isNone, c.launchRoom 0 (BitVec.ofNat 512 p.1)) ==
        (p.1 == ln 3 0 1 0x2000 && p.2.2 == 0xFFFF || p.1 == ln 3 0 2 0x2000 || p.1 == ln 3 0 1 0xFFC0, p.1 != ln 4 0 1 0x2000 && p.1 != ln 3 1 1 0x2000 && p.1 != ln 3 0 2 0x2000 && p.1 != ln 3 0 3 0x2000)) =
      List.replicate 9 true := by decide +kernel
theorem witness_WaitingLaunches : ([0, 2].all fun k =>
    let n := ln 3 0 1 0x2000
    let s := onGraph n k 0xFFFF fun x => { x with taken := true }
    s.running && (s.findQ 0 0).any (fun x => x.taken && s.headPkt 0 x == BitVec.ofNat 512 n) && s.launchRoom 0 (BitVec.ofNat 512 n) == (k == 0) &&
      (s.launchBad 0 (BitVec.ofNat 512 n) false).isNone) = true := by decide +kernel

/-- A block of domain 0. -/
def jcb0 : Jcb := { expect := 1, count := 0, job := 8, dom := 0, done := false, donegts := 0, wake := 0, queue := 0 }
/-- JCBNEW with block 0 live and block 1 free; expecting nothing; with every block live. JCBFREE of a live block and of none. -/
theorem witness_Blocks :
    ([4, 4 + 5 * 2 ^ 64].all fun n => let s := { onPkt n id State.reset with jcbs := [(0, some jcb0)] }
      takenB n [(112, 16), (224, 288)] s && (s.jcb 0).isSome && (s.jcb 1).isNone) = true ∧
    ([0, 1].all fun b => let n := 5 + b * 2 ^ 64; let s := { onPkt n id State.reset with jcbs := [(0, some jcb0)] }
      takenB n [(76, 436)] s && (s.jcb (BitVec.ofNat 12 b)).isSome == (b == 0)) = true := by decide +kernel
theorem full_get (f : Nat → Option Jcb) : ∀ n k, k < n → sget none ((List.range' 0 n).map fun i => (i, f i)) k = f k := by
  have h : ∀ n a k, a ≤ k → k < a + n → sget none ((List.range' a n).map fun i => (i, f i)) k = f k := by
    intro n
    induction n with
    | zero => intro a k _ _; omega
    | succ n ih =>
      intro a k h1 h2
      simp only [List.range'_succ, List.map_cons, sget]
      by_cases h : a = k
      · simp [h]
      · simp only [h, if_false]; exact ih (a + 1) k (by omega) (by omega)
  exact fun n k hk => h n 0 k (by omega) (by omega)
theorem witness_Blocks_full :
    let s := { onPkt 4 id State.reset with jcbs := (List.range' 0 4096).map fun i => (i, some jcb0) }
    s.running = true ∧ s.nextQueue 0 (workerOf 0) = some (q16 0) ∧ s.headPkt 0 (q16 0) = (pk 4).bits ∧ ∀ b < 4096, s.jcb (BitVec.ofNat 12 b) ≠ none := by
  refine ⟨by decide +kernel, by decide +kernel, by decide +kernel, fun b hb => ?_⟩
  show sget none ((List.range' 0 4096).map fun i => (i, some jcb0)) (BitVec.ofNat 12 b).toNat ≠ none
  rw [full_get (fun _ => some jcb0) 4096 _ (by omega)]
  simp

/-- BUFNEW in socket 8, with a LIMIT of 2^52 - 1 and one beyond, in a socket that holds no memory. -/
theorem witness_BufferCreation : ([(2 ^ 52 - 1, 8), (2 ^ 52, 8), (0xFFF, 1)].all fun (p : Nat × Nat) =>
    let n := 6 + p.1 * 2 ^ 64 + p.2 * 2 ^ 192
    let s := onPkt n id State.reset
    alone n [(198, 314)] && (s.present (BitVec.ofNat 6 p.2) && classOf (BitVec.ofNat 6 p.2) == 5) == (p.2 == 8) && ((s.dom 0).freeIndex (BitVec.ofNat 6 p.2)).isSome) = true := by
  decide +kernel
/-- BUFREL of buffer 7, to drop and to revoke, at its first and at its last generation. -/
theorem witness_BufferRelease : ([0, 1].all fun r => [3, 0xFFFF].all fun g =>
    let n := 7 + 7 * 2 ^ 64 + r * 2 ^ 96
    let e : RegEnt := { name := 7, gen := g, live := true, retired := false, refcnt := 1, limit := 0xFFF, vbase := 0, rtref := true }
    let s := onPkt n (fun x => { x with reg := [e] }) State.reset
    takenB n [(97, 415)] s && (s.dom 0).reg == [e]) = true := by decide +kernel
/-- EXPWD of an export that nobody has taken up, and of one that is used. -/
theorem witness_ExportWithdrawal : ([false, true].all fun u =>
    let n := 8 + 9 * 2 ^ 64
    let s := onPkt n (fun x => { x with reg := (regDom 1).reg, exps := [{ key := 9, name := 7, gen := 3, rights := 1, limit := 0xFFF, used := u }] }) State.reset
    takenB n [(128, 384)] s && (s.dom 0).exps.all fun e => e.used == u) = true := by decide +kernel
/-- PTESET of the first entry of a table, misaligned, and where no memory is. -/
theorem witness_EntryWrites : ([pt0, pt0 + 4, 0].all fun a =>
    let n := 9 + a * 2 ^ 64 + 5 * 2 ^ 128
    alone n [(192, 320)] && (a % 8 == 0 && (onPkt n id State.reset).physOk a 8) == (a == pt0) && (onPkt n id State.reset).allCores.all fun c => c.tlb.isEmpty && c.uol.isEmpty) = true := by
  decide +kernel
/-- CTRRD of the context in focus to the last 64 bytes of the window; beyond it. -/
theorem witness_CounterReads : ([0xFFC0, 0x10000].all fun a =>
    let n := 10 + 2 ^ 64 + a * 2 ^ 128
    let s := onPkt n id { State.reset with binds := [brec 0 true 0] }
    takenB n [(78, 50), (192, 320)] s && (s.dom 0).hwlen == 0x10000 && (s.residentOf (rowOf { sock := 1, core := 0, part := 0 })).any fun b => b.ctxId == s.ctx.id) = true := by
  decide +kernel
/-- An answer of each action to a fault of the context in focus; to a queue's record; to none. -/
theorem witness_Answers :
    ([0, 1, 2].all fun act => let n := 0x0B + 5 * 2 ^ 64 + act * 2 ^ 128
      alone n [(130, 382)] &&
      let s := (onPkt n id { State.reset with binds := [brec 0 true 0] }).modCtx fun c => { c with cst := .faulted, seqs := c.seqs.set .ex { c.seqs.ex with run := .faulted } }
      let t := { s with pending := [(5, .ctx s.ctx.id .ex 1)] }
      takenB n [(130, 382)] t && t.isBound t.ctx && t.resident t.ctx.id && (t.ctx.seqs.ld.run != .faulted) && (t.ctx.seqs.sc.run != .faulted) && t.ctx.bnd.dom == 0) = true ∧
    (let n := 0x0B + 5 * 2 ^ 64 + 2 * 2 ^ 128
     let s := onPkt n (fun x => { x with queues := [q16 0, { q16 0 with num := 5, sqtail := 0 }] }) State.reset
     takenB n [(130, 382)] { s with pending := [(5, .packet 0 5)] } && (s.findQ 0 5).isSome) = true := by decide +kernel

/-! ## Witnesses: the gang switch -/

/-- GANGSW with an action, of job 8, the proof area at 0, the group at 2^25, the spill buffer 7 of generation 3. -/
def gsw (action x : Nat) : Nat := 0x0C + action * 2 ^ 64 + 8 * 2 ^ 96 + 100 * 2 ^ 128 + 7 * 2 ^ 256 + 3 * 2 ^ 288 + 2 ^ 25 * 2 ^ 320 + x
def gz : List (Nat × Nat) := [(67, 29), (304, 16), (384, 128)]
/-- The carved ways of a carve whose steps are pair 0 and pair 64: the bytes of a proof area at offset 0, and the group of this package
and another at 2^25, which is where step 64 stands. -/
def gCarve (area : List Byte) : Memory := (((upTo area.length).zip area).filter fun e => e.2 != 0) ++ [(2 ^ 31, 2), (2 ^ 31 + 10, 1)]
/-- That packet in a domain with that carve and a spill buffer of the largest size, a context of the job bound, and these switches. -/
def onGang (n : Nat) (area : List Byte) (bound : Bool) (gs : List Gang) : State :=
  let s := onPkt n (fun x => { x with steps := [0, 64], reg := (regDom 1).reg.map fun e => { e with limit := 0xFFFFFFFFFFFFF } })
    { State.reset with binds := if bound then [brec 0 true 0] else [], gangs := gs, pkg := { State.reset.pkg with bootstat := 7 } }
  { s with llc := gCarve area }.modCtx fun c => { c with cst := .run, bnd := { c.bnd with job := 8 } }
/-- `TakenGang`, decided. -/
def takenG (n : Nat) (s : State) : Bool :=
  takenB n gz s && (n / 2 ^ 192 % 2 ^ 64) % 2 ^ 25 == 0 && decide (n / 2 ^ 192 % 2 ^ 64 + 2 ^ 25 ≤ (s.dom 0).carveLen) &&
  s.gangGroup 0 (n / 2 ^ 320 % 2 ^ 64) == some [0, 1]
/-- A switch of job 8 in a state. -/
def gang (g : GangState) : Gang := { job := 8, dom := 0, queue := 0, gst := g, cutoff := 100, proof := 0, spill := 7, members := [0, 1] }
/-- `Switch` of that one, decided. -/
def switchB (g : Gang) (s : State) : Bool := !s.pkg.cmperr && s.gangs.filter (fun h => h.job == 8) == [g]

/-- Each action, FORCE where it may not stand, ACTION 3, a misaligned proof area and one beyond the carve. -/
theorem witness_GangPacketChecks :
    ([0, 1, 2].all fun a => takenG (gsw a 0) (onGang (gsw a 0) [] true [])) = true ∧
    takenB (gsw 0 (2 ^ 66)) gz (onGang (gsw 0 (2 ^ 66)) [] true []) = true ∧ takenB (gsw 3 0) gz (onGang (gsw 3 0) [] true []) = true ∧
    takenB (gsw 0 (2 ^ 216)) gz (onGang (gsw 0 (2 ^ 216)) [] true []) = true ∧ takenB (gsw 0 (2 ^ 218)) gz (onGang (gsw 0 (2 ^ 218)) [] true []) = true ∧
    ((onGang 0 [] true []).dom 0).carveLen = 2 ^ 26 := by decide +kernel
/-- A job with a bound context and no switch; with a switch under way; without a context. -/
theorem witness_GangStarts :
    ([(true, []), (true, [gang .sweep]), (false, [])].all fun (p : Bool × List Gang) => [0, 2].all fun a => let s := onGang (gsw a 0) [] p.1 p.2
      takenG (gsw a 0) s && s.gangFree 0 8 == (p.1 && p.2.isEmpty) && s.gts.toNat < 100) = true := by decide +kernel
/-- The spill buffer of the largest size holds what an OUT needs, whatever that is. -/
theorem witness_GangStarts_spill : ∃ e, (onGang (gsw 0 0) [] true []).spillBuf 0 (BitVec.ofNat 512 (gsw 0 0)) ((onGang (gsw 0 0) [] true []).spillNeed 0 8) = some e := by
  have h : ((onGang (gsw 0 0) [] true []).dom 0).regOf (gsSpill (BitVec.ofNat 512 (gsw 0 0))) =
      some { name := 7, gen := 3, live := true, retired := false, refcnt := 1, limit := 0xFFFFFFFFFFFFF, vbase := 0, rtref := false } := by decide +kernel
  have h2 : gsGen (BitVec.ofNat 512 (gsw 0 0)) = 3 := by decide +kernel
  have h3 : (onGang (gsw 0 0) [] true []).spillNeed 0 8 ≤ 0xFFFFFFFFFFFFF + 1 := Nat.min_le_right _ _
  simp only [State.spillBuf, h, h2]
  exact ⟨_, if_pos (by simpa using h3)⟩

/-- A switch in each state, before and at the cutoff. -/
theorem witness_GangStops :
    ([GangState.armed, .sweep, .save, .out, .restore, .reinj, .barrier, .run].all fun g => [(99, false), (100, false), (50101, true)].all fun (p : Word × Bool) =>
      let s := { onGang 0 [] true [gang g] with gts := p.1 }
      switchB (gang g) s && (gang g).stops == (g != .armed && g != .run) && (gang g).overdue s.gts == (p.2 && g == .sweep) && !s.switchParked 0) = true ∧
    (∀ g ∈ State.reset.gangs, g.job ≠ 8) := by
  decide +kernel
theorem writePlaces_gangs (s : State) (ps : List Place) (bs : List Byte) : (s.writePlaces ps bs).gangs = s.gangs := by
  have h := (Laws.writePlaces_only s ps bs).1
  unfold Laws.OnlyStores at h
  have k := congrArg State.gangs h
  exact k
theorem setGang_find {s : State} {g y : Gang} (h : s.gangs = [y]) (hj : y.job = g.job ∧ y.dom = g.dom) :
    (s.setGang g).findGang g.dom g.job = some g := by
  simp [State.setGang, State.findGang, h, hj]
/-- A sweep that ends leaves the switch in place. -/
theorem sweepGang_find {s : State} {g y : Gang} (h : s.gangs = [y]) (hj : y.job = g.job ∧ y.dom = g.dom) :
    ∃ k, (s.sweepGang g).findGang g.dom g.job = some k := by
  refine ⟨_, setGang_find (y := y) ?_ hj⟩
  simp only [State.putHdr, State.writeCarve, writePlaces_gangs]
  exact h
theorem witness_GangStops_swept : ∃ h, ((onGang 0 [] true [gang .sweep]).sweepGang (gang .sweep)).findGang 0 8 = some h :=
  sweepGang_find (y := gang .sweep) (by decide +kernel) ⟨rfl, rfl⟩
/-- An owner context of the job resident on its core, and a harvest context of it that holds its lease. -/
def stopping : State :=
  let t := onGang 0 [] true [gang .armed]
  let k : Ctx := { State.reset.ctx with id := { t.ctx.id with harv := true }, cst := .run, was := .run, bnd := t.ctx.bnd }
  ({ t with gts := 100, others := [k], binds := [{ brec 0 true 0 with job := 8 }] } : State).modPartAt t.ctx.id.loc fun p => { p with lease := .held }
theorem witness_GangStops_stands :
    let g := gang .armed
    let s := stopping
    switchB g s = true ∧ (s.gangCtxs 0 8).length = 2 ∧ (s.gangCtxs 0 8).all (fun c => (s.ctxs.filter fun k => k.id == c.id) == [c]) = true ∧
    s.binds.all (fun b => b.job == 8) = true ∧ s.resident s.ctx.id = true ∧ (s.partAt s.ctx.id.loc).lease = .held ∧
    (let t := s.stopGang g
     (t.findGang 0 8).any (·.gst == .sweep) && !t.resident s.ctx.id && t.binds.all (fun b => !b.res && !t.eligible b) &&
       t.ctxs.all (fun c => c.cst != .run && c.cst != .sleep) && (t.partAt s.ctx.id.loc).lease != .held) = true := by decide +kernel
/-- A sweep past its bound, in a domain without queues; two domains that switch a job of one number. -/
theorem witness_GangStops_late :
    let g := gang .sweep
    let t := onGang 0 [] true [g]
    let s := { t with gts := 50101, doms := t.doms.set 0 { t.dom 0 with queues := [] } }
    let u := s.sweepLate g s.sweepAt.1.toNat s.sweepAt.2.toNat
    g.overdue s.gts = true ∧ u.findGang 0 8 = some { g with sweepto := true } ∧ ∃ k, (u.sweepGang { g with sweepto := true }).findGang 0 8 = some k :=
  ⟨by decide +kernel, by decide +kernel, sweepGang_find (y := { gang .sweep with sweepto := true }) (by decide +kernel) ⟨rfl, rfl⟩⟩
theorem witness_GangStops_two :
    let g := gang .armed
    let h := { g with dom := 1 }
    let s := { onGang 0 [] true [g, h] with gts := 100 }
    s.pkg.cmperr = false ∧ s.gangs.filter (fun h => h.job == 8) = [g, h] ∧ (s.stopGang g).findGang 1 8 = some h ∧
      h.cutoff.toNat ≤ (s.stopGang g).gts.toNat := by decide +kernel

/-- The proof area of a switch is one step of its carve. -/
def areaB (g : Gang) (s : State) : Bool := decide (g.proof % 2 ^ 25 = 0 ∧ g.proof + 2 ^ 25 ≤ (s.dom g.dom).carveLen)
/-- A sweep that has lasted 50,000 ns after the cutoff, and 1 ns more; the record of it made already. -/
theorem witness_SweepTimeouts : ([(50100, false), (50101, false), (50101, true)].all fun (p : Nat × Bool) =>
    let g := { gang .sweep with sweepto := p.2 }
    let s := { onGang 0 [] true [g] with gts := BitVec.ofNat 64 p.1 }
    switchB g s && canonB s && areaB g s && s.eqRoom 0 (q16 0) && (g.cutoff.toNat + 50000 < s.gts.toNat) == (p.1 == 50101)) = true := by
  decide +kernel
/-- A packet of job 8 of n flits. -/
def npk (n : BitVec 4) : NetPkt := { job := 8, src := 1, dst := 2, vc := 0, seq := 0, nflit := n, fab := true, port := 127, place := 0, peer := 1, flits := List.replicate (32 * n.toNat) 1 }
theorem witness_GangSweeps :
    let s := { onGang 0 [] true [gang .sweep] with net := [npk 1, { npk 1 with job := 9 }] }
    s.findGang 0 8 = some (gang .sweep) ∧ canonB s = true ∧ areaB (gang .sweep) s = true ∧
    (netRecs (·.fab) (s.net.filter (gang .sweep).owns ++ s.txPackets 0 8)).flatten.length ≤ 15 * 2 ^ 20 ∧ (s.net.filter (gang .sweep).owns).length = 1 := by decide +kernel
/-- A save without a spill buffer to fill; a spill buffer whose page is not there. -/
theorem witness_GangSaves :
    (let g := { gang .save with spill := 9 }
     let s := { stopping with gangs := [g] }
     s.findGang 0 8 = some g ∧ canonB s = true ∧ areaB g s = true ∧ ((s.dom 0).regOf 9).isNone = true ∧ (s.mergeAll.spillWalk 0 []).isOk = true ∧
       (s.gangCtxs 0 8).length = 2 ∧ (s.gangCtxs 0 8).all (fun c => s.allCores.any fun k => k.isAt c.id.loc.sock c.id.loc.core) = true ∧ s.binds.length = 1) ∧
    ((onGang 0 [] true [gang .save]).spillWalk 0 (frames (2 ^ 40) 1)).isOk = false := by decide +kernel
/-- One clock before LATECLOSE, and at it, in each state in which the job's packets are barred; a packet that is re-injected behind an
earlier one of its flow, and one of another flow; of a job without a switch; no packet. -/
theorem witness_LatePackets : ([9999, 10000].all fun t => [GangState.sweep, .save, .out, .restore].all fun k =>
    let g := { gang k with failed := true }
    let s := { onGang 0 [] true [g] with gts := t }
    let p := arrived s (npk 9)
    decide (p.flits.length = 32 * p.nflit.toNat) && s.findGang p.dom p.job == some g && g.bars && (s.gts.toNat < g.lateclose.toNat) == (t == 9999) &&
      decide ((netRecs (fun _ => true) g.lates).flatten.length + (netRec p true g.lates.length).length ≤ 2 ^ 24) && canonB s && areaB g s && p.ask == .nothing &&
      decide (s.jobHeld 0 8 + recLen p ≤ 15 * 2 ^ 20)) = true ∧
    ([GangState.restore, .reinj].all fun k => [(0 : BitVec 3), 1].all fun v =>
      let g := { gang k with swept := if k == .restore then [{ npk 1 with port := 3 }] else [] }
      let s := { onGang 0 [] true [g] with net := if k == .reinj then [{ npk 1 with port := 3 }] else [] }
      let p := arrived s { npk 1 with vc := v, port := 3 }
      g.rejoins && s.findGang p.dom p.job == some g && ((s.earlier g).any (sameFlow p)) == (v == 0)) = true ∧
    ((State.reset.findGang 0 8).isNone && ((npk 0).flits.length == 0)) = true := by decide +kernel
theorem witness_PacketRecords : (netRec (npk 0) true 5).length = 16 ∧ (netRec (npk 9) true 5).length = 304 := by decide +kernel
/-- A job that is out, and one that has no switch; an access and an answer of it. -/
theorem witness_AsksCaptured :
    ([GangState.sweep, .save, .out, .restore, .reinj].all fun k => (onGang 0 [] true [gang k]).switches 0 8) = true ∧
    State.reset.switches 0 8 = false ∧ (onGang 0 [] true [gang .armed]).switches 0 8 = false ∧ (onGang 0 [] true [gang .out]).jobDom 8 none = 0 ∧
    (onGang 0 [] true [gang .out]).jobDom 8 (some 0) = 0 := by decide +kernel
/-- A write that is out on its way. -/
def sentPeer : State :=
  { onGang 0 [] true [gang .out] with peers := [{ own := State.reset.ctx.id, peer := 5, ptr := 0, bytes := 8, engine := none, pkt := 4, job := 8, dom := 0 }] }
theorem witness_AsksCaptured_answers : ∃ o u, sentPeer.somePeer = some (o, u) ∧ u.switches o.dom o.job = true := by
  have h : sentPeer.somePeer = some ({ own := State.reset.ctx.id, peer := 5, ptr := 0, bytes := 8, engine := none, pkt := 4, job := 8, dom := 0 },
      sentPeer.freeNat.2) := by
    simp only [State.somePeer]
    rw [show (sentPeer.peers.filter fun p => !p.answered && !(sentPeer.ports.toList.any fun x => x.txq.any fun y => y.pkt == p.pkt)) =
      [{ own := State.reset.ctx.id, peer := 5, ptr := 0, bytes := 8, engine := none, pkt := 4, job := 8, dom := 0 }] by decide +kernel]
    simp [Nat.mod_one]
  exact ⟨_, _, h, by decide +kernel⟩

/-- The header of a finished OUT of a job without packets: version 1, PSTATE 2, the job, an empty spill; population bytes. -/
def area0 : List Byte := leBytes 0x100 (1 + 2 * 2 ^ 16 + 8 * 2 ^ 32) ++ State.reset.pkg.popBytes
/-- A switch that is out, with its late bin closed, and the owner context it saved. -/
def outGang (closed : Bool) : Gang := { gang .out with closed := closed, ctxs := [{ State.reset.ctx with cst := .parked, was := .run, bnd := { State.reset.ctx.bnd with job := 8 } }], binds := [{ brec 0 false 0 with job := 8 }] }
/-- The IN at the head of its queue, over that area with its PCRC. -/
def inState (closed : Bool) : State := onGang (gsw 1 0) (area0.take 0x40 ++ leBytes 4 0xCDCFAAE2 ++ area0.drop 0x44) false [outGang closed]
theorem witness_GangIn : ([true, false].all fun b => let s := inState b
    takenG (gsw 1 0) s && (s.spillBuf 0 (BitVec.ofNat 512 (gsw 1 0)) 0).isSome && (s.gangs.find? fun g => g.dom == 0 && g.job == 8 && (g.gst == .out || g.gst == .save)) == some (outGang b)) = true := by
  decide +kernel
theorem witness_GangRestores :
    let s := inState true
    let m := (asked (pk (gsw 1 0)) (q16 0) s).mergeAll
    s.hdr 0 0 0x38 8 = 0 ∧ s.hdr 0 0 0 2 = 1 ∧ s.hdr 0 0 2 1 = 2 ∧ m.hdr 0 0 3 1 = 0 ∧ s.pcrc 0 0 = s.hdr 0 0 0x40 4 ∧ s.gangCtxs 0 8 = [] ∧
    (crc32c []).toNat = m.hdr 0 0 0x44 4 ∧ m.carveBytes 0 0x100 256 = s.pkg.popBytes ∧ s.pending = [] ∧ (outGang true).failed = false ∧ s.lostCore (outGang true) = false ∧
    s.gangs = [outGang true] ∧ (∀ y ∈ s.binds, ¬(y.row = 128 ∧ y.pos = 0)) ∧ (brec 0 false 0).ctxId = State.reset.ctx.id ∧ (brec 0 false 0).row = 128 := by decide +kernel
/-- Before LATECLOSE, at it, and a switch that has not swept. -/
theorem witness_LateBins : ([(9999, GangState.out), (10000, .out), (10000, .save), (10000, .armed)].all fun (p : Word × GangState) =>
    let t := onGang 0 [] true [gang p.2]
    let s := { t with gts := p.1, doms := t.doms.set 0 { t.dom 0 with queues := [] } }
    switchB (gang p.2) s && ((gang p.2).lateclose.toNat ≤ s.gts.toNat) == (p.1 == 10000) && (s.dom 0).queues.isEmpty) = true := by decide +kernel
/-- READY that completes the group, one that does not, one that has come before; DRAINED that completes it and not; a group whose packets
are performed, with nothing left of them and with one that stands; of a member that has failed. -/
theorem witness_GangMessages : ([(GangState.restore, []), (.restore, [0]), (.restore, [1]), (.reinj, [0, 1])].all fun (p : GangState × List (BitVec 12)) =>
    let g := { gang p.1 with ready := p.2 }
    let s := onGang 0 [] true [g]
    switchB g s && (g.members.all (p.2 ++ [1]).contains) == (p.2 == [0] || p.1 == .reinj) && s.pkg.pkgno == 0) = true ∧
    ([(GangState.barrier, []), (.barrier, [0]), (.reinj, []), (.barrier, [1])].all fun (p : GangState × List (BitVec 12)) =>
    let g := { gang p.1 with drained := p.2 }
    let s := onGang 0 [] true [g]
    switchB g s && (g.members.all (p.2 ++ [1]).contains) == (p.2 == [0]) && (s.findQ 0 g.inq).any (fun x => !x.ending) && canonB s && areaB g s &&
      (p.2 != [0] || match exec (.drainedReceived 8 1) s with
        | .next u => u.hdr 0 g.proof 2 1 == 4 && !u.gangHolds 0 8 && (u.findQ 0 g.inq).any (fun y => y.sqhead == 1 && !y.taken)
        | _ => false)) = true ∧
    ([([], false), ([npk 1], false), ([{ npk 1 with job := 9 }], true)].all fun (p : List NetPkt × Bool) => [[], [(1 : BitVec 12)]].all fun ds =>
      let g := { gang .reinj with drained := ds, failed := p.2 }
      let s := { onGang 0 [] true [g] with net := p.1 }
      let t := State.performNet 0 8 (s.net.filter g.owns) { s with net := s.net.filter fun p => !g.owns p }
      switchB g s && !s.askParked 0 8 && !t.askParked 0 8 && t.net.all (fun p => !g.owns p) && t.txClear 0 8 && !t.sentOpen g &&
        (g.members.all (ds ++ [0]).contains) == (ds != [])) = true := by
  decide +kernel
/-- A page that an access of the job waits for, and one of another job. -/
theorem witness_GangMessages_parked : ([(8, true), (9, false)].all fun (p : BitVec 32 × Bool) =>
    let g := gang .reinj
    let w : Waiter := { dom := 0, va := 0, ctx := none, peer := some { pkg := 1, job := p.1, dom := 0, name := 0, gen := 0, off := 0, len := 1, op := 0, data := [] } }
    let s := { onGang 0 [] true [g] with woken := [w] }
    switchB g s && s.askParked 0 8 == p.2) = true := by decide +kernel
/-- Two flows, out of order, over the wrap of the numbers. -/
theorem witness_ReinjectionKeeps :
    let p := fun (q : BitVec 8) (v : BitVec 3) => { npk 1 with seq := q, vc := v }
    reinjOrder [npk 1] [npk 2] = [npk 1, npk 2] ∧
    reinjOrder [p 255 0, p 1 0, p 7 1, p 0 0] [p 2 0] = [p 255 0, p 0 0, p 1 0, p 7 1, p 2 0] := by decide +kernel
/-- A bound context with room in its queue; a graph of the job. -/
theorem witness_ContextFailures :
    State.reset.isBound State.reset.ctx = false ∧
    (let t := onDom 0 { State.reset with binds := [brec 0 true 0] }
     let s := { t with doms := t.doms.set 0 { domOn 0 with graphs := [graphN] } }
     s.isBound s.ctx && s.findQ s.ctx.bnd.dom (s.queueOf s.ctx) == some (q16 0) && (q16 0).late.isEmpty && s.eqRoom 0 (q16 0) && s.allCores.all (fun c => c.colq.isEmpty) && s.memberOf 8 == some 0 && (s.memberOf 9).isNone) = true := by
  decide +kernel

/-! ## Witnesses: links, boot, errors, the command port -/

theorem witness_HostLinks : (([0, 1].all fun l => State.reset.present (if l = (0 : BitVec 1) then 3 else 60)) = true) ∧
    ({ State.reset with pkg := { State.reset.pkg with health := State.reset.pkg.health.set 3 { failed := true } } } : State).present 3 = false := by
  decide +kernel
/-- A port in each state, of the first and the last FIO. -/
theorem witness_PortTraining : ([0, 127].all fun p => [0, 1, 2, 3].all fun st =>
    let s := { State.reset with ports := State.reset.ports.set (p : BitVec 7).toNat { state := st } p.isLt }
    s.portThere p && (s.ports.get p.toFin).state == st) = true := by decide +kernel
/-- A data flit, and an idle one that acknowledges FSEQ 9: FSEQ 0 and the CRC of R433. -/
def flitOf (kind ack crc : Nat) : BitVec 2048 := BitVec.ofNat 2048 (kind * 2 ^ 12 + ack * 2 ^ 16 + crc * 2 ^ 2016)
def onPort (n : Nat) : State := { State.reset with ports := State.reset.ports.set 5 { state := 2, unacked := (upTo n).map fun k => { bits := BitVec.ofNat 2048 (k + 9) } } }
/-- The CRC over a header and zeros, a quarter at a time. -/
theorem crc_quarters {h : List Byte} {a b c d : BitVec 32} (h1 : (h ++ List.replicate 59 0).foldl crcByte (BitVec.allOnes 32) = a)
    (h2 : (List.replicate 63 0).foldl crcByte a = b) (h3 : (List.replicate 63 0).foldl crcByte b = c)
    (h4 : (List.replicate 63 0).foldl crcByte c = d) : crc32c (h ++ List.replicate 248 0) = ~~~d := by
  rw [show List.replicate 248 (0 : Byte) = List.replicate 59 0 ++ (List.replicate 63 0 ++ (List.replicate 63 0 ++ List.replicate 63 0)) by decide +kernel]
  rw [← List.append_assoc]
  simp only [crc32c, List.foldl_append] at *
  rw [h1, h2, h3, h4]
theorem flit_crc : crc32c ((toBytes (flitOf 0 0 0x67E65321)).take 252) = 0x67E65321 ∧ crc32c ((toBytes (flitOf 1 9 0xF1708708)).take 252) = 0xF1708708 := by
  have h0 : (toBytes (flitOf 0 0 0x67E65321)).take 252 = leBytes 4 0 ++ List.replicate 248 0 := by decide +kernel
  have h1 : (toBytes (flitOf 1 9 0xF1708708)).take 252 = leBytes 4 0x91000 ++ List.replicate 248 0 := by decide +kernel
  rw [h0, h1]
  exact ⟨(crc_quarters (a := 0x6F9D1AAF) (b := 0x000B09B3) (c := 0x40F43B70) (d := 0x9819ACDE) (by decide +kernel) (by decide +kernel) (by decide +kernel) (by decide +kernel)).trans rfl,
    (crc_quarters (a := 0x32E30EC5) (b := 0x2EBF3041) (c := 0x074507DB) (d := 0x0E8F78F7) (by decide +kernel) (by decide +kernel) (by decide +kernel) (by decide +kernel)).trans rfl⟩
theorem witness_FlitsReceived :
    (flitOf 0 0 0x67E65321).toNat / 2 ^ 2016 = 0x67E65321 ∧ (flitOf 1 9 0xF1708708).toNat / 2 ^ 2016 = 0xF1708708 ∧ (flitOf 0 0 0x67E65321).toNat % 2 ^ 12 = 0 ∧
    (flitOf 1 9 0xF1708708).toNat / 2 ^ 16 % 2 ^ 12 = 9 ∧ (flitOf 1 9 0xF1708708).toNat / 2 ^ 12 % 2 ^ 4 = 1 ∧
    ((onPort 2).ports.get 5).unacked.map (·.bits) = [9, 10] ∧ ((onPort 256).ports.get 5).unacked.length = 256 ∧ ((onPort 255).ports.get 5).unacked.length = 255 := by decide +kernel
/-- A flit of each type not acknowledged for 99,999 ns and for 100,000; seven replays and eight; a write that the port holds, and one that it
does not. -/
theorem witness_PortsDown : ((onPort 0).ports.get 5).state = 2 ∧ (onPort 0).allCores.all (fun c => c.colq.isEmpty) = true ∧ (State.reset.ports.get 5).state = 1 ∧
    ([99999, 100000].all fun g => [7, 8].all fun r => [0, 1, 2].all fun k =>
      let s := { onPort 0 with gts := g, ports := State.reset.ports.set 5 { state := 2, unacked := [{ bits := flitOf k 0 0 }], replays := r } }
      let x := s.ports.get 5
      x.state == 2 && !x.unacked.isEmpty && decide (x.since.toNat + 100000 ≤ s.gts.toNat) == (g == 100000)) = true ∧
    ([4, 5].all fun k =>
      let l : LinkSlot := { vc := 3, first := true, data := 5, pkt := 4 }
      let x : Port := { state := 2, unacked := [{ bits := flitOf 0 0 0, slots := [l] }] }
      let s := { State.reset with ports := State.reset.ports.set 5 x, peers := [{ own := State.reset.ctx.id, peer := 5, ptr := 0, bytes := 8, engine := none, pkt := k }] }
      let u := s.portFails 5
      x.pkts.contains 4 && u.peers.isEmpty == (k == 4) && (u.ports.get 5) == { state := 3 }) = true := by
  decide +kernel
/-- A plate flit of virtual channel 3 that waits, with a slot at the receiver and with none; 256 flits outstanding; nothing that waits; behind
one of a job that stands still; a message for a package that the port leads to. -/
theorem witness_FlitsSent : ([(1, 0), (0, 0), (1, 255), (1, 256)].all fun (p : Nat × Nat) =>
    let l : LinkSlot := { vc := 3, first := true, data := 5 }
    let x : Port := { state := 2, txq := [l], cred := (Vector.replicate 8 0).set 3 p.1, unacked := List.replicate p.2 { bits := 0 } }
    let s := { State.reset with ports := State.reset.ports.set 5 x }
    s.ports.get 5 == x && !s.linkHolds x l && (x.cred.get l.vc.toFin == 0) == (p.1 == 0) && decide (x.unacked.length < 256) == (p.2 != 256)) = true ∧
    ((onPort 0).ports.get 5).txq = [] ∧ (onPort 0).fabout = [] ∧
    (let h : LinkSlot := { vc := 2, first := true, data := 6, job := 8 }
     let l : LinkSlot := { vc := 3, first := true, data := 5, job := 9 }
     let x : Port := { state := 2, txq := [h, l], cred := Vector.replicate 8 1 }
     let s := { State.reset with ports := State.reset.ports.set 5 x, gangs := [{ job := 8, dom := 0, queue := 0, gst := .sweep, cutoff := 0, proof := 0, spill := 0 }] }
     s.linkHolds x h && !s.linkHolds x l) = true ∧
    (let m : FabMsg := { dst := 7, dom := 0, job := 8, body := .ready }
     let s := { onPort 0 with fabout := [m], pkg := { State.reset.pkg with route := [(7, [5])] } }
     (s.fabout.find? fun m => m.control && s.routedBy 5 m.dst) == some m) = true := by decide +kernel
theorem witness_Routes : swf [] State.reset.pkg.route = true ∧ swf [] ([(3, [1, 2])] : Sparse (List (BitVec 7))) = true := by decide
/-- A time ahead and one that is not; before and after a context has run; the grand master and another package; 10 ms since the last timestamp
flit and 1 ns less; a millisecond since the last one sent, on the one port toward the grand master. -/
theorem witness_Timestamps : State.reset.pkg.ran = false ∧ State.reset.gts.toNat < 5 ∧ State.reset.pkg.tsstat.getLsbD 1 = false ∧
    (State.reset.seat).pkg.ran = true ∧ (nx (.grandMasterChoice true 0) State.reset).pkg.tsstat.getLsbD 1 = true ∧
    ([9999999, 10000000].all fun g => let s := { State.reset with gts := g, pkg := { State.reset.pkg with tsstat := 1 } }
      decide (s.pkg.tsLast.toNat + 10000000 ≤ s.gts.toNat) == (g == 10000000) && (nx .timestampLockLoss s).pkg.tsstat == (if g == 10000000 then 0 else 1)) = true ∧
    (let s := { onPort 0 with gts := 1000000, pkg := { State.reset.pkg with tsstat := 7 * 2 ^ 16, route := [(7, [5])] } }
     s.upPorts (s.pkg.tsstat.extractLsb' 16 12) == [5] && decide (s.pkg.tsSent.toNat + 1000000 ≤ s.gts.toNat)) = true ∧
    ([false, true].all fun b => let s := { State.reset with inbox := if b then [.fportRetrain 5 4] else [] }
      match step s with | .next t => decide (s.gts.toNat ≤ t.gts.toNat) | _ => false) = true := by decide +kernel

/-- The observations of a boot that fails at each of its first steps. -/
theorem witness_PackageResets : ([(false, true, 1), (true, false, 2)].all fun (p : Bool × Bool × Nat) =>
    let u := nx (.packageReset { selfTest := p.1, flash := p.2.1, unitFail := none }) State.reset
    u.pkg.bootstat.toNat % 8 == p.2.2 && u.pkg.bootstat.toNat / 256 % 256 == p.2.2) = true := by decide +kernel
/-- A header of the least length, of the greatest, and of one byte more. -/
theorem witness_BootsImage : ([64, 2 ^ 24, 2 ^ 24 + 1].all fun n =>
    let im := leBytes 64 (1 + n * 2 ^ 32)
    (decide (leNat (im.take 2) = 1 ∧ leNat ((im.drop 2).take 2) = 0 ∧ 64 ≤ leNat ((im.drop 4).take 4) ∧ leNat ((im.drop 4).take 4) ≤ 2 ^ 24 ∧ 64 ≤ im.length) &&
      ((im.drop 12).take 52).all (· == 0)) == (n != 2 ^ 24 + 1)) = true := by decide +kernel
/-- A failure at the signature, after no attempt and after 255; no failure; a header of the least length and of the greatest in the buffer. -/
theorem witness_Recovery : ([64, 2 ^ 24 - 2820].all fun n => let b := Memory.setN [] 0 (leBytes 64 (1 + n * 2 ^ 32))
      Memory.wf b && decide (64 ≤ leNat (Memory.getN b 4 4) ∧ leNat (Memory.getN b 4 4) + 2820 ≤ 2 ^ 24)) = true ∧ ([0x0404, 0xFF000404].all fun (w : Nat) => w / 2 ^ 8 % 2 ^ 8 != 0 && w % 2 ^ 3 != 7) = true ∧ State.reset.pkg.bootstat = 0 := by decide
theorem witness_PowerAndMismatch : (nx .campionMismatch (onDom 0 State.reset)).running = false ∧ (onDom 0 State.reset).running = true := by decide +kernel

/-- The first byte of socket 8, and one where no memory is; a socket that is present and one that is not. -/
theorem witness_MemoryErrors : ([pt0, 0].all fun a => State.reset.physOk a 1 == (a != 0)) = true ∧
    State.reset.present 8 = true ∧ classOf 8 = 5 ∧ classOf 3 ≠ 5 ∧ (State.reset.coreAt 1 0).isSome = true ∧ (State.reset.coreAt 5 15).isNone = true ∧
    (2 ^ 24 - 1 < spadBytes (classOf 1)) = (16 * 2 ^ 20 ≤ spadBytes (classOf 1)) ∧ 0 < spadBytes (classOf 1) ∧
    ((upTo 64).any fun k => (classOf (BitVec.ofNat 6 k) == 1 || classOf (BitVec.ofNat 6 k) == 2) && (State.reset.coreAt (BitVec.ofNat 6 k) 0).isSome) = true ∧ (State.reset.pkg.pop.get 5).state = 2 ∧
    (((State.reset.pkg.pop.set 5 { State.reset.pkg.pop.get 5 with state := 0 }).get 5).state = 0) := by decide +kernel
theorem witness_CoreFailures : (State.reset.coreAt 1 0).any (·.live) = true ∧ State.reset.present 1 = true ∧ (State.reset.coreAt 5 15).isNone = true := by decide +kernel
theorem witness_ChipletFailures : State.reset.present 8 = true ∧ (∀ c ∈ State.reset.ctxs, c.id.loc.sock = 8 → State.reset.isBound c = false) ∧
    State.reset.present 3 = true ∧ classOf 3 = 8 ∧ (State.reset.pkg.health.get 3).live.getLsbD 0 = true ∧ (State.reset.pkg.health.get 3).live.getLsbD 1 = false := by
  decide +kernel
/-- At the cap, above it, at 97 % of it and below. -/
theorem witness_PowerCap : ([10500, 10501, 10185, 10184].map fun p => (nx (.powerCapStep p) { State.reset with pkg := { State.reset.pkg with clk := 9, lowms := true } }).pkg.clk) = [9, 8, 9, 10] := by
  decide +kernel
/-- Sixteenths of a degree below and at each threshold. -/
theorem witness_Temperature : ([759, 760, 839, 840].map fun t => let u := nx (.thermalCrossing 5 t) State.reset; (u.pkg.irqs.length, u.pkg.alert)) =
    [(0, false), (2, false), (2, false), (4, true)] := by decide +kernel

/-- An unread response and none; operands at the ends of their ranges; an unknown CMD. -/
theorem witness_CommandPort : State.reset.pkg.resp = none ∧
    ([3999, 4000, 10500, 10501].map fun w => (nx (.pcapset w) { State.reset with pkg := { State.reset.pkg with resp := some [7] } }).pkg.pcap) = [10500, 4000, 10500, 10500] ∧
    (nx (.hread 64) State.reset).pkg.resp = some [1] ∧ (nx (.hflush 16) { State.reset with pkg := { State.reset.pkg with resp := some [7] } }).pkg.resp = some [1] ∧
    ([0, 9, 255].all fun c => (State.reset.privateWrite [c, 1, 2]).pkg.resp == some [5]) = true ∧
    (State.reset.privateWrite [5, 0xA0, 0x0F]).inbox = [.pcapset 4000] := by decide +kernel
theorem witness_HealthReads : ([0, 63].all fun k => ((nx (.hread k) State.reset).pkg.resp.map List.length) == some 33) = true := by decide +kernel
/-- A full log, an entry, none. -/
theorem witness_LogsAndCounts : ((nx .elog State.reset).pkg.resp.map List.length) = some 33 ∧
    (nx .elog { State.reset with pkg := { State.reset.pkg with log := [1, 2] } }).pkg.log = [2] ∧
    (nx (.hflush 0) State.reset).pkg.resp = some [0] ∧ (nx .telem State.reset).pkg.resp.isSome = true := by decide +kernel
/-- An index left, the last 65,536, none. -/
theorem witness_Attestation : ([0, 2 ^ 20 - 65537, 2 ^ 20 - 1].all fun n => (BitVec.ofNat 32 n).toNat < 2 ^ 20) = true ∧ ((2 ^ 20 : Nat) ≤ (0x100000 : BitVec 32).toNat) := by decide
/-- A running image that is newer than MINVER, and one that is not. -/
theorem witness_MinimumVersion : ([5, 4].map fun v => (nx .minvup { State.reset with pkg := { State.reset.pkg with version := v, minver := 4 } }).pkg.minver) = [5, 4] ∧
    State.reset.pkg.resp = none := by decide +kernel
theorem witness_TimestampRead : meets (.gts { f0 with d := 3 }) (at_ (.gts { f0 with d := 3 })) (wS 3 0) = true := by decide +kernel
/-- The first bytes of the discovery table, and those at its end. -/
theorem witness_DiscoveryRead :
    (let s := { with2 (.disc { fr with b := 0 }) 8 0 with turn := .sc }
     let i : Instr := .disc { fr with b := 0 }
     issuesB i s && slotAt i (bg i s) && okAt (do let _ ← rS 1; wS 3 0) (bg i s)) = true ∧ State.reset.pkg.tbllen ≤ State.reset.pkg.tbllen := by decide +kernel
theorem witness_SeedForm : meets (.srseed { f0 with a := 1 }) (at_ (.srseed { f0 with a := 1 })) (do let _ ← rS 1) = true := by decide +kernel

/-! ## Witnesses: operands, records, the step -/

/-- A register of each kind at both ends of its range; a queue with an entry, with a marked one, with none, and full. -/
theorem witness_ScalarOperands :
    ([0, 31, 32, 47, 48, 49, 55].all fun sp => okAt (rS sp) State.reset && okAt (wS sp 5) State.reset) = true ∧
    ([([], false), ([{ val := 3, mark := some 9 }], false), ([{ val := 3, mark := some 9 }, { val := 4 }], true)].all fun (p : List (QEnt Word) × Bool) =>
      okAt (rS 63) (State.reset.modCtx fun c => { c with q := c.q.set 7 p.1 }) == p.2) = true := by decide +kernel
theorem witness_ScalarResults : ([7, 8].all fun n => okAt (wS 56 5) (State.reset.modCtx fun c => { c with q := c.q.set 0 (ents n 1) }) == (n == 7)) = true := by decide +kernel
theorem witness_VectorOperands :
    ([0, 15, 16, 31, 32, 47, 48, 49, 55].all fun sp => okAt (rV sp) State.reset && okAt (wV sp 5 7) State.reset) = true ∧
    ([([], false), ([{ val := 3 }], true)].all fun (p : List (QEnt Vec) × Bool) => okAt (rV 59) (State.reset.modCtx fun c => { c with vq := c.vq.set 3 p.1 }) == p.2) = true := by
  decide +kernel
theorem witness_VectorResults : ([3, 4].all fun n => okAt (wV 56 5 7) (State.reset.modCtx fun c => { c with vq := c.vq.set 0 (ents n 1) }) == (n == 3)) = true := by decide +kernel
theorem witness_PredicateOperands : ([0, 1, 7, 8, 15, 49].all fun sp => okAt (rP sp) State.reset && okAt (wP sp 5) State.reset) = true := by decide +kernel
theorem witness_ByteWrites : Canon State.reset := canon_of (by decide +kernel)
theorem witness_WordsReadBack : Memory.wf [] = true ∧ Memory.wf [(5, 1)] = true := by decide
/-- Room for one more, and none; records lost before. -/
theorem witness_LostRecords : ([0, 3, 0xFFFF].all fun (n : BitVec 16) =>
    let t := onDom 0 State.reset
    let x := { q16 15 with lost := n }
    let s := { t with doms := t.doms.set 0 { domOn 0 with queues := [x] } }
    s.findQ 0 0 == some x && s.eqRoom 0 x && canonB s && s.queueReadable 0 x && Nat.ble (x.exq.toNat + 64 * 2 ^ x.m) x.ctl.toNat) = true := by decide +kernel
theorem witness_LostRecords_full : (onFull []).findQ 0 (fullQ []).num = some (fullQ []) ∧ (onFull []).eqRoom 0 (fullQ []) = false := full_eqRoom []
theorem witness_DecodedLength : ([0x00, 0x20, 0x30] : List Byte).all (fun b => decide (([b] : List Byte).length < 2)) = true := by decide
theorem witness_RoundTrip : encodable (.add fw) = true ∧ WellFormed (.add fw) = true ∧ encodable (decodeWord (encodeWord (.add fw))).1 = true := by decide +kernel
theorem witness_DecoderRefuses : encodable (.add { fw with a := 50 }) = true ∧ staticCheck (.add { fw with a := 50 }) = some (3, 20) ∧ staticCheck (.add fw) = none := by
  decide +kernel

/-- A context in focus that runs a `nop`, on a core that it holds; with an event, a held signal, a line that is absent, idle. -/
theorem witness_StepRunsDecoded :
    let s := State.reset.withFetchWord 32 (encodeWord (.nop ⟨0, 0, 0, 0, 0⟩)).toNat
    s.focusOk = true ∧ s.inbox = [] ∧ s.alive = true ∧ s.sq.held = [] ∧ s.ready = true ∧ (match s.fetchWord with | .ok _ => true | _ => false) = true ∧
    s.ctx.id.harv = false ∧ s.part.lease = .vacant ∧ s.sq.atB = false ∧ s.sq.atE = false ∧
    (match exec (.nop ⟨0, 0, 0, 0, 0⟩) s.enter with | .next _ => true | _ => false) = true ∧
    (let t := { s with core := { s.core with icache := [] } }; t.ready = true ∧ (match t.fetchWord with | .error _ => true | _ => false) = true) ∧
    State.reset.alive = false := by decide +kernel
theorem witness_FetchedBytes :
    let s := State.reset.withFetchWord 64 (encodeWord (.li { fi with a := 0 })).toNat
    (s.core.iline s.domOf (lineOf s.sq.pc)).isSome = true ∧ s.sq.pc.toNat % 64 ≤ 56 ∧ s.sq.pc.toNat % 2 = 0 := by decide +kernel

/-! ## Ill-formed terms, one for each check, and what the check says of them -/

/-- An unassigned opcode. -/
theorem smoke_unassigned : WellFormed (.unassignedOpcode true 0x20) = false := by decide +kernel
/-- A field that must be 0 (cause 0x2): B of `not`, X of `halt`'s layout, [35:33] of a branch, B of `mkptr`, OFF13 without its mode. -/
theorem smoke_zero_fields :
    [Instr.not ⟨0, 0, 3, 1, 2⟩, .br { fb with a := 0, z := 1 }, .mkptr fr, .ld { fm with am := 1, b := 2, off := 1 }, .cpy { fe with a := 8, b := 0, x := 1 }].map staticCheck =
      [some (2, 26), some (2, 33), some (2, 31), some (2, 51), some (2, 59)] := by decide +kernel
/-- A value that a field refuses (cause 0x7): no token to give, an address mode, a width, a rounding mode. -/
theorem smoke_refused_values :
    [Instr.tokn { fr with d := 0, a := 0, b := 0, x := 0 }, .ld { fm with am := 5 }, .ld { fm with wd := 7 }, .cpy { fe with a := 8, b := 0, q := 1 }].map staticCheck =
      [some (7, 52), some (7, 40), some (7, 37), some (7, 51)] := by decide +kernel
/-- A specifier that names nothing (cause 0x3): scalar, vector, predicate; a group where a register must stand in the main file. -/
theorem smoke_specifiers :
    [Instr.add { fw with b := 50 }, .vfadd ⟨0, 0, 3, 60, 2⟩, .pand { fr with a := 40 }, .cpy { fe with a := 32, b := 0 }].map staticCheck =
      [some (3, 26), some (3, 20), some (3, 25), some (3, 25)] := by decide +kernel
/-- A predicate above 15, a group past its file (cause 0x8). -/
theorem smoke_beyond : [Instr.pand { fr with b := 16 }, .cpy { fe with a := 29, b := 0 }].map staticCheck = [some (8, 31), some (8, 25)] := by decide +kernel
/-- The same terms with those fields mended pass. -/
theorem smoke_mended : ([Instr.not ⟨0, 0, 3, 1, 0⟩, .br { fb with a := 0 }, .mkptr { fr with b := 0 }, .ld fm, .cpy { fe with a := 28, b := 0 }, .tokn { fr with d := 0, a := 0, b := 0, x := 15 },
    .add fw, .vfadd ⟨0, 0, 3, 59, 2⟩, .pand { fr with b := 15 }].all WellFormed) = true := by decide +kernel

/-! ## Decoding: words of the specification's worked examples (R185 to R187, R200, R201), fields written out from the layouts -/

theorem test_decode_vfadd : decodeWord 0x8D046411 = (.vfadd { tok := 1, pred := 2, d := 17, a := 16, b := 35 }, 4) := by decide +kernel
/-- `add s3, s1, q2` as a dictionary entry. -/
theorem test_decode_add : decodeWord 0xE810C040 = (.add { tok := 0, pred := 0, d := 3, a := 1, b := 58 }, 4) := by decide +kernel
theorem test_decode_loop : decodeWord 0x000000A000080660 = (.loop { tok := 0, pred := 0, sense := 0, a := 1, b := 0, lc := 0, z := 0, off := 10 }, 8) := by decide +kernel
theorem test_decode_fence : decodeWord 0x0004000000065A28 = (.fence { tok := 8, pred := 9, sense := 1, d := 0, a := 0, b := 0, c := 0, f := 0, m := 4, sa := 0, x := 0 }, 8) := by decide +kernel
theorem test_decode_bloop : decodeWord 0xFFFFFFD0800006A0 = (.bloop { tok := 0, pred := 0, sense := 0, a := 0, b := 0, lc := 1, z := 0, off := 268435453 }, 8) := by decide +kernel
theorem test_decode_li : decodeWord 0x0000000180080060 = (.li { tok := 0, pred := 0, sense := 0, d := 1, a := 0, imm := 3, top := 0 }, 8) := by decide +kernel
theorem test_decode_ld : decodeWord 0x0200026004281020 = (.ld { tok := 0, pred := 0, sense := 0, t := 5, a := 2, b := 0, wd := 3, am := 2, f := 0, m := 0, off := 64 }, 8) := by decide +kernel
theorem test_decode_wake : decodeWord 0x0004006010181CA0 = (.wake { tok := 0, pred := 0, sense := 0, t := 3, a := 8, b := 0, wd := 3, am := 0, f := 0, m := 4, off := 0 }, 8) := by decide +kernel
theorem test_decode_bfly2 : decodeWord 0x0000000308402720 = (.bfly2 { tok := 0, pred := 0, sense := 0, d := 8, a := 4, b := 6, c := 0, f := 0, m := 0, sa := 0, x := 0 }, 8) := by decide +kernel
theorem test_decode_vcvt : decodeWord 0x000C180004502420 = (.vcvt { tok := 0, pred := 0, sense := 0, d := 10, a := 2, b := 0, c := 0, f := 3, m := 4, sa := 1, x := 0 }, 8) := by decide +kernel
theorem test_decode_twgen : decodeWord 0x00C00002886027E0 = (.twgen { tok := 0, pred := 0, sense := 0, d := 12, a := 4, b := 5, c := 0, f := 0, m := 0, sa := 0, x := 12 }, 8) := by decide +kernel
theorem test_decode_srttopk : decodeWord 0x0030000000002D20 = (.srttopk { tok := 0, pred := 0, sense := 0, d := 0, a := 0, b := 0, c := 0, f := 0, m := 0, sa := 0, x := 3 }, 8) := by decide +kernel
theorem test_decode_mnset : decodeWord 0x0080000008003020 = (.mnset { tok := 0, pred := 0, sense := 0, d := 0, a := 4, b := 0, c := 0, f := 0, m := 0, sa := 0, x := 8 }, 8) := by decide +kernel
theorem test_decode_mgo : decodeWord 0x00045860004830A0 = (.mgo { tok := 0, pred := 0, sense := 0, d := 9, a := 0, b := 0, sw := 3, swe := 1, ss := 5, sse := 1, q := 0, f := 0, x := 0 }, 8) := by decide +kernel
/-- A stream of bytes: the first instruction and what is left; too few bytes; an unassigned opcode. -/
theorem test_decode_stream :
    (match decode [0x40, 0xC0, 0x10, 0xE8, 7] with | .ok (i, rest) => i == .add { tok := 0, pred := 0, d := 3, a := 1, b := 58 } && rest == [7] | _ => false) = true ∧
    (match decode [0x40, 0xC0, 0x10] with | .error .short => true | _ => false) = true ∧ (match decode [0x20, 0, 0, 0, 0, 0, 0, 0] with | .error .unassigned => true | _ => false) = true := by
  decide +kernel

/-! ## One step each, with results worked out in the specification -/

/-- `li s1, #0x8000_0000` leaves 0xFFFF_FFFF_8000_0000, and `lih s1, s1, #0` then 0x0000_0000_8000_0000. -/
theorem test_li : vget (nx (.li { fi with a := 0, imm := 0x80000000 }) (at_ (.li { fi with a := 0, imm := 0x80000000 }))).ctx.s 3 = 0xFFFFFFFF80000000 := by decide +kernel
theorem test_lih : vget (nx (.lih { fi with imm := 0 }) (with2 (.lih { fi with imm := 0 }) 0xFFFFFFFF80000000 0)).ctx.s 3 = 0x80000000 := by decide +kernel
/-- R216: division by 0 gives all ones, and the most negative number by -1 itself. -/
theorem test_div : [(7, 0), (0x8000000000000000, 0xFFFFFFFFFFFFFFFF), (0xFFFFFFFFFFFFFFF9, 2)].map (fun (p : Word × Word) => vget (nx (.div fw) (with2 (.div fw) p.1 p.2)).ctx.s 3) =
    [0xFFFFFFFFFFFFFFFF, 0x8000000000000000, 0xFFFFFFFFFFFFFFFD] := by decide +kernel
theorem test_add_wraps : vget (nx (.add fw) (with2 (.add fw) 0xFFFFFFFFFFFFFFFF 2)).ctx.s 3 = 1 := by decide +kernel
/-- A source that is also the destination; the program counter moves past the word. -/
theorem test_sub_same : let i : Instr := .sub { fw with d := 1 }; let u := nx i (with2 i 5 7)
    vget u.ctx.s 1 = 0xFFFFFFFFFFFFFFFE ∧ u.sq.pc = (at_ i).sq.pc + 4 := by decide +kernel
/-- Spec/03's table: a store of 4 bytes that ends in window 6 raises WSTR cause 0x1, a load there cause 0x2. -/
theorem test_windows :
    ((at_ (.st fm)).checkStatic needWR { ptr := 0x5FFFFFFFFFFFFFFE, n := 4, lane := 0xFF }).any (fun t => t.kind == 3 && t.info.extractLsb' 0 8 == 1) = true ∧
    ((at_ (.ld fm)).checkStatic needRD { ptr := 0x6000000000000000, n := 4, lane := 0xFF }).any (fun t => t.kind == 3 && t.info.extractLsb' 0 8 == 2) = true := by decide +kernel
/-- `bloop` at 2 branches and counts; at 1 it falls through and leaves 0 (R226). -/
theorem test_bloop : [2, 1].map (fun n => let i : Instr := .bloop { fb with a := 0, off := 0xFFFFFFD }; let s := atQ i fun x => { x with lc := x.lc.set 0 n }
    let u := nx i s; (u.sq.pc - s.sq.pc, vget u.sq.lc 0)) = [(0xFFFFFFFFFFFFA, 1), (8, 0)] := by decide +kernel
/-- A store and a load of the same eight bytes of scratchpad. -/
theorem test_store_load :
    let f : XM := { fm with wd := 3 }
    let s := (atM (.st f) 0x40 0).modCtx fun c => { c with s := c.s.set 3 0x1122334455667788 }
    let u := nx (.st f) s
    Memory.get u.core.spad 0x40 = 0x88 ∧ Memory.get u.core.spad 0x47 = 0x11 ∧ Memory.wf u.core.spad = true := by decide +kernel
/-- A trap leaves the registers and the program counter, and stops the context (R41, R55). -/
theorem test_trap : let i : Instr := .add { fw with b := 50 }; let u := nx i (with2 i 5 7)
    u.ctx.cst = .faulted ∧ u.sq.run = .faulted ∧ u.sq.pc = (at_ i).sq.pc ∧ vget u.ctx.s 3 = 0 := by decide +kernel
/-- The host's own question: the first instruction after it is placed runs. -/
theorem test_step_runs : (match step (State.reset.withFetchWord 32 0xE810C040) with | .next _ => true | _ => false) = true := by decide +kernel

/-! ## Witnesses: translation, other packages, pushes of capabilities, semaphores in order -/

/-- Domain 0 with tables, and a buffer of 4 KiB at the address 0 that slot 1 names; s1 points to it, s2 and s3 are given. -/
noncomputable def onPage (i : Instr) (o b x : Word) : State :=
  let s := onDom 0 (at_ i)
  ({ s with doms := s.doms.set 0 { domOn 0 with reg := (regDom 1).reg } } : State).modCtx fun c =>
    { c with table := [(1, some capSlot)], s := ((c.s.set 1 (0x2010000000000000 + o)).set 2 b).set 3 x }
/-- `OnPage`, decided: the translation and the state that it leaves. -/
def onPageB (need : BitVec 7) (pois : Bool) (r : Req) (s : State) : Bool :=
  r.ptr.toNat / 2 ^ 60 == 2 && 0 < r.n && (s.checkStatic need r).isNone && decide ((s.vaOf r.ptr).toNat % 65536 + r.n ≤ 65536) &&
  match s.translate s.domOf (s.vaOf r.ptr) (s.waiter s.domOf (s.vaOf r.ptr)) (some (s.turn, s.ipc (s.len 8))) with
  | .ok (e, t) => e.tagOf (e.pa.toNat + (s.vaOf r.ptr).toNat % 2 ^ e.bits) == e.layout && (!pois || (pageAt r e s).all fun p => !t.poisoned p) &&
      !t.ctx.bnd.strict
  | .error _ => false

/-- The root's entry, a leaf of the second level, an entry that is not valid, and two that are malformed. -/
theorem witness_TableWalk :
    let s := onDom 0 State.reset
    (pt0 < 2 ^ 52 ∧ pt0 % 2 ^ 46 + 65536 ≤ s.capacity (BitVec.ofNat 6 (pt0 / 2 ^ 46)) ∧ (s.dom 0).ptroot = pt0) ∧
    entryAt s (entryAddr 0 0 pt0) % 4 = 1 ∧ entryTo (entryAt s (entryAddr 0 0 pt0)) = pt0 + 0x2000 ∧ entryAt s (entryAddr 0 1 (pt0 + 0x2000)) % 4 = 3 ∧
    entryAt s (entryAddr 0x20000000 1 (pt0 + 0x2000)) = 0 ∧
    (match s.walk 0 5 with | .ok e => e.pa.toNat == pt0 + 2 ^ 29 && e.bits == 29 && e.ord == 3 | _ => false) = true ∧
    (match s.walk 0 0x20000000 with | .invalid ea => ea == pt0 + 0x2008 | _ => false) = true ∧
    ([(2 ^ 52 + 1, 0), (3, 0)].all fun (p : Nat × Nat) => match ({ s with mem := Memory.setN [] pt0 (leBytes 8 p.1) } : State).walk 0 0 with
      | .malformed ea l => ea == pt0 && l == p.2
      | _ => false) = true := by decide +kernel
/-- In the core's TLB, in the instance's, in neither; an address without a page. -/
theorem witness_Translations :
    let s := onDom 0 State.reset
    let w : Waiter := { dom := 0, va := 0, ctx := none }
    (match s.translate 0 0 w none with
     | .ok (e, t) => (t.core.tlb.find? (fun e => e.covers 0 0)) == some e && ((sget [] t.tlb2 t.core.sock.toNat).find? (fun e => e.covers 0 0)) == some e &&
         (match (t.modCore fun c => { c with tlb := [] }).translate 0 0 w none with | .ok (x, u) => x == e && u.core.tlb == [e] | _ => false)
     | _ => false) = true ∧
    s.core.tlb = [] ∧ (match s.translate 0 0x20000000 w none with | .error _ => true | _ => false) = true := by decide +kernel
theorem witness_VirtualAddress : let s := onPage (.ld fm) 0 0 0
    s.slot 1 = some capSlot ∧ ((s.dom s.domOf).regOf (capSlot.cap.setWidth 32)).any (fun e => e.vbase == 0) = true ∧ s.vaOf 0x2010000000000FFF = 0xFFF := by
  decide +kernel

/-- The first and the last word of the buffer, by an owner; a page that is not there, with a region open and with none. -/
theorem witness_TranslatedLoads : ([0, 0xFF8].all fun o => let s := onPage (.ld fm) o 0 0
      meets (.ld fm) s (do let _ ← eaXM fm; readyS 3; wS 3 0) && onPageB needRD true (scalarReq (0x2010000000000000 + o) 8) (bg (.ld fm) s)) = true ∧
    ([true, false].all fun o => let t := { onPage (.ld fm) 0 0 0 with mem := [] }
      let s := if o then t.modCtx openRgn else t
      ready (.ld fm) s && (s.checkStatic needRD (scalarReq 0x2010000000000000 8)).isNone && s.ctx.rgns.isEmpty == !o && s.ctx.rgns.all (fun g => !g.dirty) &&
        (nx (.ld fm) s).sq.wait == .page 0 &&
        match s.translate 0 0 (s.waiter 0 0) (some (s.turn, s.ipc (s.len 8))) with | .error _ => true | _ => false) = true ∧
    (let t := onPage (.ld fm) 0 0 0
     let s := { t with tags := sput 0 t.tags ((pt0 + 2 ^ 29) / 65536) 1 }
     ready (.ld fm) s && (nx (.ld fm) s).sq.run == .faulted && !onPageB needRD true (scalarReq 0x2010000000000000 8) (bg (.ld fm) s)) = true := by decide +kernel
theorem witness_TranslatedStores : ([0, 0xFF8].all fun o => let s := onPage (.st fm) o 0 0x0102030405060708
    meets (.st fm) s (do let _ ← eaXM fm; let _ ← rS 3) && onPageB needWR false (scalarReq (0x2010000000000000 + o) 8) (bg (.st fm) s) && canonB s &&
      ((upTo 8).map fun k => (nx (.st fm) s).byteAt { sp := .phys, a := pt0 + 2 ^ 29 + o.toNat + k }) == [8, 7, 6, 5, 4, 3, 2, 1]) = true := by decide +kernel
/-- An addition in the page, in host memory, and at a peer that an up port leads to. -/
noncomputable def peerOn (i : Instr) (pend : BitVec 40) (up : Bool) : State :=
  let s := onPage i 0x1000000000000000 5 7
  ({ s with ports := s.ports.set 3 { state := if up then 2 else 3 }, pkg := { s.pkg with route := [(9, [3])] } } : State).modCtx fun c =>
    { c with pend := pend, table := [(1, some { capSlot with cap := mkCap 7 3 0x7F true false 0xFFF 9 })] }
noncomputable def hostOn (i : Instr) : State := (onPage i 0 5 7).modCtx fun c => { c with s := c.s.set 1 0x4000000000000040 }
def famo : XM := { fm with b := 2 }
theorem witness_TranslatedAtomics :
    (let s := onPage (.amo famo) 8 5 0
     meets (.amo famo) s (do let _ ← rS 1; let _ ← rS 2; readyS 3; wS 3 0) && onPageB needAT true (scalarReq 0x2010000000000008 8) (bg (.amo famo) s) && canonB s) = true ∧
    (let s := hostOn (.amo famo)
     let r := scalarReq 0x4000000000000040 8
     ready (.amo famo) s && (s.checkStatic needAT r).isNone && decide (s.direct r).Nodup && (s.direct r).all fun p => !s.poisoned p) = true ∧
    (let s := peerOn (.amo famo) 0 true
     ready (.amo famo) s && (s.checkStatic needAT (scalarReq 0x3010000000000000 8)).isNone && s.netRoom s.ctx.sender 8 && s.reachable (s.peerOf 0x3010000000000000) &&
       s.peerOf 0x3010000000000000 == 9) = true := by decide +kernel
theorem witness_HostAccesses : ([Instr.st fm, .ld fm].all fun i => let s := hostOn i
    let r := scalarReq 0x4000000000000040 8
    ready i s && (s.checkStatic (if i == .ld fm then needRD else needWR) r).isNone && !s.ctx.bnd.strict && decide (s.hostAt s.domOf 0x40 8).Nodup &&
      (s.hostAt s.domOf 0x40 8).all (fun p => !s.poisoned p) && canonB s) = true := by decide +kernel
/-- With room in PEND for the store, with none, and with no up port. -/
theorem witness_PeerStores : ([(0, true), (0xFFFFFFFFFF - 8, true), (0xFFFFFFFFFF - 7, true), (0, false)].all fun (p : BitVec 40 × Bool) =>
    let s := peerOn (.st fm) p.1 p.2
    meets (.st fm) s (do let _ ← eaXM fm; let _ ← rS 3) && (s.checkStatic needWR (scalarReq 0x3010000000000000 8)).isNone && s.netRoom s.ctx.sender 8 &&
      s.reachable 9 == p.2 && ((p.2 && p.1 != 0xFFFFFFFFFF - 7) || (nx (.st fm) s).peers.isEmpty)) = true := by decide +kernel

/-- A record group in s8 to s15, with the requests of slots: word 0, then words 1 and 2 of one request. -/
noncomputable def onPush (i : Instr) (n : Nat) (w0 w1 w2 : Word) (slot : Option Slot) (r : BitVec 32) : State :=
  let t := onEdge (List.replicate n .published) (at_ i)
  ({ t with doms := t.doms.set 0 { edgeDom (List.replicate n .published) with reg := (regDom r).reg } } : State).modCtx fun c =>
    { c with table := [(1, slot)], s := ((c.s.set 8 w0).set 9 w1).set 10 w2 }
/-- A reserved bit, a block that is not live, a source without a capability, a stale one, one without the right, a template slot's, a full
count: each is turned away; NCAP is 1 and request 0 asks for slot 1. -/
theorem witness_PushesTurnedAway : ([Instr.eput fp, .eputs { fp with c := 3 }].all fun i =>
    ([(0xA000, 0x201, some capSlot, 1, true), (0x3000, 0x201, some capSlot, 1, false), (0x2000, 0x201, none, 1, false),
      (0x2000, 0x201, some { capSlot with cap := mkCap 7 3 0x7F false true 0xFFF 0 }, 1, false),
      (0x2000, 0x201, some { capSlot with cap := mkCap 7 3 0x37 false false 0xFFF 0 }, 1, false),
      (0x2000, 0x101, some { capSlot with tmpl := true }, 1, false), (0x2000, 0x1, some capSlot, 0xFFFFFFFF, false)] : List (Word × Word × Option Slot × BitVec 32 × Bool)).all fun p =>
      let s := onPush i 63 p.1 p.2.1 0 p.2.2.1 p.2.2.2.1
      ready i s && !s.ctx.id.harv && s.sq.pushing.isNone && (groupOf s 8).getLsbD 15 == p.2.2.2.2 && ((nx i s).edge s.domOf (s.portEdge true 0)) == s.edge s.domOf (s.portEdge true 0) &&
        ((nx i s).sq.run == .faulted || (groupOf s 8).getLsbD 15 || p.2.1 == 0x201)) = true := by decide +kernel
/-- A share and a transfer, with a free slot and with none. -/
theorem witness_CapabilityPushes : ([Instr.eput fp, .eputs { fp with c := 3 }].all fun i => [63, 64].all fun n => [(0x10001 : Word), 0x10101].all fun w =>
    let s := onPush i n 0x2000 w 99 (some capSlot) 1
    ready i s && !s.ctx.id.harv && s.sq.pushing.isNone && canonB s && (s.edge s.domOf (s.portEdge true 0)).isSome && okAt (wS2 3 0) (bg i s) &&
      requestCause s (groupOf s 8) 0 == none && ncap (groupOf s 8) == 1 && !(groupOf s 8).getLsbD 12 &&
      (n == 64 || (nx i s).slot 1 == (if w == 0x10101 then none else some capSlot))) = true := by decide +kernel
/-- A push that has come to its reservation, in an inactive slot, with a full edge and with a free slot. -/
theorem witness_PushResumes : ([63, 64].all fun n =>
    let i : Instr := .eput { fp with pred := 1 }
    let t := onPush i n 0 0 0 (some capSlot) 1
    let s := t.setSq { t.sq with pushing := some { edge := t.portEdge true 0, bits := 5, xfer := [1], shares := [] } }
    issuesB i s && !s.ctx.id.harv && canonB s && (s.edge s.domOf (s.portEdge true 0)).isSome && (nx i s).sq.pushing.isNone == (n == 63) &&
      (nx i s).slot 1 == (if n = 63 then none else some capSlot)) = true := by decide +kernel

/-- A wait behind another that came before it, with one count and with two; a signal behind another, with room for one and for two. -/
theorem witness_Semaphores_order :
    let f : XR := { fr with d := 0, a := 0, b := 0, m := 2, x := 63 }
    ([(Instr.semwait f, false, (1 : BitVec 16)), (.semwait f, false, 2), (.semsig f, true, 65534), (.semsig f, true, 65533)].all fun p =>
      let t := at_ p.1
      let w : SemWait := { sem := 63, signal := p.2.1, who := .inl (t.ctx.id, .ex) }
      let s := ({ t with binds := [brec 0 true 0], core := { t.core with sem := t.core.sem.set 63 p.2.2, semq := [w] } } : State).modCtx fun c =>
        { c with seqs := c.seqs.set .ex { c.seqs.ex with run := .running, wait := .sem } }
      ready p.1 s && s.turn != .ex && s.semLive w && ((nx p.1 s).sq.wait == .sem) == (p.2.2 == 1 || p.2.2 == 65534)) = true := by decide +kernel
/-- The head of a queue that waits on a semaphore of one count, behind a sequencer that waits for it. -/
theorem witness_QueueHeads_order :
    let e := { entOf State.reset (.macz 1) with sw := some 5 }
    let w : SemWait := { sem := 5, signal := false, who := .inl (State.reset.ctx.id, .ex) }
    let s := ({ State.reset with binds := [brec 0 true 0], core := { State.reset.core with matq := [e], sem := State.reset.core.sem.set 5 1, semq := [w] } } : State).modCtx
      fun c => { c with seqs := c.seqs.set .ex { c.seqs.ex with run := .running, wait := .sem } }
    aheadOf s 5 false e.num = 1 ∧ (nx .tileEntry s).core.matq.length = 1 ∧ (nx .tileEntry s).core.semq.length = 2 := by decide +kernel

/-- A token that is lacking, for forms of each layout; an inactive slot and inactive lanes. -/
theorem witness_TokenWaits_forms :
    ([Instr.vadd { fw with tok := 0xF }, .vsel { fr with tok := 0xF }, .ld { fm with tok := 0xF }, .li { fi with a := 0, tok := 0xF }].all fun i =>
      let s := at_ i
      !s.sq.skip && (decodeTrap s (shape i) (checks i) (dynBad s i)).isNone && encodable i && (waitLinks s.turn 0xF).any fun l => s.ctx.tok.get l == 0) = true ∧
    ([Instr.vadd { fw with pred := 1 }, .vld { fv with pred := 1 }, .srtsort { f0 with d := 4, a := 6, pred := 1 }].all fun i =>
      issuesB i (at_ i) && laneForm (shape i) && lanesAt i (bg i (at_ i)) == 0 && encodable i) = true := by decide +kernel

/-- A write that the ports have sent and no answer has come for. -/
theorem witness_PeerAnswers_one : ∃ p t, sentPeer.somePeer = some (p, t) ∧ (sentPeer.peers.map (·.pkt)).Nodup ∧
    State.reset.switches p.dom p.job = false := by
  obtain ⟨o, u, h, _⟩ := witness_AsksCaptured_answers
  exact ⟨o, u, h, by decide +kernel, rfl⟩
/-- A region at its end with a buffered byte and a buffered record. -/
theorem witness_HarvestCommits_stands :
    let t := onEdge [.published] State.reset
    let p : PushBuf := { edge := t.portEdge true 0, bits := 5, xfer := [], shares := [] }
    let s := ({ t with core := { t.core with parts := t.core.parts.set 0 { t.core.parts.get 0 with lease := .held } } } : State).modCtx fun c =>
      let c : Ctx := { openRgn c with rgns := (openRgn c).rgns.map fun r => { r with mask := 15 } }
      let m := fun (x : Seqr) => atMark false true x
      { c with id := { c.id with harv := true }, pushes := [p], sbuf := [{ sp := .spad, block := 3, data := 7, mask := 1 }]
               seqs := { ld := m c.seqs.ld, ex := m c.seqs.ex, st := m c.seqs.st, sc := m c.seqs.sc } }
    let u := nx (.harvestCommit 9) s
    s.pushesFit = true ∧ s.ctx.pendFits = true ∧ s.ctx.sbufPeer = 0 ∧ u.ctx.rgns = [] ∧ u.ctx.sbuf = [] ∧ u.ctx.pushes = [] ∧ u.byteAt { sp := .spad, a := 192 } = 7 ∧
      (u.edge u.domOf p.edge).any (fun x => x.slots == [.published, .published]) = true := by decide +kernel
/-- SHAKE256 of no bytes, as FIPS 202 gives it. -/
theorem test_shake256 : shake256 [] = [0x46, 0xB9, 0xDD, 0x2B, 0x0B, 0xA8, 0x8D, 0x13, 0x23, 0x3B, 0x3F, 0xEB, 0x74, 0x3E, 0xEB, 0x24, 0x3F, 0xCD, 0x52, 0xEA, 0x62, 0xB8, 0x1B, 0x82,
    0xB5, 0x0C, 0x27, 0x64, 0x6E, 0xD5, 0x76, 0x2F] := by decide +kernel

end Sys2Proof.Tests
end

section
/-! What a record for an exception queue comes to (R11, R13, R385, R424, R429), and the command MINVUP (R452). -/

namespace Sys2Proof.Proofs
open Sys2Proof Sys2Proof.Machine Sys2Proof.Claims Sys2Proof.Laws

/-! ## Fields of a word -/

theorem getLsbD_put {n lo w v i : Nat} (h : i < n) :
    (put n lo w v).getLsbD i = (decide (lo ≤ i ∧ i < lo + w) && v.testBit (i - lo)) := by
  rw [put, BitVec.getLsbD_ofNat, Nat.testBit_mul_two_pow, Nat.testBit_mod_two_pow, decide_eq_true h, Bool.true_and,
    ← Bool.and_assoc, ← Bool.decide_and]
  congr 2
  exact propext (by omega)

/-- A field that is set replaces its own bits and no other. -/
theorem getLsbD_setFld {n lo w v i : Nat} {x : BitVec n} (h : i < n) :
    (setFld x lo w v).getLsbD i = if lo ≤ i ∧ i < lo + w then v.testBit (i - lo) else x.getLsbD i := by
  rw [setFld, BitVec.getLsbD_or, BitVec.getLsbD_and, BitVec.getLsbD_not, getLsbD_put h, getLsbD_put h,
    Nat.testBit_two_pow_sub_one]
  split
  case isTrue hi =>
    have hw : i - lo < w := by omega
    simp [h, hi, hw]
  case isFalse hi => simp [h, hi]

theorem extract_setFld_same {n lo w : Nat} {x : BitVec n} (v : BitVec w) (h : lo + w ≤ n) :
    (setFld x lo w v.toNat).extractLsb' lo w = v := by
  refine BitVec.eq_of_getLsbD_eq fun i hi => ?_
  rw [BitVec.getLsbD_extractLsb', getLsbD_setFld (by omega), if_pos (by omega), Nat.add_sub_cancel_left, BitVec.testBit_toNat]
  simp [hi]

theorem extract_setFld_disjoint {n lo w v a k : Nat} {x : BitVec n} (h : a + k ≤ n) (hd : a + k ≤ lo ∨ lo + w ≤ a) :
    (setFld x lo w v).extractLsb' a k = x.extractLsb' a k := by
  refine BitVec.eq_of_getLsbD_eq fun i hi => ?_
  rw [BitVec.getLsbD_extractLsb', BitVec.getLsbD_extractLsb', getLsbD_setFld (by omega), if_neg (by omega)]

theorem fld_eq_extract_toNat {n : Nat} (x : BitVec n) (lo w : Nat) : fld x lo w = (x.extractLsb' lo w).toNat := by
  rw [fld, BitVec.extractLsb'_toNat, Nat.shiftRight_eq_div_pow]

/-! ## Host memory -/

theorem length_leBytes (k v : Nat) : (leBytes k v).length = k := by
  induction k generalizing v with
  | zero => rfl
  | succ k ih => simp [leBytes, ih]

@[simp] theorem length_toBytes {n : Nat} (x : BitVec n) : (toBytes x).length = n / 8 := length_leBytes _ _

/-- Bytes set at the addresses of places, one after the other. -/
def setEach (m : Memory) (pbs : List (Place × Byte)) : Memory := pbs.foldl (fun m x => Memory.set m x.1.a x.2) m

theorem get_setEach_outside {a : Nat} : ∀ {pbs : List (Place × Byte)} {m : Memory}, (∀ x ∈ pbs, a ≠ x.1.a) →
    Memory.get (setEach m pbs) a = Memory.get m a := by
  intro pbs
  induction pbs with
  | nil => intros; rfl
  | cons x pbs ih =>
    intro m h
    obtain ⟨hx, ht⟩ := List.forall_mem_cons.mp h
    rw [setEach, List.foldl_cons, ← setEach, ih ht, Memory.get_set_ne hx]

/-- Bytes set at different addresses are read back. -/
theorem map_get_setEach_zip : ∀ {ps : List Place} {bs : List Byte} {m : Memory}, Memory.wf m = true →
    (ps.map Place.a).Nodup → ps.length = bs.length →
    ps.map (fun p => Memory.get (setEach m (ps.zip bs)) p.a) = bs := by
  intro ps
  induction ps with
  | nil => intro bs m _ _ hl; exact (List.length_eq_zero_iff.mp hl.symm).symm
  | cons p ps ih =>
    intro bs m hm hn hl
    obtain _ | ⟨b, bs⟩ := bs
    · simp at hl
    obtain ⟨hp, hn⟩ := List.nodup_cons.mp hn
    have hout : ∀ x ∈ ps.zip bs, p.a ≠ x.1.a := fun x hx e =>
      hp (e ▸ List.mem_map_of_mem (List.of_mem_zip hx).1)
    rw [List.zip_cons_cons, setEach, List.foldl_cons, ← setEach, List.map_cons, get_setEach_outside hout,
      Memory.get_set_same hm, ih (Memory.wf_set _ _ hm) hn (Nat.succ.inj hl)]

theorem hostKey_injective {x : Dom} {a b : Nat} (ha : a < 2 ^ 64) (hb : b < 2 ^ 64) (h : x.hostKey a = x.hostKey b) :
    a = b := by
  unfold Dom.hostKey at h; omega

/-- HWERR has no part in where the host window stands. -/
theorem hostKey_set_hwerr (x : Dom) (w : Word) : ({ x with host := x.host.set 3 w } : Dom).hostKey = x.hostKey := by
  funext o
  have h : (x.host.set 3 w).get 0 = x.host.get 0 := Vector.getElem_set_ne (by decide) (by decide) (by decide)
  simp only [Dom.hostKey, h]

theorem hwlen_lt (x : Dom) : x.hwlen < 2 ^ 40 := Nat.mod_lt _ (by decide)

theorem mem_hostAt {s : State} {d : BitVec 4} {o n : Nat} {p : Place} :
    p ∈ s.hostAt d o n ↔ ∃ k < n, p = { sp := .host, a := (s.dom d).hostKey (o + k) } := by
  simp [State.hostAt, upTo, eq_comm]

/-! ## Writes of the device to host memory, and what they leave -/

/-- What the delivery of an exception record goes by: the arbiter, the package's number, and of every domain its queues and
where its host window stands. -/
structure KeepsQueues (s t : State) : Prop where
  arbseq : t.arbseq = s.arbseq
  gts : t.gts = s.gts
  pkgno : t.pkg.pkgno = s.pkg.pkgno
  queues : ∀ d, (t.dom d).queues = (s.dom d).queues
  window : ∀ d, (t.dom d).hostKey = (s.dom d).hostKey

theorem KeepsQueues.trans {s t u : State} (h : KeepsQueues s t) (k : KeepsQueues t u) : KeepsQueues s u where
  arbseq := k.arbseq.trans h.arbseq
  gts := k.gts.trans h.gts
  pkgno := k.pkgno.trans h.pkgno
  queues d := (k.queues d).trans (h.queues d)
  window d := (k.window d).trans (h.window d)

theorem KeepsQueues.findQ {s t : State} (h : KeepsQueues s t) (d : BitVec 4) (q : BitVec 6) : t.findQ d q = s.findQ d q := by
  rw [State.findQ, h.queues, State.findQ]

theorem hostAt_congr {s t : State} {d : BitVec 4} (h : (t.dom d).hostKey = (s.dom d).hostKey) (o n : Nat) :
    t.hostAt d o n = s.hostAt d o n := by
  rw [State.hostAt, h, State.hostAt]

theorem hostAnswer_keepsQueues (s : State) (d : BitVec 4) : KeepsQueues s (s.hostAnswer d).2 := by
  have hdom (e : BitVec 4) : ((s.hostAnswer d).2.dom e).queues = (s.dom e).queues ∧
      ((s.hostAnswer d).2.dom e).hostKey = (s.dom e).hostKey := by
    rw [State.hostAnswer, dom_modDom]
    split
    · exact ⟨rfl, hostKey_set_hwerr _ _⟩
    · exact ⟨rfl, rfl⟩
  exact { arbseq := rfl, gts := rfl, pkgno := rfl, queues := fun e => (hdom e).1, window := fun e => (hdom e).2 }

theorem hostPut_keepsQueues (s : State) (d : BitVec 4) (ps : List Place) (bs : List Byte) :
    KeepsQueues s (s.hostPut d ps bs) :=
  (hostAnswer_keepsQueues s d).trans ⟨rfl, rfl, rfl, fun _ => rfl, fun _ => rfl⟩

theorem writeHost_keepsQueues (s : State) (d : BitVec 4) (o : Nat) (bs : List Byte) : KeepsQueues s (s.writeHost d o bs) :=
  hostPut_keepsQueues ..

theorem putIdx_keepsQueues (s : State) (d : BitVec 4) (ctl : Word) (off : Nat) (v : BitVec 32) :
    KeepsQueues s (s.putIdx d ctl off v) := hostPut_keepsQueues ..

theorem readIdx_keepsQueues (s : State) (d : BitVec 4) (ctl : Word) (off : Nat) : KeepsQueues s (s.readIdx d ctl off).2 :=
  (hostAnswer_keepsQueues s d).trans ⟨rfl, rfl, rfl, fun _ => rfl, fun _ => rfl⟩

/-- A write that the host refuses is lost (R429). -/
theorem hostPut_hostmem (s : State) (d : BitVec 4) (ps : List Place) (bs : List Byte) :
    (s.hostPut d ps bs).hostmem = if Config.freeBool s.fresh then s.hostmem else setEach s.hostmem (ps.zip bs) := rfl

theorem hostBytes_eq_map_get (s : State) (d : BitVec 4) (o n : Nat) :
    s.hostBytes d o n = (s.hostAt d o n).map fun p => Memory.get s.hostmem p.a := by
  refine List.map_congr_left fun p hp => ?_
  obtain ⟨k, -, rfl⟩ := mem_hostAt.mp hp
  rfl

theorem hostBytes_congr {s t : State} {d : BitVec 4} {o n : Nat} (hw : (t.dom d).hostKey = (s.dom d).hostKey)
    (hm : ∀ p ∈ s.hostAt d o n, Memory.get t.hostmem p.a = Memory.get s.hostmem p.a) :
    t.hostBytes d o n = s.hostBytes d o n := by
  rw [hostBytes_eq_map_get, hostBytes_eq_map_get, hostAt_congr hw]
  exact List.map_congr_left hm

/-- Places whose addresses a write does not name keep their bytes, whatever the host answers. -/
theorem hostBytes_hostPut_outside {s : State} {d e : BitVec 4} {o n : Nat} {ps : List Place} {bs : List Byte}
    (h : ∀ p ∈ s.hostAt e o n, ∀ q ∈ ps, p.a ≠ q.a) : (s.hostPut d ps bs).hostBytes e o n = s.hostBytes e o n := by
  refine hostBytes_congr ((hostPut_keepsQueues s d ps bs).window e) fun p hp => ?_
  rw [hostPut_hostmem]
  split
  · rfl
  · exact get_setEach_outside fun x hx => h p hp x.1 (List.of_mem_zip hx).1

/-- Bytes written to a domain's host memory are read back where the host takes them. -/
theorem hostBytes_writeHost {s : State} {d : BitVec 4} {o : Nat} {bs : List Byte} (hm : Memory.wf s.hostmem = true)
    (hok : Config.freeBool s.fresh = false) (ho : o + bs.length ≤ 2 ^ 64) :
    (s.writeHost d o bs).hostBytes d o bs.length = bs := by
  have hwin := (hostPut_keepsQueues s d (s.hostAt d o bs.length) bs).window d
  have hn : ((s.hostAt d o bs.length).map Place.a).Nodup := by
    rw [State.hostAt, List.map_map, List.Nodup, List.pairwise_map]
    refine List.nodup_range.imp_of_mem fun ha hb hab e => hab ?_
    rw [List.mem_range] at ha hb
    have := hostKey_injective (by omega) (by omega) e
    omega
  rw [State.writeHost, hostBytes_eq_map_get, hostAt_congr hwin, hostPut_hostmem, hok, if_neg Bool.false_ne_true]
  exact map_get_setEach_zip hm hn (by simp [State.hostAt])

/-- A count written to a control block changes nothing outside the block. -/
theorem hostBytes_putIdx_outside {s : State} {d : BitVec 4} {ctl : Word} {off o n : Nat} {v : BitVec 32} (hoff : off + 4 ≤ 64)
    (hctl : ctl.toNat + 64 ≤ 2 ^ 64) (ho : o + n ≤ 2 ^ 64) (hd : ctl.toNat + 64 ≤ o ∨ o + n ≤ ctl.toNat) :
    (s.putIdx d ctl off v).hostBytes d o n = s.hostBytes d o n := by
  refine hostBytes_hostPut_outside fun p hp q hq e => ?_
  obtain ⟨i, hi, rfl⟩ := mem_hostAt.mp hp
  rcases List.mem_append.mp hq with hq | hq
  all_goals
    obtain ⟨j, hj, rfl⟩ := mem_hostAt.mp hq
    have := hostKey_injective (by omega) (by omega) e
    omega

/-! ## The message of a queue -/

theorem queueIrq_only (s : State) (d : BitVec 4) (q : BitVec 6) : s.queueIrq d q =
    { s with pkg := { s.pkg with irqs := (s.queueIrq d q).pkg.irqs }, fresh := (s.queueIrq d q).fresh } := by
  unfold State.queueIrq State.entryIrq
  split
  · split
    · rfl
    · rfl
  · rfl

theorem queueIrq_hostmem (s : State) (d : BitVec 4) (q : BitVec 6) : (s.queueIrq d q).hostmem = s.hostmem := by
  rw [queueIrq_only]

theorem queueIrq_keepsQueues (s : State) (d : BitVec 4) (q : BitVec 6) : KeepsQueues s (s.queueIrq d q) := by
  rw [queueIrq_only]
  exact ⟨rfl, rfl, rfl, fun _ => rfl, fun _ => rfl⟩

/-! ## The queue that a change is made to -/

theorem modQ_hostKey (s : State) (d e : BitVec 4) (q : BitVec 6) (f : SubQ → SubQ) :
    ((s.modQ d q f).dom e).hostKey = (s.dom e).hostKey := by
  rw [State.modQ, dom_modDom]
  split
  · rfl
  · rfl

theorem find_map_keeping_num {q : BitVec 6} {f : SubQ → SubQ} (hf : ∀ y, (f y).num = y.num) (l : List SubQ) :
    (l.map fun y => if y.num = q then f y else y).find? (fun x => x.num == q) = (l.find? fun x => x.num == q).map f := by
  induction l with
  | nil => rfl
  | cons y l ih =>
    rw [List.map_cons]
    by_cases h : y.num = q
    · simp [h, hf]
    · simp [h, ih]

theorem findQ_modQ_same {s : State} {d : BitVec 4} {q : BitVec 6} (f : SubQ → SubQ) (hf : ∀ y, (f y).num = y.num) :
    (s.modQ d q f).findQ d q = (s.findQ d q).map f := by
  rw [State.findQ, State.modQ, dom_modDom_same]
  exact find_map_keeping_num hf _

/-! ## Room in the exception queue (R385) -/

/-- A look at the room of an exception queue may read EQHEAD again, and changes nothing else that a delivery goes by. -/
theorem eqLook_cases (s : State) (d : BitVec 4) (x : SubQ) :
    (s.eqLook d x).2 = s ∨ ∃ v u, KeepsQueues s u ∧ u.hostmem = s.hostmem ∧
      (s.eqLook d x).2 = u.modQ d x.num fun y => { y with eqhead := v } := by
  unfold State.eqLook
  split
  · exact .inl rfl
  · exact .inr ⟨_, _, readIdx_keepsQueues s d x.ctl 0x14, rfl, rfl⟩

/-- The state in which the record of a queue that has been looked at is delivered. -/
structure Looked (d : BitVec 4) (x : SubQ) (s t : State) : Prop where
  arbseq : t.arbseq = s.arbseq
  gts : t.gts = s.gts
  pkgno : t.pkg.pkgno = s.pkg.pkgno
  hostmem : t.hostmem = s.hostmem
  found : ∃ y, t.findQ d x.num = some y ∧ y.eqtail = x.eqtail

theorem eqLook_looked {s : State} {d : BitVec 4} {x : SubQ} (h : s.findQ d x.num = some x) : Looked d x s (s.eqLook d x).2 := by
  obtain e | ⟨v, u, hu, hm, e⟩ := eqLook_cases s d x
  · rw [e]; exact ⟨rfl, rfl, rfl, rfl, x, h, rfl⟩
  · rw [e]
    refine ⟨hu.arbseq, hu.gts, hu.pkgno, hm, { x with eqhead := v }, ?_, rfl⟩
    rw [findQ_modQ_same (fun y => { y with eqhead := v }) fun _ => rfl, hu.findQ, h, Option.map_some]

/-! ## The record that is delivered (R11, R13, R424) -/

/-- A record as the arbiter stamps it (R11): ARBSEQ and GTS. -/
def stamped (s : State) (r : BitVec 512) : BitVec 512 := setFld (setFld r 0x100 64 s.arbseq.toNat) 0x140 64 s.gts.toNat

/-- A GANGF record of this package that names no origin yet (R424). -/
abbrev OwnGangf (s : State) (r : BitVec 512) : Prop :=
  fld r 0 8 = 0x81 ∧ fld r 400 16 = s.pkg.pkgno.toNat ∧ fld r 448 64 = 0

/-- A stamped record with its ORIG. -/
def originated (s : State) (r : BitVec 512) : BitVec 512 :=
  if OwnGangf s (stamped s r) then setFld (stamped s r) 448 64 s.arbseq.toNat else stamped s r

/-- The record as it is written for a queue: OVERFLOW and LOST tell of the records discarded before it (R13). -/
def delivered (s : State) (x : SubQ) (r : BitVec 512) : BitVec 512 :=
  if x.lost = 0 then originated s r else setFld (setFld (originated s r) 11 1 1) 112 16 x.lost.toNat

/-- The state once the arbiter has counted the record and a GANGF record of this package has been sent over the fabric (R424). -/
def counted (s : State) (d : BitVec 4) (r : BitVec 512) : State :=
  let t : State := { s with arbseq := s.arbseq + 1 }
  if OwnGangf s (stamped s r) then
    t.sendGangf d (fldv (originated s r) 64 32) 1 (fldv (originated s r) 416 16) s.arbseq
  else t

/-- A queue once a record has been delivered to it: it has lost none since. -/
def afterRecord (y : SubQ) : SubQ := { y with eqtail := y.eqtail + 1, lost := 0 }

/-- The byte offset of the slot that the next record of an exception queue takes (R385). -/
def recordSlot (x : SubQ) : Nat := x.exq.toNat + 64 * (x.eqtail.toNat % 2 ^ x.m)

/-- The parts of a delivery, in their order. -/
theorem putRec_snd (s : State) (d : BitVec 4) (x : SubQ) (r : BitVec 512) :
    (s.putRec d x r).2 =
      ((((counted s d r).writeHost d (recordSlot x) (toBytes (delivered s x r))).modQ d x.num afterRecord).putIdx d x.ctl 0x10
        (x.eqtail + 1)).queueIrq d x.num := rfl

theorem counted_only (s : State) (d : BitVec 4) (r : BitVec 512) :
    counted s d r = { s with arbseq := s.arbseq + 1, fabout := (counted s d r).fabout } := by
  unfold counted
  dsimp only
  split
  · rfl
  · rfl

theorem counted_keepsQueues (s : State) (d : BitVec 4) (r : BitVec 512) :
    KeepsQueues { s with arbseq := s.arbseq + 1 } (counted s d r) := by
  rw [counted_only]
  exact ⟨rfl, rfl, rfl, fun _ => rfl, fun _ => rfl⟩

theorem counted_host (s : State) (d : BitVec 4) (r : BitVec 512) :
    (counted s d r).hostmem = s.hostmem ∧ (counted s d r).fresh = s.fresh := by
  rw [counted_only]
  exact ⟨rfl, rfl⟩

/-! ### Its fields -/

theorem extract_originated {s : State} {r : BitVec 512} {a k : Nat} (h : a + k ≤ 512) (hd : a + k ≤ 448) :
    (originated s r).extractLsb' a k = (stamped s r).extractLsb' a k := by
  unfold originated
  split
  · exact extract_setFld_disjoint h (.inl hd)
  · rfl

theorem extract_delivered {s : State} {x : SubQ} {r : BitVec 512} {a k : Nat} (h : a + k ≤ 512) (hd : 128 ≤ a) :
    (delivered s x r).extractLsb' a k = (originated s r).extractLsb' a k := by
  unfold delivered
  split
  · rfl
  · rw [extract_setFld_disjoint h (.inr (by omega)), extract_setFld_disjoint h (.inr (by omega))]

/-- Outside ARBSEQ and GTS a record is stamped as it was. -/
theorem extract_stamped {s : State} {r : BitVec 512} {a k : Nat} (h : a + k ≤ 512) (hd : a + k ≤ 0x100 ∨ 0x180 ≤ a) :
    (stamped s r).extractLsb' a k = r.extractLsb' a k := by
  rw [stamped, extract_setFld_disjoint h (by omega), extract_setFld_disjoint h (by omega)]

theorem delivered_arbseq (s : State) (x : SubQ) (r : BitVec 512) : (delivered s x r).extractLsb' 256 64 = s.arbseq := by
  rw [extract_delivered (by decide) (by decide), extract_originated (by decide) (by decide), stamped,
    extract_setFld_disjoint (by decide) (by decide), extract_setFld_same _ (by decide)]

theorem delivered_gts (s : State) (x : SubQ) (r : BitVec 512) : (delivered s x r).extractLsb' 320 64 = s.gts := by
  rw [extract_delivered (by decide) (by decide), extract_originated (by decide) (by decide), stamped,
    extract_setFld_same _ (by decide)]

/-- A GANGF record of another package keeps its ORIG (R424). -/
theorem delivered_orig_of_other {s : State} {x : SubQ} {r : BitVec 512}
    (h : (r.extractLsb' 400 16 : BitVec 16).toNat ≠ s.pkg.pkgno.toNat) :
    (delivered s x r).extractLsb' 448 64 = r.extractLsb' 448 64 := by
  have hother : ¬ OwnGangf s (stamped s r) := fun ⟨_, hpkg, _⟩ => h <| by
    rw [← hpkg, fld_eq_extract_toNat, extract_stamped (by decide) (by decide)]
  rw [extract_delivered (by decide) (by decide), originated, if_neg hother, extract_stamped (by decide) (by decide)]

theorem getLsbD_eq_extract {n : Nat} (x : BitVec n) (i : Nat) : x.getLsbD i = (x.extractLsb' i 1).getLsbD 0 := by
  simp

/-- The record after lost ones tells of them (R13). -/
theorem delivered_tells {s : State} {x : SubQ} {r : BitVec 512} (h : x.lost ≠ 0) :
    (delivered s x r).getLsbD 11 = true ∧ (delivered s x r).extractLsb' 112 16 = x.lost := by
  rw [delivered, if_neg h]
  refine ⟨?_, extract_setFld_same _ (by decide)⟩
  rw [getLsbD_setFld (by decide), if_neg (by decide), getLsbD_setFld (by decide), if_pos (by decide)]
  rfl

/-- With none lost it keeps the bits it came with. -/
theorem delivered_keeps {s : State} {x : SubQ} {r : BitVec 512} (h : x.lost = 0) :
    (delivered s x r).getLsbD 11 = r.getLsbD 11 ∧ (delivered s x r).extractLsb' 112 16 = r.extractLsb' 112 16 := by
  rw [delivered, if_pos h, getLsbD_eq_extract, extract_originated (by decide) (by decide), extract_stamped (by decide) (by decide),
    ← getLsbD_eq_extract, extract_originated (by decide) (by decide), extract_stamped (by decide) (by decide)]
  exact ⟨rfl, rfl⟩

/-! ### What its delivery leaves -/

theorem putRec_arbseq (s : State) (d : BitVec 4) (x : SubQ) (r : BitVec 512) : (s.putRec d x r).2.arbseq = s.arbseq + 1 := by
  rw [putRec_snd, (queueIrq_keepsQueues ..).arbseq, (putIdx_keepsQueues ..).arbseq, modQ_arbseq, (writeHost_keepsQueues ..).arbseq,
    (counted_keepsQueues ..).arbseq]

/-- The queue counts the record, and begins anew to count lost ones. -/
theorem putRec_findQ (s : State) (d : BitVec 4) (x : SubQ) (r : BitVec 512) :
    (s.putRec d x r).2.findQ d x.num = (s.findQ d x.num).map afterRecord := by
  rw [putRec_snd, (queueIrq_keepsQueues ..).findQ, (putIdx_keepsQueues ..).findQ, findQ_modQ_same afterRecord fun _ => rfl,
    (writeHost_keepsQueues ..).findQ, (counted_keepsQueues ..).findQ]
  rfl

/-- Where the host takes the write, the record stands in its slot; the control block, written after it, lies elsewhere. -/
theorem putRec_hostBytes {s : State} {d : BitVec 4} {x : SubQ} (r : BitVec 512) (hm : Memory.wf s.hostmem = true)
    (hok : Config.freeBool s.fresh = false) (hslot : recordSlot x + 64 ≤ 2 ^ 64) (hctl : x.ctl.toNat + 64 ≤ 2 ^ 64)
    (hd : x.ctl.toNat + 64 ≤ recordSlot x ∨ recordSlot x + 64 ≤ x.ctl.toNat) :
    (s.putRec d x r).2.hostBytes d (recordSlot x) 64 = toBytes (delivered s x r) := by
  obtain ⟨hmem, hfresh⟩ := counted_host s d r
  rw [putRec_snd, hostBytes_congr ((queueIrq_keepsQueues ..).window d) fun p _ => by rw [queueIrq_hostmem],
    hostBytes_putIdx_outside (by decide) hctl hslot hd, hostBytes_congr (modQ_hostKey ..) fun p _ => rfl]
  have hlen : (toBytes (delivered s x r)).length = 64 := length_toBytes _
  have h := hostBytes_writeHost (d := d) (hmem ▸ hm) (hfresh ▸ hok) (hlen.symm ▸ hslot)
  rwa [hlen] at h

/-! ## Reports -/

theorem report_of_room {s : State} {d : BitVec 4} {x : SubQ} (r : BitVec 512) (hf : s.findQ d x.num = some x)
    (h : s.eqRoom d x = true) : s.report d x.num r = ((s.eqLook d x).2.putRec d x r).2 := by
  rw [State.eqRoom] at h
  simp only [State.report, hf, h, if_true]

/-- A record for a full exception queue is discarded and counted (R13). -/
theorem report_of_full {s : State} {d : BitVec 4} {x : SubQ} (r : BitVec 512) (hf : s.findQ d x.num = some x)
    (h : s.eqRoom d x = false) : s.report d x.num r =
      (s.eqLook d x).2.modQ d x.num fun y => { y with lost := if y.lost = 0xFFFF then 0xFFFF else y.lost + 1 } := by
  rw [State.eqRoom] at h
  have hones : BitVec.allOnes 16 = 0xFFFF := rfl
  simp only [State.report, hf, h, hones, Bool.false_eq_true, if_false]
  refine congrArg ((s.eqLook d x).2.modQ d x.num) (funext fun y => ?_)
  split
  case isTrue hl => rw [hl]
  case isFalse => rfl

/-- The ring and the control block of a queue that can be read lie within the host window, far below 2^64. -/
theorem recordSlot_bounds {s : State} {d : BitVec 4} {x : SubQ} (h : s.queueReadable d x = true) :
    recordSlot x + 64 ≤ x.exq.toNat + 64 * 2 ^ x.m ∧ x.exq.toNat + 64 * 2 ^ x.m ≤ 2 ^ 64 ∧ x.ctl.toNat + 64 ≤ 2 ^ 64 := by
  simp only [State.queueReadable, Bool.and_eq_true, decide_eq_true_eq] at h
  obtain ⟨⟨-, hexq⟩, hctl⟩ := h
  have hw := hwlen_lt (s.dom d)
  have hslot : x.eqtail.toNat % 2 ^ x.m < 2 ^ x.m := Nat.mod_lt _ (Nat.two_pow_pos _)
  unfold recordSlot
  omega

theorem lostRecords : LostRecords := by
  intro d x r s hf t
  refine ⟨report_of_full r hf, fun hroom hs => ⟨delivered t x r, (t.putRec d x r).2, (report_of_room r hf hroom).symm, ?_⟩⟩
  have ht : Looked d x s t := eqLook_looked hf
  refine ⟨fun hread hapart hok => ?_, fun _ hother => ?_, delivered_tells, delivered_keeps, ?_, ?_, ?_, fun y hy => ?_⟩
  · obtain ⟨hin, hring, hctl⟩ := recordSlot_bounds hread
    have hle : x.exq.toNat ≤ recordSlot x := Nat.le_add_right _ _
    exact putRec_hostBytes r (ht.hostmem ▸ hs.hosts) hok (by omega) hctl (by omega)
  · exact delivered_orig_of_other (ht.pkgno ▸ hother)
  · rw [delivered_arbseq, ht.arbseq]
  · rw [delivered_gts, ht.gts]
  · rw [putRec_arbseq, ht.arbseq]
  · obtain ⟨z, hz, htail⟩ := ht.found
    rw [putRec_findQ, hz, Option.map_some, Option.some.injEq] at hy
    subst hy
    exact ⟨rfl, congrArg (· + 1) htail⟩

/-! ## MINVUP (R452) -/

/-- MINVUP answers 0x00, and raises MINVER to the VERSION of the running image where that is greater. -/
theorem exec_minvup (s : State) : exec .minvup s = .next { s with pkg := { (if s.pkg.minver.ult s.pkg.version then
    { s.pkg with minver := s.pkg.version, bootstat := setFld s.pkg.bootstat 48 16 s.pkg.version.toNat } else s.pkg) with
      resp := some [0] } } := rfl

theorem minimumVersion : MinimumVersion := by
  intro s
  have hult := BitVec.ult_iff_lt (x := s.pkg.minver) (y := s.pkg.version)
  refine ⟨fun h => ⟨setFld s.pkg.bootstat 48 16 s.pkg.version.toNat, ?_⟩, fun h => ?_, _, exec_minvup s, ?_⟩
  · rw [Responds, exec_minvup, if_pos (hult.mpr h)]
  · rw [Responds, exec_minvup, if_neg fun k => absurd (hult.mp k) (Nat.not_lt.mpr h)]
  · dsimp only
    split
    case isTrue h => exact Nat.le_of_lt (hult.mp h)
    case isFalse => exact Nat.le_refl _

/-- Settles O60: a delivery is taken apart into its parts, and the record's fields are read one by one; MINVUP by whether VERSION
is greater. -/
theorem lostRecordsAndMinimumVersion : Obligations.LostRecordsAndMinimumVersion := ⟨lostRecords, minimumVersion⟩

end Sys2Proof.Proofs
end

section
/-! What issuing, reading and writing scalar operands, and completing leave of the state (R37, R47, R48, R94, R191), and the forms gts
(R265), disc (R267) and srseed (R285). -/

namespace Sys2Proof.Proofs
open Sys2Proof Sys2Proof.Machine Sys2Proof.Claims Sys2Proof.Laws

/-! ## Registers by number -/

theorem vget_vset_ne {α : Type} {n : Nat} [NeZero n] {v : Vector α n} {i k : Nat} {a : α} (hi : i < n) (hk : k < n) (h : k ≠ i) :
    vget (vset v i a) k = vget v k := by
  refine Vector.getElem_set_ne _ _ ?_
  simp only [Fin.ofNat, Nat.mod_eq_of_lt hi, Nat.mod_eq_of_lt hk]
  exact h.symm

theorem vget_ofFn {α : Type} {n : Nat} [NeZero n] (g : Fin n → α) {k : Nat} (hk : k < n) : vget (Vector.ofFn g) k = g ⟨k, hk⟩ := by
  refine (Vector.getElem_ofFn _).trans (congrArg g (Fin.ext ?_))
  exact Nat.mod_eq_of_lt hk

/-! ## What differs in the context alone -/

theorem onlyCtx_trans {s t u : State} (h : OnlyCtx s t) (k : OnlyCtx t u) : OnlyCtx s u := by
  unfold OnlyCtx at *; rw [k, h]

theorem onlyCtx_pkg {s t : State} (h : OnlyCtx s t) : t.pkg = s.pkg := by rw [h]

theorem onlyCtx_byteAt {s t : State} (h : OnlyCtx s t) (p : Place) : t.byteAt p = s.byteAt p := by
  rw [h]; obtain ⟨sp, a⟩ := p; cases sp <;> rfl

/-! ## Issue and completion

What they change of a context is its progress alone: sequencers but for their latches, tokens, the state it is in, open regions and
counts. -/

/-- Beside the progress of its sequencers, and there the latches, nothing of a context differs. -/
structure OnlyProgress (c k : Ctx) : Prop where
  only : k = { c with seqs := k.seqs, tok := k.tok, cst := k.cst, rgns := k.rgns, vblk := k.vblk }
  latch : ∀ r, (k.seqs.get r).latch = (c.seqs.get r).latch

theorem OnlyProgress.refl (c : Ctx) : OnlyProgress c c := ⟨rfl, fun _ => rfl⟩

theorem OnlyProgress.trans {c k l : Ctx} (h : OnlyProgress c k) (g : OnlyProgress k l) : OnlyProgress c l :=
  ⟨by rw [g.only, h.only], fun r => (g.latch r).trans (h.latch r)⟩

theorem latch_seqs_set {x : Seqs} {q : SeqId} {v : Seqr} (h : v.latch = (x.get q).latch) (r : SeqId) :
    ((x.set q v).get r).latch = (x.get r).latch := by
  by_cases hr : r = q
  · rw [hr, seqs_get_set_same, h]
  · rw [seqs_get_set_ne x v hr]

theorem seqs_get_map (x : Seqs) (f : SeqId → Seqr → Seqr) (r : SeqId) : (x.map f).get r = f r (x.get r) := by cases r <;> rfl

theorem recheck_latch (x : Seqr) : x.recheck.latch = x.latch := by unfold Seqr.recheck; split <;> rfl

theorem tryOpen_onlyProgress (c : Ctx) (n : BitVec 12) (m : BitVec 4) : OnlyProgress c (c.tryOpen n m) := by
  unfold Ctx.tryOpen
  split
  case isTrue =>
    refine ⟨rfl, fun r => ?_⟩
    dsimp only
    rw [seqs_get_map]
    split <;> rfl
  case isFalse => exact .refl c

theorem openAt_onlyProgress (c : Ctx) (q : SeqId) : OnlyProgress c (c.openAt q) := by
  unfold Ctx.openAt
  split
  · exact .refl c
  · split
    · exact .refl c
    · exact tryOpen_onlyProgress c _ _

theorem makeSignals_onlyProgress (c : Ctx) (q : SeqId) : OnlyProgress c (makeSignals c q) := ⟨rfl, latch_seqs_set rfl⟩

theorem settle_onlyProgress (c : Ctx) : OnlyProgress c c.settle := by
  unfold Ctx.settle
  split
  · exact ⟨rfl, fun _ => rfl⟩
  · exact .refl c

theorem count_onlyProgress (c : Ctx) (n k : Nat) : OnlyProgress c (c.count n k) := ⟨rfl, fun _ => rfl⟩

theorem OnlyProgress.ite {c k l : Ctx} {p : Prop} [Decidable p] (h : OnlyProgress c k) (g : OnlyProgress c l) :
    OnlyProgress c (if p then k else l) := by split <;> assumption

theorem finish_onlyProgress (s : State) (q : SeqId) (sig : List (Fin 8)) (n : Nat) : OnlyProgress s.ctx (s.finish q sig n).ctx := by
  unfold State.finish
  extract_lets seqs x y old c opened signalled
  have hseqs : ∀ r, (seqs.get r).latch = (s.ctx.seqs.get r).latch := fun r =>
    (congrArg Seqr.latch (seqs_get_map _ _ r)).trans (recheck_latch _)
  have hc : OnlyProgress s.ctx c := ⟨rfl, fun r => (latch_seqs_set (v := y) rfl r).trans (hseqs r)⟩
  have ho : OnlyProgress c opened := .ite (openAt_onlyProgress c q) (.refl c)
  have hs : OnlyProgress opened signalled := .ite (.refl opened) (makeSignals_onlyProgress opened q)
  exact hc.trans (ho.trans (hs.trans ((count_onlyProgress signalled 14 1).trans (settle_onlyProgress _))))

theorem done_onlyProgress (i : Instr) (s t : State) : OnlyProgress t.ctx (done i s t).ctx := finish_onlyProgress _ _ _ _
theorem done_onlyCtx (i : Instr) (s t : State) : OnlyCtx t (done i s t) := rfl

theorem begun_onlyProgress (i : Instr) (s : State) (tok : Vector (BitVec 4) 8) : OnlyProgress s.ctx (begun i s tok).ctx :=
  ⟨rfl, latch_seqs_set rfl⟩
theorem begun_onlyCtx (i : Instr) (s : State) (tok : Vector (BitVec 4) 8) : OnlyCtx s (begun i s tok) := rfl

/-! ## Scalar operands -/

theorem rS_register {sp : BitVec 6} {s t : State} {a : Word} (hsp : sp.toNat < 56) (h : Gives (rS sp) s a t) : t = s := by
  simp only [Gives, rS, hsp, if_true] at h
  split at h
  · cases h; rfl
  · split at h
    · cases h; rfl
    · split at h
      · cases h; rfl
      · cases h; rfl

/-- A scalar read that ends changes at most the queue that its specifier names. -/
theorem rS_state {sp : BitVec 6} {s t : State} {a : Word} (h : Gives (rS sp) s a t) :
    ∃ q, t = s.modCtx (fun c => { c with q := q }) ∧ ∀ k < 8, k + 56 ≠ sp.toNat → vget q k = vget s.ctx.q k := by
  by_cases hsp : sp.toNat < 56
  case pos => exact ⟨s.ctx.q, rS_register hsp h, fun _ _ _ => rfl⟩
  case neg =>
    have hlt := sp.isLt
    simp only [Gives, rS, hsp, show ¬sp.toNat < 32 by omega, show ¬sp.toNat < 48 by omega, show sp.toNat ≠ 48 by omega,
      if_false] at h
    split at h
    case h_1 => cases h
    case h_2 =>
      cases h
      exact ⟨_, rfl, fun k hk hne => vget_vset_ne (by omega) hk (by omega)⟩

/-! ## The frame of a scalar destination and scalar sources -/

theorem scalarFrame_refl (d : BitVec 6) (srcs : List (BitVec 6)) (s : State) : ScalarFrame d srcs s s :=
  ⟨rfl, fun _ => rfl, fun _ _ _ => rfl, fun _ _ _ => rfl, fun _ _ _ _ => rfl, rfl⟩

theorem scalarFrame_trans {d : BitVec 6} {srcs : List (BitVec 6)} {s t u : State} (h : ScalarFrame d srcs s t)
    (k : ScalarFrame d srcs t u) : ScalarFrame d srcs s u where
  outside := onlyCtx_trans h.outside k.outside
  bytes p := (k.bytes p).trans (h.bytes p)
  scalars n hn hd := (k.scalars n hn hd).trans (h.scalars n hn hd)
  opfile n hn hd := (k.opfile n hn hd).trans (h.opfile n hn hd)
  queues n hn hd hs := (k.queues n hn hd hs).trans (h.queues n hn hd hs)
  rest := by rw [k.rest, h.rest]

/-- Progress stays within the frame of every destination and all sources. -/
theorem scalarFrame_of_onlyProgress {d : BitVec 6} {srcs : List (BitVec 6)} {s t : State} (ho : OnlyCtx s t)
    (h : OnlyProgress s.ctx t.ctx) : ScalarFrame d srcs s t where
  outside := ho
  bytes := onlyCtx_byteAt ho
  scalars _ _ _ := by rw [h.only]
  opfile _ _ _ := by rw [h.only]
  queues _ _ _ _ := by rw [h.only]
  rest := by rw [h.only]

theorem rS_scalarFrame {d sp : BitVec 6} {srcs : List (BitVec 6)} {s t : State} {a : Word} (hsp : sp ∈ srcs)
    (h : Gives (rS sp) s a t) : ScalarFrame d srcs s t := by
  obtain ⟨q, rfl, hq⟩ := rS_state h
  exact ⟨rfl, onlyCtx_byteAt rfl, fun _ _ _ => rfl, fun _ _ _ => rfl, fun k hk _ hs => hq k hk (hs sp hsp).symm, rfl⟩

theorem setLatch_scalarFrame (d : BitVec 6) (srcs : List (BitVec 6)) (s : State) (v : Vec) : ScalarFrame d srcs s (s.setLatch v) :=
  ⟨rfl, onlyCtx_byteAt rfl, fun _ _ _ => rfl, fun _ _ _ => rfl, fun _ _ _ _ => rfl, rfl⟩

theorem wS2_scalarFrame {d : BitVec 6} {srcs : List (BitVec 6)} {x : Word} {s t : State} (h : Gives (wS2 d x) s () t) :
    ScalarFrame d srcs s t := by
  have hlt := d.isLt
  simp only [Gives, wS2] at h
  split at h
  case isTrue hs =>
    cases h
    exact ⟨rfl, onlyCtx_byteAt rfl, fun k hk hne => vget_vset_ne hs hk hne, fun _ _ _ => rfl, fun _ _ _ _ => rfl, rfl⟩
  case isFalse hs =>
  split at h
  case isTrue ho =>
    cases h
    exact ⟨rfl, onlyCtx_byteAt rfl, fun _ _ _ => rfl, fun k hk hne => vget_vset_ne (by omega) hk (by omega),
      fun _ _ _ _ => rfl, rfl⟩
  case isFalse ho =>
  split at h
  case isTrue => cases h; exact setLatch_scalarFrame d srcs s _
  case isFalse =>
  split at h
  case isTrue => cases h; exact scalarFrame_refl d srcs s
  case isFalse hz =>
  split at h
  case isTrue => cases h
  case isFalse =>
    cases h
    exact ⟨rfl, onlyCtx_byteAt rfl, fun _ _ _ => rfl, fun _ _ _ => rfl,
      fun k hk hne _ => vget_vset_ne (by omega) hk (by omega), rfl⟩

theorem wS_scalarFrame {d : BitVec 6} {srcs : List (BitVec 6)} {x : Word} {s t : State} (h : Gives (wS d x) s () t) :
    ScalarFrame d srcs s t := by
  unfold Gives wS at h
  split at h
  case h_1 => cases h
  case h_2 u hu =>
    cases h
    refine scalarFrame_trans (wS2_scalarFrame hu) ?_
    split
    · exact setLatch_scalarFrame d srcs u _
    · exact scalarFrame_refl d srcs u

/-- Issue and completion stay within the frame of what happens between them. -/
theorem done_scalarFrame {d : BitVec 6} {srcs : List (BitVec 6)} {i : Instr} {s t : State} {tok : Vector (BitVec 4) 8}
    (h : ScalarFrame d srcs (begun i s tok) t) : ScalarFrame d srcs s (done i s t) :=
  scalarFrame_trans (scalarFrame_of_onlyProgress (begun_onlyCtx i s tok) (begun_onlyProgress i s tok))
    (scalarFrame_trans h (scalarFrame_of_onlyProgress (done_onlyCtx i s t) (done_onlyProgress i s t)))

/-! ## gts (R265) -/

theorem exec_gts (f : XR) (s : State) : exec (.gts f) s = issue (.gts f) (whenSlot f.pred f.sense do
    let g ← Eff.gets fun s => s.gts
    wS f.d g) s := rfl

theorem timestampRead : TimestampRead := by
  refine fun f => ⟨rfl, fun _ => rfl, fun s tok t hi hon hw => ⟨?_, ?_⟩⟩
  · rw [exec_gts]
    exact issue_next hi (gives_whenSlot hon (gives_bind (gives_gets _ _) hw))
  · exact done_scalarFrame (wS_scalarFrame hw)

/-! ## disc (R267) -/

theorem exec_disc (f : XR) (s : State) : exec (.disc f) s = issue (.disc f) (whenSlot f.pred f.sense do
    let a ← rS f.a
    let x ← Eff.gets fun s => s.pkg.discovery (a.toNat / 8 * 8)
    wS f.d x) s := rfl

/-- TBLLEN is a multiple of 8, so an offset at or beyond it stays there when its bits 2:0 are cleared. -/
theorem discovery_beyond {p : Pkg} {a : Nat} (h : p.tbllen ≤ a) : p.discovery (a / 8 * 8) = 0 := by
  have hlen : p.tbllen ≤ a / 8 * 8 := by unfold Pkg.tbllen at *; omega
  simp only [Pkg.discovery, hlen, if_true]

theorem disc_mayIssue (f : XR) (q : SeqId) : (shape (.disc f)).mayIssue q = true ↔ q = .sc := by
  change classesW64 0x7A q = true ↔ q = .sc
  cases q <;> decide

theorem discoveryRead : DiscoveryRead := by
  refine ⟨fun f => ⟨rfl, disc_mayIssue f, fun s tok a s1 t hi hon hr hw => ?_⟩, fun _ _ => discovery_beyond⟩
  have hread : ScalarFrame f.d [f.a] (begun (.disc f) s tok) s1 := rS_scalarFrame (List.mem_singleton_self f.a) hr
  have hpkg : s1.pkg = s.pkg := onlyCtx_pkg hread.outside
  refine ⟨?_, done_scalarFrame (scalarFrame_trans hread (wS_scalarFrame hw))⟩
  rw [← hpkg] at hw
  rw [exec_disc]
  exact issue_next hi (gives_whenSlot hon (gives_bind hr (gives_bind (gives_gets _ _) hw)))

/-! ## srseed (R171, R285) -/

/-- The state with all lane generators seeded from a word (R171). -/
def seeded (a : Word) (s : State) : State := s.modCtx fun c => { c with srs := seedSrs (fldv a 0 32) }

theorem exec_srseed (f : XR) (s : State) : exec (.srseed f) s = issue (.srseed f) (whenSlot f.pred f.sense do
    let a ← rS f.a
    Eff.mod (seeded a)) s := rfl

theorem toNat_ite_eq_zero (x d : BitVec 32) : (if x = 0 then d else x).toNat = if x.toNat = 0 then d.toNat else x.toNat := by
  by_cases h : x = 0
  · have hx : x.toNat = 0 := congrArg BitVec.toNat h
    rw [if_pos h, if_pos hx]
  · have hx : x.toNat ≠ 0 := fun k => h (BitVec.eq_of_toNat_eq k)
    rw [if_neg h, if_neg hx]

theorem toNat_seedSrs (a : Word) {l : Nat} (hl : l < 64) : (vget (seedSrs (fldv a 0 32)) l).toNat =
    (let x := (a.toNat + l * 0x6A09E667) % 2 ^ 32
     if x = 0 then 0x5D2E9A63 else x) := by
  have hx : (fldv a 0 32 + BitVec.ofNat 32 (l * 0x6A09E667)).toNat = (a.toNat + l * 0x6A09E667) % 2 ^ 32 := by
    rw [BitVec.toNat_add, BitVec.extractLsb'_toNat, BitVec.toNat_ofNat, Nat.shiftRight_zero, ← Nat.add_mod]
  rw [seedSrs, vget_ofFn _ hl]
  dsimp only
  rw [toNat_ite_eq_zero, hx, show (0x5D2E9A63 : BitVec 32).toNat = 0x5D2E9A63 from rfl]

theorem seedForm : SeedForm := by
  refine fun f => ⟨rfl, fun s tok a t hi hon hr => ?_⟩
  have he : exec (.srseed f) s = .next (done (.srseed f) s (seeded a t)) := by
    rw [exec_srseed]
    exact issue_next hi (gives_whenSlot hon (gives_bind hr (gives_mod (seeded a) t)))
  obtain ⟨q, rfl, -⟩ := rS_state hr
  have hs : OnlyProgress { s.ctx with q := q, srs := seedSrs (fldv a 0 32) }
      (seeded a ((begun (.srseed f) s tok).modCtx fun c => { c with q := q })).ctx :=
    ⟨rfl, (begun_onlyProgress (.srseed f) s tok).latch⟩
  have hd := hs.trans (done_onlyProgress (.srseed f) s _)
  refine ⟨_, he, rfl, ?_, ?_, ?_, ?_, hd.latch s.turn, ?_, ?_, fun l hl => ?lanes⟩
  case lanes =>
    rw [hd.only]
    exact toNat_seedSrs a hl
  all_goals rw [hd.only]

/-- Settles O59: each form issues with an effect that ends, so it completes; what it leaves is read off the frames of the issue, the
operands and the completion, one after the other. -/
theorem timestampDiscoveryAndSeed : Obligations.TimestampDiscoveryAndSeed := ⟨timestampRead, discoveryRead, seedForm⟩

end Sys2Proof.Proofs
end
